-- ==== Sys2Proof/Word.lean ====
section
/-! DEFINITION. The words of the machine (R2, R31, R42, R43) and the sorted association list that holds memory,
registers and tables in one canonical form. -/

namespace Sys2Proof

/-- A byte of memory. -/
abbrev Byte := BitVec 8
/-- One 32-bit register of one lane, or an S register (R42). -/
abbrev Word := BitVec 32
/-- A register pair, a witness, an address (R43, R217). -/
abbrev DWord := BitVec 64
/-- One instruction slot (R31). -/
abbrev Slot := BitVec 96

/-- A sparse table: pairs of key and value, keys strictly rising, no value equal to the default. -/
abbrev SMap (α : Type) := List (Nat × α)

/-- The value at a key; `d` is what an unlisted key holds. -/
def SMap.get {α : Type} (d : α) : SMap α → Nat → α
  | [], _ => d
  | (k, v) :: t, x => if x = k then v else SMap.get d t x

/-- Put a value at its place in the order of keys. -/
def SMap.ins {α : Type} : SMap α → Nat → α → SMap α
  | [], x, a => [(x, a)]
  | (k, v) :: t, x, a =>
    if x < k then (x, a) :: (k, v) :: t
    else if x = k then (x, a) :: t
    else (k, v) :: SMap.ins t x a

/-- Write a key: writing the default removes the entry. -/
def SMap.set {α : Type} [DecidableEq α] (d : α) (m : SMap α) (x : Nat) (a : α) : SMap α :=
  if a = d then m.filter (fun e => decide (e.1 ≠ x)) else SMap.ins m x a

/-- The canonical form: keys strictly rising and no entry equal to the default. -/
def SMap.wf {α : Type} [DecidableEq α] (d : α) : SMap α → Bool
  | [] => true
  | [(_, v)] => decide (v ≠ d)
  | (k, v) :: (k', v') :: t => decide (v ≠ d) && decide (k < k') && SMap.wf d ((k', v') :: t)

/-- A table filled from a function on the keys below `n`. -/
def SMap.ofFn {α : Type} [DecidableEq α] (d : α) (n : Nat) (f : Nat → α) : SMap α :=
  (List.range n).filterMap (fun k => if f k = d then none else some (k, f k))

/-- Keep the keys that satisfy a test; the others read as the default again. -/
def SMap.keep {α : Type} (m : SMap α) (p : Nat → Bool) : SMap α := m.filter (fun e => p e.1)

/-- The keys at which a table of flags is true. -/
def SMap.raised (m : SMap Bool) : List Nat := (m.filter (fun e => e.2)).map (fun e => e.1)

/-- Lane `l` of a mask. -/
def bit (m : Word) (l : Nat) : Bool := m.getLsbD l

/-- The lanes of a mask in ascending order (R5). -/
def lanes (m : Word) : List Nat := (List.range 32).filter (fun l => m.getLsbD l)

/-- The mask with exactly the given lanes. -/
def maskOf (ls : List Nat) : Word := ls.foldl (fun m l => m ||| BitVec.ofNat 32 (2 ^ l)) 0

/-- The mask of the lanes below 32 that satisfy a test. -/
def maskWhere (p : Nat → Bool) : Word := maskOf ((List.range 32).filter p)

/-- The lane mask with every lane set. -/
def allLanes : Word := 0xFFFFFFFF

/-- The lowest lane of a mask. -/
def lowest? (m : Word) : Option Nat := (lanes m).head?

/-- Sign-extend the low `w` bits of a natural number to an integer. -/
def signedOf (w n : Nat) : Int := if n % 2 ^ w < 2 ^ (w - 1) then (n % 2 ^ w : Nat) else (n % 2 ^ w : Nat) - (2 ^ w : Nat)

/-- An integer modulo `2^w` as a natural number. -/
def wrapTo (w : Nat) (i : Int) : Nat := (i % (2 ^ w : Nat)).toNat

/-- The `n` little-endian bytes of a natural number (R2). -/
def toBytes : Nat → Nat → List Byte
  | 0, _ => []
  | n + 1, x => BitVec.ofNat 8 x :: toBytes n (x / 256)

/-- The natural number of little-endian bytes (R2). -/
def ofBytes : List Byte → Nat
  | [] => 0
  | b :: t => b.toNat + 256 * ofBytes t

/-- Bits `lo` to `lo + n - 1` of a natural number. -/
def bitsAt (x lo n : Nat) : Nat := (x / 2 ^ lo) % 2 ^ n

/-- `floor(log2 n)` by structural recursion on fuel; 0 for 0. -/
def log2Aux : Nat → Nat → Nat
  | 0, _ => 0
  | f + 1, n => if n < 2 then 0 else 1 + log2Aux f (n / 2)

/-- `ceil(a / b)`. -/
def ceilDiv (a b : Nat) : Nat := (a + b - 1) / b

/-- Round up to a multiple. -/
def roundUp (a b : Nat) : Nat := ceilDiv a b * b

end Sys2Proof
end

