-- ==== Sys2Proof/Config.lean ====
section
/-! DEFINITION. What the manual fixes for this part, and the values it leaves open (opaque: nothing can evaluate them). -/

namespace Sys2Proof.Config

/-- Cores of the package (R8). -/
abbrev nCores : Nat := 1280
/-- Clusters and Prefects (R8). -/
abbrev nClusters : Nat := 80
/-- Compute dies (R8). -/
abbrev nDies : Nat := 8
/-- Local HBM in bytes (R10). -/
abbrev hbmBytes : Nat := 2 ^ 40
/-- First byte of the reserved top of local HBM (R413). -/
abbrev reservedBase : Nat := 0xE000000000
/-- A core's scratchpad (R10). -/
abbrev coreSpad : Nat := 3 * 2 ^ 20
/-- A cluster's scratchpad (R10). -/
abbrev clusterSpad : Nat := 2 ^ 23
/-- A system core's own scratchpad (R362). -/
abbrev sysSpad : Nat := 2 ^ 18
/-- Tiles of a core (R10). -/
abbrev nTiles : Nat := 32
/-- E-block granules of a core (R148). -/
abbrev nGranules : Nat := 48
/-- The horizon lags of R220 in ticks, by scope code. -/
def lag : Nat → Nat
  | 1 => 8
  | 2 => 24
  | 3 => 64
  | 4 => 240
  | _ => 0

/-- Free value: does entry `n` of the cluster TLBs stay when a clock passes (R208 gives no size and no replacement)? DESIGN CHOICE, log entry 10. -/
opaque keepsTlb : Nat → Nat → Bool
/-- Free value: the device key-encryption key (R418: derived from fuse secrets, it never leaves the security core). Log entry 13. -/
opaque kek : List Byte
/-- Free value: the size of a logical block of the drive on a port, as the power of two above 512 bytes (R384, R456). DESIGN CHOICE, log entry 11. -/
opaque lbaShift : Nat → Fin 8
/-- Free value: an unspecified word, by a counter of the state and the word's number. DESIGN CHOICE, log entry 12. -/
opaque freeWord : Nat → Nat → BitVec 64
/-- Free value: the device key's RSA-3072 signature of a SHA-256 digest, by RSAPSS or RSASSA (R423, R425: the key never leaves the
security core). Log entry 13. -/
opaque sign : Bool → List Byte → BitVec 3072
/-- Free values of the certificates 0 (the root), 1 (the model authority) and 2 (the device) of slot 0 (R423): the modulus less its top bit, the
public exponent, the serial number, the dates, and the signatures that an authority's key gives. Log entry 13. -/
opaque certKey : Nat → BitVec 3071
@[inherit_doc certKey] opaque certExp : Nat → Nat
@[inherit_doc certKey] opaque certSerial : Nat → BitVec 63
@[inherit_doc certKey] opaque certDate : Nat → Nat → Nat
@[inherit_doc certKey] opaque certSign : Nat → List Byte → BitVec 3072
/-- Free values: the TYPEs of the messages by which a shard asks which region holds an address and is answered (R378 gives them none). DESIGN CHOICE,
log entry 81. -/
opaque askType : BitVec 16
@[inherit_doc askType] opaque tellType : BitVec 16
/-- Free value: the firmware images that the device was made with: 0 security, 1 management, 2 front-end (R422). DESIGN CHOICE, log entry 101. -/
opaque madeWith : Nat → List Byte
/-- Free value: the device's serial number (R423). Log entry 13. -/
opaque serial : BitVec 64
/-- Free value: the identity a context image records for this device (R350). DESIGN CHOICE, log entry 14. -/
opaque deviceId : BitVec 64
/-- Free value: the row of HBM that a location lies in, as stack + 16 × (channel, pseudo-channel and bank) + 2^36 × row (R436; R206 leaves the mapping
open). DESIGN CHOICE, log entry 15. -/
opaque hbmRow : Nat → Nat
/-- Free value: the 64 KiB frames that a row of HBM touches (R437). DESIGN CHOICE, log entry 15. -/
opaque rowFrames : Nat → List (Fin (2 ^ 24))
/-- Free value: the HBM channel of a location (R434; R206 leaves the mapping open). DESIGN CHOICE, log entry 15. -/
opaque hbmChannel : Nat → Fin 512
/-- Free value: the die of a local HBM frame (R206 leaves the mapping open). DESIGN CHOICE, log entry 15. -/
opaque hbmDie : Nat → Fin 8

end Sys2Proof.Config
end

