-- ==== Sys2Proof/Machine/Crypto.lean ====
section
/-! DEFINITION. The standard algorithms the manual names: AES-256 with XTS and CMAC (R414, R415), AES key wrap (R418),
SHA-256 (R422, R423), CRC-32C (R125, R350). -/

namespace Sys2Proof.Crypto

/-! ### AES-256 (FIPS 197) -/

/-- Multiplication by x in GF(2^8). -/
def xtime (a : Byte) : Byte := if a.getLsbD 7 then (a <<< 1) ^^^ 0x1B else a <<< 1

/-- Multiplication in GF(2^8), over the bits of the first factor from the lowest. -/
def gmulAux : Nat → Byte → Byte → Byte
  | 0, _, _ => 0
  | n + 1, a, b => (if a.getLsbD 0 then b else 0) ^^^ gmulAux n (a >>> 1) (xtime b)

def gmul (a b : Byte) : Byte := gmulAux 8 a b

/-- The inverse in GF(2^8): a^254, and 0 for 0. -/
def ginv (a : Byte) : Byte :=
  let a2 := gmul a a
  let a3 := gmul a2 a
  let a6 := gmul a3 a3
  let a12 := gmul a6 a6
  let a15 := gmul a12 a3
  let a30 := gmul a15 a15
  let a60 := gmul a30 a30
  let a120 := gmul a60 a60
  let a126 := gmul a120 a6
  let a127 := gmul a126 a
  gmul a127 a127

def sbox (a : Byte) : Byte :=
  let b := ginv a
  b ^^^ b.rotateLeft 1 ^^^ b.rotateLeft 2 ^^^ b.rotateLeft 3 ^^^ b.rotateLeft 4 ^^^ 0x63

def invSbox (a : Byte) : Byte := ginv (a.rotateLeft 1 ^^^ a.rotateLeft 3 ^^^ a.rotateLeft 6 ^^^ 0x05)

def xorBytes (a b : List Byte) : List Byte := List.zipWith (fun x y => x ^^^ y) a b

/-- A list cut into pieces of `k`. -/
def chunks (k : Nat) : Nat → List Byte → List (List Byte)
  | 0, _ => []
  | n + 1, l => if l.isEmpty then [] else l.take k :: chunks k n (l.drop k)

/-- The next word of the key schedule, from the words so far (newest first). -/
def nextWord (i : Nat) (ws : List (List Byte)) : List Byte :=
  let prev := ws.headD []
  let back := (ws.drop 7).headD []
  let t :=
    if i % 8 = 0 then xorBytes ((prev.drop 1 ++ prev.take 1).map sbox) [BitVec.ofNat 8 (2 ^ (i / 8 - 1)), 0, 0, 0]
    else if i % 8 = 4 then prev.map sbox
    else prev
  xorBytes back t

def expandAux : Nat → Nat → List (List Byte) → List (List Byte)
  | 0, _, ws => ws
  | n + 1, i, ws => expandAux n (i + 1) (nextWord i ws :: ws)

/-- The fifteen round keys of a 32-byte key. -/
def roundKeys (key : List Byte) : List (List Byte) :=
  chunks 16 15 ((expandAux 52 8 (chunks 4 8 key).reverse).reverse).flatten

def at_ (l : List Byte) (i : Nat) : Byte := l.getD i 0

def shiftRows (s : List Byte) : List Byte := (List.range 16).map (fun i => at_ s ((i + 4 * (i % 4)) % 16))
def invShiftRows (s : List Byte) : List Byte := (List.range 16).map (fun i => at_ s ((i + 12 * (i % 4)) % 16))

def mixWith (a b c d : Byte) (s : List Byte) : List Byte :=
  (List.range 16).map (fun i =>
    let k := i / 4 * 4
    let r := i % 4
    gmul a (at_ s (k + r)) ^^^ gmul b (at_ s (k + (r + 1) % 4)) ^^^ gmul c (at_ s (k + (r + 2) % 4)) ^^^ gmul d (at_ s (k + (r + 3) % 4)))

def encRounds : List (List Byte) → List Byte → List Byte
  | [], s => s
  | [k], s => xorBytes (shiftRows (s.map sbox)) k
  | k :: k' :: ks, s => encRounds (k' :: ks) (xorBytes (mixWith 2 3 1 1 (shiftRows (s.map sbox))) k)

/-- AES-256 encryption of one 16-byte block. -/
def aesEnc (key blk : List Byte) : List Byte :=
  match roundKeys key with
  | [] => blk
  | k :: ks => encRounds ks (xorBytes blk k)

/-- The inverse cipher with the round keys taken from the last: each middle key is added before the columns are unmixed. -/
def decGo : List (List Byte) → List Byte → List Byte
  | [], s => s
  | [k], s => xorBytes ((invShiftRows s).map invSbox) k
  | k :: k' :: ks, s => decGo (k' :: ks) (mixWith 14 11 13 9 (xorBytes ((invShiftRows s).map invSbox) k))

/-- AES-256 decryption of one 16-byte block. -/
def aesDec (key blk : List Byte) : List Byte :=
  match (roundKeys key).reverse with
  | [] => blk
  | k :: ks => decGo ks (xorBytes blk k)

/-! ### XTS (IEEE 1619), 64-byte data units -/

/-- The tweak times x in GF(2^128), little-endian. -/
def xtsNext (t : List Byte) : List Byte :=
  let n := ofBytes t * 2
  toBytes 16 (if n < 2 ^ 128 then n else (n % 2 ^ 128) ^^^ 0x87)

def xtsGo (f : List Byte → List Byte) : List (List Byte) → List Byte → List Byte
  | [], _ => []
  | b :: bs, t => xorBytes (f (xorBytes b t)) t ++ xtsGo f bs (xtsNext t)

/-- XTS-AES-256 of one line under data key `k1`, tweak key `k2` and tweak value `tw`. -/
def xtsEnc (k1 k2 : List Byte) (tw : Nat) (line : List Byte) : List Byte :=
  xtsGo (aesEnc k1) (chunks 16 4 line) (aesEnc k2 (toBytes 16 tw))

def xtsDec (k1 k2 : List Byte) (tw : Nat) (line : List Byte) : List Byte :=
  xtsGo (aesDec k1) (chunks 16 4 line) (aesEnc k2 (toBytes 16 tw))

/-! ### CMAC (SP 800-38B) -/

/-- Doubling in GF(2^128), big-endian. -/
def dbl (b : List Byte) : List Byte :=
  let n := ofBytes b.reverse * 2
  (toBytes 16 (if n < 2 ^ 128 then n else (n % 2 ^ 128) ^^^ 0x87)).reverse

def cbcMac (key : List Byte) : List (List Byte) → List Byte → List Byte
  | [], x => x
  | b :: bs, x => cbcMac key bs (aesEnc key (xorBytes b x))

/-- AES-256-CMAC of a message whose length is a multiple of 16. -/
def cmac (key msg : List Byte) : List Byte :=
  let k1 := dbl (aesEnc key (List.replicate 16 0))
  let bs := chunks 16 (msg.length / 16) msg
  cbcMac key (bs.dropLast ++ [xorBytes (bs.getLastD []) k1]) (List.replicate 16 0)

/-! ### AES key wrap (RFC 3394) -/

def wrapStep (kek : List Byte) (t : Nat) (a r : List Byte) : List Byte × List Byte :=
  let b := aesEnc kek (a ++ r)
  (xorBytes (b.take 8) (toBytes 8 t).reverse, b.drop 8)

def wrapPass (kek : List Byte) (n j : Nat) : Nat → List Byte → List (List Byte) → List Byte × List (List Byte)
  | _, a, [] => (a, [])
  | i, a, r :: rs =>
    let (a', r') := wrapStep kek (n * j + i) a r
    let (a'', rs') := wrapPass kek n j (i + 1) a' rs
    (a'', r' :: rs')

def wrapGo (kek : List Byte) (n : Nat) : Nat → Nat → List Byte → List (List Byte) → List Byte
  | 0, _, a, rs => a ++ rs.flatten
  | k + 1, j, a, rs => let (a', rs') := wrapPass kek n j 1 a rs; wrapGo kek n k (j + 1) a' rs'

/-- Wrap key data: 8 bytes longer than the data. -/
def keyWrap (kek data : List Byte) : List Byte :=
  wrapGo kek (data.length / 8) 6 0 (List.replicate 8 0xA6) (chunks 8 (data.length / 8) data)

def unwrapPass (kek : List Byte) (n j : Nat) : Nat → List Byte → List (List Byte) → List Byte × List (List Byte)
  | _, a, [] => (a, [])
  | i, a, r :: rs =>
    let b := aesDec kek (xorBytes a (toBytes 8 (n * j + i)).reverse ++ r)
    let (a'', rs') := unwrapPass kek n j (i - 1) (b.take 8) rs
    (a'', b.drop 8 :: rs')

def unwrapGo (kek : List Byte) (n : Nat) : Nat → List Byte → List (List Byte) → List Byte × List Byte
  | 0, a, rs => (a, rs.reverse.flatten)
  | k + 1, a, rs => let (a', rs') := unwrapPass kek n k n a rs; unwrapGo kek n k a' rs'

/-- Unwrap: the key data, none when the integrity value is wrong. -/
def keyUnwrap (kek w : List Byte) : Option (List Byte) :=
  let n := w.length / 8 - 1
  let (a, d) := unwrapGo kek n 6 (w.take 8) (chunks 8 n (w.drop 8)).reverse
  if a = List.replicate 8 0xA6 then some d else none

/-! ### SHA-256 (FIPS 180-4) -/

/-- The first `n` primes (all below 312; a composite there has a factor below 18). -/
def smallPrimes (n : Nat) : List Nat :=
  ((List.range 312).filter (fun p => 1 < p && (List.range 18).all (fun d => d < 2 || d == p || p % d != 0))).take n

/-- The first 32 bits of the fraction of the k-th root of `p`, found bit by bit from the top. -/
def rootBits (k p : Nat) : Nat :=
  (List.range 38).reverse.foldl (fun r i => if (r + 2 ^ i) ^ k ≤ p * 2 ^ (32 * k) then r + 2 ^ i else r) 0 % 2 ^ 32

/-- The round constants: cube roots of the first 64 primes. -/
def shaK : List Nat := (smallPrimes 64).map (rootBits 3)

/-- The initial state: square roots of the first eight primes. -/
def shaH0 : List Word := (smallPrimes 8).map (fun p => BitVec.ofNat 32 (rootBits 2 p))

/-- The message schedule, newest word first. -/
def shaSched : Nat → List Word → List Word
  | 0, ws => ws
  | n + 1, ws =>
    let w15 := ws.getD 14 0
    let w2 := ws.getD 1 0
    let s0 := w15.rotateRight 7 ^^^ w15.rotateRight 18 ^^^ (w15 >>> 3)
    let s1 := w2.rotateRight 17 ^^^ w2.rotateRight 19 ^^^ (w2 >>> 10)
    shaSched n ((ws.getD 15 0 + s0 + ws.getD 6 0 + s1) :: ws)

def shaRound (st : List Word) (kw : Nat × Word) : List Word :=
  match st with
  | [a, b, c, d, e, f, g, h] =>
    let s1 := e.rotateRight 6 ^^^ e.rotateRight 11 ^^^ e.rotateRight 25
    let ch := (e &&& f) ^^^ (~~~e &&& g)
    let t1 := h + s1 + ch + BitVec.ofNat 32 kw.1 + kw.2
    let s0 := a.rotateRight 2 ^^^ a.rotateRight 13 ^^^ a.rotateRight 22
    let mj := (a &&& b) ^^^ (a &&& c) ^^^ (b &&& c)
    [t1 + (s0 + mj), a, b, c, d + t1, e, f, g]
  | _ => st

def shaBlock (st : List Word) (blk : List Byte) : List Word :=
  let w0 := (chunks 4 16 blk).map (fun b => BitVec.ofNat 32 (ofBytes b.reverse))
  let ws := (shaSched 48 w0.reverse).reverse
  List.zipWith (fun x y => x + y) st ((List.zip shaK ws).foldl shaRound st)

/-- SHA-256 of a message. -/
def sha256 (msg : List Byte) : List Byte :=
  let pad := List.replicate ((119 - msg.length % 64) % 64) (0 : Byte)
  let m := msg ++ [0x80] ++ pad ++ (toBytes 8 (8 * msg.length)).reverse
  let st := (chunks 64 (m.length / 64) m).foldl shaBlock shaH0
  (st.map (fun w => (toBytes 4 w.toNat).reverse)).flatten

/-! ### CRC-32C, reflected -/

/-- One bit of the register of R125. -/
def crcBit (s : Word) (b : Bool) : Word :=
  if (s.getLsbD 0) ^^ b then (s >>> 1) ^^^ 0x82F63B78 else s >>> 1

/-- `n` bits of `x` from bit 0 upward (SIGUPDATE is the case n = 64). -/
def crcBits : Nat → Word → Nat → Word
  | 0, s, _ => s
  | n + 1, s, x => crcBits n (crcBit s (x % 2 = 1)) (x / 2)

/-- CRC-32C (RFC 3720) of bytes: initial and final complement. -/
def crc32c (bs : List Byte) : Word := ~~~(bs.foldl (fun s b => crcBits 8 s b.toNat) 0xFFFFFFFF)

end Sys2Proof.Crypto
end

