-- ==== Sys2Proof/Machine/Certificate.lean ====
section
/-! DEFINITION. The certificate chain of SPDM slot 0 (R423): X.509 v3 in DER (RFC 5280, X.690). The keys, serial numbers, dates and signatures are
the part's own (free values, log 13), and so is the layout of the names, which the manual does not give (PRESUMED, log 13). -/

namespace Sys2Proof.Machine.Der

/-- A number's bytes, most significant first. -/
def bigBytes (n x : Nat) : List Byte := (toBytes n x).reverse

/-- The length octets of a value of `n` bytes. -/
def len (n : Nat) : List Byte :=
  if n < 128 then [BitVec.ofNat 8 n] else BitVec.ofNat 8 (128 + (n.log2 / 8 + 1)) :: bigBytes (n.log2 / 8 + 1) n

/-- A value with its tag. -/
def tlv (tag : Nat) (v : List Byte) : List Byte := BitVec.ofNat 8 tag :: (len v.length ++ v)

def seq (vs : List (List Byte)) : List Byte := tlv 0x30 vs.flatten
def bits (v : List Byte) : List Byte := tlv 3 ((0 : Byte) :: v)
def text (s : String) : List Byte := s.toList.map (fun c => BitVec.ofNat 8 c.toNat)

/-- A natural number in the fewest octets, the first of which has its top bit clear. -/
def int (x : Nat) : List Byte := tlv 2 (bigBytes ((x.log2 + 1) / 8 + 1) x)

/-- The algorithm identifier of PKCS #1 with a last arc: 1 rsaEncryption, 11 sha256WithRSAEncryption. -/
def alg (k : Nat) : List Byte := seq [tlv 6 [0x2A, 0x86, 0x48, 0x86, 0xF7, 0x0D, 1, 1, BitVec.ofNat 8 k], tlv 5 []]

/-- An attribute of a name: 3 commonName, 5 serialNumber. -/
def attr (k : Nat) (v : List Byte) : List Byte := tlv 0x31 (seq [tlv 6 [0x55, 4, BitVec.ofNat 8 k], tlv 0x13 v])

/-- The hexadecimal digits of a number, most significant first. -/
def hex : Nat → Nat → List Byte
  | 0, _ => []
  | n + 1, x => hex n (x / 16) ++ [BitVec.ofNat 8 (if x % 16 < 10 then 48 + x % 16 else 55 + x % 16)]

/-- Two decimal digits. -/
def two (x : Nat) : List Byte := [BitVec.ofNat 8 (48 + x / 10 % 10), BitVec.ofNat 8 (48 + x % 10)]

/-- The subject of certificate 0 (the root), 1 (the model authority) or 2 (the device, by its part number and a serial number). -/
def name (i : Nat) : List Byte :=
  match i with
  | 0 => seq [attr 3 (text "Walgus root")]
  | 1 => seq [attr 3 (text "Kloilo model certificate authority")]
  | _ => seq [attr 3 (text "WG-PZ1280"), attr 5 (hex 16 Config.serial.toNat)]

/-- A date of a certificate: its year, month and day. -/
def date (i k : Nat) : List Byte :=
  let d := Config.certDate i k
  tlv 0x17 (two (d % 50) ++ two (1 + d / 50 % 12) ++ two (1 + d / 600 % 28) ++ text "000000Z")

/-- An RSA-3072 public key. -/
def key (i : Nat) : List Byte :=
  seq [alg 1, bits (seq [int (2 ^ 3071 + (Config.certKey i).toNat), int (Config.certExp i)])]

/-- The extensions: those of an authority say that it is one. -/
def extensions (i : Nat) : List Byte :=
  if i < 2 then tlv 0xA3 (seq [seq [tlv 6 [0x55, 0x1D, 0x13], tlv 1 [0xFF], tlv 4 (seq [tlv 1 [0xFF]])]]) else []

/-- What is signed in certificate `i`, by `i - 1` or, for the root, by itself. -/
def body (i : Nat) : List Byte :=
  seq [tlv 0xA0 (int 2), int (Config.certSerial i).toNat, alg 11, name (i - 1), seq [date i 0, date i 1], name i, key i, extensions i]

/-- A certificate with its signature over the SHA-256 digest. -/
def cert (i : Nat) : List Byte :=
  seq [body i, alg 11, bits (bigBytes 384 (Config.certSign (i - 1) (Crypto.sha256 (body i))).toNat)]

/-- The chain in the form of DSP0274: its length, the root's digest, the certificates. -/
def chain : List Byte :=
  let cs := cert 0 ++ cert 1 ++ cert 2
  toBytes 2 (36 + cs.length) ++ [0, 0] ++ Crypto.sha256 (cert 0) ++ cs

/-- What the device key signs of a transcript in SPDM 1.2: a prefix with the context's name, then the digest (DSP0274). -/
def signed (context : String) (transcript : List Byte) : List Byte :=
  let v := text "dmtf-spdm-v1.2.*"
  let c := text context
  v ++ v ++ v ++ v ++ List.replicate (36 - c.length) (0 : Byte) ++ c ++ Crypto.sha256 transcript

/-- The signature of a response. -/
def signature (pss : Bool) (context : String) (transcript : List Byte) : List Byte :=
  bigBytes 384 (Config.sign pss (Crypto.sha256 (signed context transcript))).toNat

end Sys2Proof.Machine.Der
end

