-- ==== Sys2Proof/Types.lean ====
section
/-! DEFINITION. The vocabulary of the encodings (R39 to R56): names for the coded fields and the seven instruction formats. -/

namespace Sys2Proof

/-- TYPE codes (R54). -/
inductive Ty where
  | b32 | b64 | i8 | i16 | i32 | i64 | n8 | n16 | n32 | n64 | f16 | bf16 | f32 | f64 | e4m3 | e5m2
  | mxe4m3 | mxe5m2 | mxe3m2 | mxe2m3 | mxe2m1 | mxi8 | sx2 | sx4 | sx7 | i4
  deriving DecidableEq, Repr

/-- RND codes (R55). -/
inductive Rnd where
  | rn | rz | rd | rp | rs
  deriving DecidableEq, Repr

/-- Memory spaces (R49). -/
inductive Space where
  | c | k | d | g
  deriving DecidableEq, Repr

/-- WIDTH codes (R49). -/
inductive Width where
  | n8 | i8 | n16 | i16 | b32 | b64 | b128
  deriving DecidableEq, Repr

/-- Matrix operand formats (R51). -/
inductive MFmt where
  | bf16 | f16 | f32 | e4m3 | e5m2 | mxe4m3 | mxe5m2 | mxe3m2 | mxe2m3 | mxe2m1 | mxi8 | i8 | i4 | sx2 | sx4 | sx7
  deriving DecidableEq, Repr

/-- Roles (R15, R347). -/
inductive Role where
  | copy | matrix | vector | general
  deriving DecidableEq, Repr

/-- Engine classes (R60). -/
inductive EClass where
  | control | integer | vfloat | uniform | lane | memory | matrix | copy
  deriving DecidableEq, Repr

/-- The kind of a major form (R41). -/
inductive Kind where
  | lane | group | either
  deriving DecidableEq, Repr

/-- Operand classes of R42: `vs` is V with Y = 0 and S with Y = 1, `pc` is P with Y = 0 and C with Y = 1. -/
inductive Cls where
  | none | vec | uni | vs | pred | cond | pc | wit | tile
  deriving DecidableEq, Repr

/-- A register by name, as the scoreboard knows it (R103). -/
inductive Reg where
  | v (i : Nat) | s (i : Nat) | p (i : Nat) | c (i : Nat) | w (i : Nat)
  deriving DecidableEq, Repr

/-- What an instruction does with a register field: its class, how many registers from its index on, their alignment (R43). `part`: the registers
it reads, as an offset and a count, and how many it writes from the first on, where that is not all of them. -/
structure Opd where
  cls : Cls
  n : Nat := 1
  al : Nat := 1
  rd : Bool := false
  wr : Bool := false
  part : Option ((Nat × Nat) × Nat) := none
  deriving DecidableEq, Repr

/-- How a row uses IMM32 (R46): not at all, as B when IB = 1, as an I32 B of any TYPE (FSCL), or in its own way. -/
inductive ImmUse where
  | zero | opB | opBAny | own (ok : Bool)
  deriving DecidableEq, Repr

/-- Which rounding codes a row takes (R55). -/
inductive RndUse where
  | none | std | all
  deriving DecidableEq, Repr

/-- How a row uses a witness field: unused holds 0xF (R45). -/
inductive WitUse where
  | none | rd | wr | rw
  deriving DecidableEq, Repr

/-- The header of R39 without OP and XH: guard negation, guard index, Y. -/
structure Hdr where
  n : Bool
  gi : BitVec 3
  y : Bool
  deriving DecidableEq, Repr

/-- Three-register format (R46). -/
structure F3 where
  h : Hdr
  d : BitVec 8
  a : BitVec 8
  b : BitVec 8
  x : BitVec 8
  ty : Ty
  rnd : Rnd
  ib : Bool
  ub : Bool
  ux : Bool
  var : BitVec 5
  imm : Word
  deriving DecidableEq, Repr

/-- Register-immediate format (R48). -/
structure FI where
  h : Hdr
  d : BitVec 8
  ty : Ty
  var : BitVec 3
  imm : DWord
  deriving DecidableEq, Repr

/-- Memory format (R49). -/
structure FM where
  h : Hdr
  data : BitVec 8
  base : BitVec 8
  index : BitVec 8
  space : Space
  width : Width
  scale : BitVec 2
  ix : Bool
  wi : BitVec 4
  wo : BitVec 4
  sub : BitVec 4
  aon : Bool
  ver : Bool
  ubase : Bool
  uidx : Bool
  off : Word
  deriving DecidableEq, Repr

/-- Branch format (R50). -/
structure FB where
  h : Hdr
  slot : BitVec 3
  cond : BitVec 2
  zero : BitVec 43
  ofs : Word
  deriving DecidableEq, Repr

/-- Matrix format (R51). -/
structure FX where
  h : Hdr
  tile : BitVec 5
  band : BitVec 2
  abase : BitVec 8
  bbase : BitVec 8
  idx : BitVec 8
  sca : BitVec 8
  scb : BitVec 6
  bsel : BitVec 3
  fmta : MFmt
  fmtb : MFmt
  kst : BitVec 4
  chain : BitVec 2
  opx : BitVec 18
  deriving DecidableEq, Repr

/-- Coprocessor format (R52). -/
structure FC where
  h : Hdr
  yc : Bool
  fn : BitVec 7
  re : Bool
  reply : BitVec 8
  sa : BitVec 8
  sb : BitVec 8
  imm : BitVec 48
  deriving DecidableEq, Repr

/-- System format (R53). -/
structure FS where
  h : Hdr
  d : BitVec 8
  a : BitVec 8
  b : BitVec 8
  sel : BitVec 12
  wf : BitVec 4
  var8 : BitVec 8
  imm : Word
  deriving DecidableEq, Repr

/-- A context that executes instructions: a group by its handle (R331), a Prefect, a front-end core, the security core (R61, R362). -/
inductive CtxRef where
  | group (grid idx : Nat)
  | prefect (p : Nat)
  | front (f : Nat)
  | secure
  deriving DecidableEq, Repr

/-- The SPDM transports (R424). -/
inductive Transport where
  | sideband | pcie
  deriving DecidableEq, Repr

/-- What start-up finds at the steps whose outcome the outside decides (R422, R437, R441, R442). -/
structure StartUp where
  sigOk : Bool
  trainOk : Bool
  sparesOk : Bool
  linksOk : Bool
  deriving DecidableEq, Repr

/-- An access a peer device makes to this device's local HBM (R218). -/
inductive PeerAccess where
  | load (addr n : Nat)
  | store (addr : Nat) (bytes : List Byte)
  | atomic (addr w sub op cmp : Nat)
  deriving DecidableEq, Repr

/-- What a row of the encoding tables says of an F3 instruction. -/
structure F3Spec where
  op : Nat
  kind : Kind
  d : Opd
  a : Opd
  b : Opd
  x : Opd
  ty : Bool
  rnd : RndUse
  imm : ImmUse
  var : Bool
  extra : Bool
  deriving DecidableEq, Repr

/-- What a row says of an FM instruction. -/
structure FMSpec where
  op : Nat
  kind : Kind
  data : Opd
  spaces : Bool
  widths : Bool
  wi : WitUse
  wo : WitUse
  sub : Bool
  aon : Bool
  ver : Bool
  tileForm : Bool
  deriving DecidableEq, Repr

/-- What a row says of an FX instruction; `wk`: KST names the W register of the reply, `cd`: the C register that OPX names. -/
structure FXSpec where
  op : Nat
  kind : Kind
  abase : Opd
  bbase : Opd
  idx : Opd
  sca : Opd
  scb : Opd
  extra : Bool
  wk : Bool
  cd : Option Nat
  deriving DecidableEq, Repr

/-- What a row says of an FC instruction. -/
structure FCSpec where
  op : Nat
  sa : Opd
  sb : Opd
  reply : Opd
  replyIsWit : Bool
  extra : Bool
  deriving DecidableEq, Repr

/-- What a row says of an FS instruction. -/
structure FSSpec where
  op : Nat
  kind : Kind
  d : Opd
  a : Opd
  b : Opd
  sel : Bool
  wf : WitUse
  var8 : Bool
  imm : Bool
  extra : Bool
  deriving DecidableEq, Repr

/-- An instruction seen through its format and its row; events have no encoding. -/
inductive Shape where
  | f3 (f : F3) (p : F3Spec)
  | fi (op : Nat) (f : FI) (d : Opd) (ok : Bool)
  | fm (f : FM) (p : FMSpec)
  | fb (op : Nat) (k : Kind) (f : FB) (ok : Bool)
  | fx (f : FX) (p : FXSpec)
  | fc (f : FC) (p : FCSpec)
  | fs (f : FS) (p : FSSpec)
  | udf (bits : BitVec 88)
  | event
  deriving DecidableEq, Repr

end Sys2Proof
end

