-- ==== Sys2Proof/Syntax.lean ====
section
/-! DEFINITION. Every row of the opcode table is a constructor: instructions carry the record of their format (R46 to R53), the
machine's own steps carry what they are about. -/

namespace Sys2Proof

/-- The instructions, then the machine's own steps. -/
inductive Instr where
  /-- R113. Does nothing except retire and be hashed into SIGREG. -/
  | nop (f : FS)
  /-- R114. Per-lane branch: taken lanes run first, and the other lanes are deferred on the reconvergence stack. -/
  | braDiv (f : FB)
  /-- R114. The whole group branches when any live lane takes the branch. -/
  | braAny (f : FB)
  /-- R114. The whole group branches when every live lane takes the branch. -/
  | braAll (f : FB)
  /-- R115. Uniform branch of the whole group on a C guard. -/
  | brc (f : FB)
  /-- R115. Moves the whole group to an address held in an S pair plus a displacement. -/
  | jmpi (f : F3)
  /-- R116. Per-lane call: pushes a CALL entry and moves the selected lanes to the target. -/
  | call (f : FB)
  /-- R116. Uniform indirect call of the whole ACTIVE set. -/
  | calli (f : F3)
  /-- R117. Closes any open regions and returns to the topmost CALL entry. -/
  | ret (f : FS)
  /-- R118. Opens a region joined at its target, with the guarded lanes active. -/
  | split (f : FB)
  /-- R120. Applies JOINSTEP until one region has closed. -/
  | join (f : FS)
  /-- R121. Ends the active lanes, unwinds the stack and may end the group. -/
  | exit (f : FS)
  /-- R122. Makes the group ineligible for issue for n clocks and resets its placement age. -/
  | yield (f : FS)
  /-- R123. Breakpoint: halts under an attached debugger, and otherwise raises BRK at TL1. -/
  | brk (f : FS)
  /-- R126. Compares SIGREG[23:0] with an immediate, resets SIGREG, and raises SIGMISMATCH on a mismatch. -/
  | sigchk (f : FS)
  /-- R126. Sets SIGREG from an immediate or an S register. -/
  | sigset (f : FS)
  /-- R128. Selects the lowest live guarded lane and writes a predicate and its index. -/
  | elect (f : F3)
  /-- R133. Integer add, with optional saturation. -/
  | iadd (f : F3)
  /-- R133. Integer subtract, with optional saturation. -/
  | isub (f : F3)
  /-- R133. Low half of an integer multiply. -/
  | imul (f : F3)
  /-- R133. High half of an integer multiply, signed or natural. -/
  | imulh (f : F3)
  /-- R133. Integer multiply-add modulo the type width. -/
  | imad (f : F3)
  /-- R133. 32-bit multiply-add into a 64-bit pair. -/
  | imadWide (f : F3)
  /-- R134. Integer divide truncating toward zero, with defined divide-by-zero results or an INT_DIVZ trap. -/
  | idiv (f : F3)
  /-- R134. Integer remainder that takes the sign of the dividend. -/
  | irem (f : F3)
  /-- R136. Integer minimum. -/
  | imin (f : F3)
  /-- R136. Integer maximum. -/
  | imax (f : F3)
  /-- R136. Integer absolute value, with optional saturation. -/
  | iabs (f : F3)
  /-- R137. Integer compare combined with a predicate. -/
  | icmp (f : F3)
  /-- R138. Bitwise and. -/
  | andB (f : F3)
  /-- R138. Bitwise or. -/
  | orB (f : F3)
  /-- R138. Bitwise exclusive or. -/
  | xor (f : F3)
  /-- R138. A and not B. -/
  | andn (f : F3)
  /-- R139. Shift left. -/
  | shl (f : F3)
  /-- R139. Logical shift right. -/
  | shr (f : F3)
  /-- R139. Arithmetic shift right. -/
  | sar (f : F3)
  /-- R139. Rotate left. -/
  | rotl (f : F3)
  /-- R140. Population count. -/
  | popc (f : F3)
  /-- R140. Count of leading zeros. -/
  | clz (f : F3)
  /-- R140. Bit reversal. -/
  | brev (f : F3)
  /-- R141. Bit-field extract. -/
  | bfx (f : F3)
  /-- R141. Bit-field insert. -/
  | bfi (f : F3)
  /-- R142. Selects A or B by a predicate. -/
  | sel (f : F3)
  /-- R142. Register or immediate move. -/
  | mov (f : F3)
  /-- R143. Loads a 64-bit immediate. -/
  | movi (f : FI)
  /-- R144. Forms a 64-bit address from a base, a scaled index and an offset. -/
  | lea (f : F3)
  /-- R145. Add or subtract with a carry held in a predicate. -/
  | iaddc (f : F3)
  /-- R146. Predicate logic driven by a truth table. -/
  | pset (f : F3)
  /-- R147. Integer sign or zero extension, with optional saturation. -/
  | iext (f : F3)
  /-- R149. Acquires E-blocks up to a target count, waiting for granules if needed. -/
  | xacq (f : FS)
  /-- R149. Acquires E-blocks only if they can be granted at once, and reports the result in a C register. -/
  | xacqTry (f : FS)
  /-- R151. Releases E-blocks down to a target count once their pending writes have completed. -/
  | xrel (f : FS)
  /-- R152. Reads a register chosen by a per-lane computed index. -/
  | ixrd (f : F3)
  /-- R152. Writes a register chosen by a per-lane computed index. -/
  | ixwr (f : F3)
  /-- R161. Floating add, rounded once. -/
  | fadd (f : F3)
  /-- R161. Floating subtract, rounded once. -/
  | fsub (f : F3)
  /-- R161. Floating multiply, rounded once. -/
  | fmul (f : F3)
  /-- R161. Fused multiply-add, rounded once. -/
  | ffma (f : F3)
  /-- R165. Floating minimum, with optional NaN propagation. -/
  | fmin (f : F3)
  /-- R165. Floating maximum, with optional NaN propagation. -/
  | fmax (f : F3)
  /-- R166. Floating compare combined with a predicate. -/
  | fcmp (f : F3)
  /-- R162. Correctly rounded division. -/
  | fdiv (f : F3)
  /-- R162. Correctly rounded square root. -/
  | fsqrt (f : F3)
  /-- R163. Correctly rounded reciprocal. -/
  | frcp (f : F3)
  /-- R163. Correctly rounded reciprocal square root. -/
  | frsq (f : F3)
  /-- R163. Correctly rounded 2^x. -/
  | fex2 (f : F3)
  /-- R163. Correctly rounded log2 x. -/
  | flg2 (f : F3)
  /-- R163. Correctly rounded tanh x. -/
  | ftanh (f : F3)
  /-- R163. Correctly rounded sin x. -/
  | fsin (f : F3)
  /-- R163. Correctly rounded cos x. -/
  | fcos (f : F3)
  /-- R164. Scales A by 2^n and rounds once. -/
  | fscl (f : F3)
  /-- R168. Writes a class word, or a predicate with .P. -/
  | fcls (f : F3)
  /-- R170. Converts between floating formats. -/
  | fcvt (f : F3)
  /-- R171. Converts an integer to a float. -/
  | icvf (f : F3)
  /-- R172. Converts a float to an integer with saturation. -/
  | fcvi (f : F3)
  /-- R174. Packs values into an MX or SX block. -/
  | fpack (f : F3)
  /-- R175. Unpacks an MX or SX block into values. -/
  | funpk (f : F3)
  /-- R169. Two-element dot product plus an F32 accumulator, rounded once. -/
  | fdot2 (f : F3)
  /-- R167. Rounds to an integral value in the same format. -/
  | frnd (f : F3)
  /-- R165. Clamps A to the range from B to X. -/
  | fclamp (f : F3)
  /-- R179. Lane shuffle within segments, in FROM, ROT, SLIDE or MIRROR mode. -/
  | shfl (f : F3)
  /-- R182. Computes ALL, ANY, EQ or a BALLOT over the lanes of EXEC. -/
  | vote (f : F3)
  /-- R183. Finds lanes with equal values and writes the leader, peers or rank. -/
  | laneMatch (f : F3)
  /-- R184. Reduction over a fixed tree. -/
  | redux (f : F3)
  /-- R184. Inclusive or exclusive prefix scan over a fixed tree. -/
  | scanl (f : F3)
  /-- R180. Broadcasts one lane's value to every lane of EXEC. -/
  | lanerd (f : F3)
  /-- R180. Writes a value into one chosen lane. -/
  | lanewr (f : F3)
  /-- R181. Nibble permute within a lane, with sign extension. -/
  | prmt (f : F3)
  /-- R193. Loads w bytes per lane from one of the four spaces. -/
  | ld (f : FM)
  /-- R194. Stores w bytes per lane and returns a covering witness. -/
  | st (f : FM)
  /-- R225. Waits until a witness is satisfied, then loads. -/
  | ldw (f : FM)
  /-- R197. Checked load that returns a status word instead of faulting. -/
  | ldk (f : FM)
  /-- R200. Tile load, optionally version-checked or gated on a witness. -/
  | tld (f : FM)
  /-- R199. Tile store, optionally all at once under a version word. -/
  | tst (f : FM)
  /-- R201. Takes the lock bits of its lanes' addresses all or none, then loads. -/
  | ldlk (f : FM)
  /-- R202. Stores, then clears the lock bits that the issuing group holds. -/
  | stul (f : FM)
  /-- R203. Atomic operation at the point of coherence in K, D or G. -/
  | atom (f : FM)
  /-- R204. Atomic operation in core scratchpad that respects lock bits. -/
  | atomc (f : FM)
  /-- R226. Merges two witnesses. -/
  | wmrgMrg (f : F3)
  /-- R226. Copies a witness into an S pair. -/
  | wmrgGet (f : F3)
  /-- R226. Copies an S pair into a W register. -/
  | wmrgPut (f : F3)
  /-- R227. Once every earlier store has its witness, writes the store mark. -/
  | wmark (f : F3)
  /-- R228. Waits until a witness is satisfied. -/
  | wwait (f : F3)
  /-- R229. Tests whether a witness is satisfied or expired, without waiting. -/
  | wtest (f : F3)
  /-- R230. Forms a witness of the current tick at a chosen scope. -/
  | wnow (f : F3)
  /-- R238. Sets a bell's expected count now or for the next phase. -/
  | binit (f : FS)
  /-- R238. Sets a bell's expected count at once, which may complete the phase. -/
  | binitNow (f : FS)
  /-- R240. Arrives at a bell and writes a token without waiting. -/
  | barr (f : FS)
  /-- R240. Waits until a token is done and writes the phase witness. -/
  | bwait (f : FS)
  /-- R240. Arrives at a bell and waits for the phase to complete. -/
  | bsync (f : FS)
  /-- R243. Arrival checked against an expected mask, then a wait. -/
  | barrm (f : FS)
  /-- R246. Waits until a memory word differs from a comparand. -/
  | mwait (f : FM)
  /-- R250. Holds issue until the outstanding counters are at or below their limits. -/
  | wait (f : FS)
  /-- R252. Parks the group until a wake tick. -/
  | sleep (f : FS)
  /-- R260. Acquires accumulator tiles up to a target count, waiting if needed. -/
  | macq (f : FX)
  /-- R260. Acquires tiles only if they can be granted at once. -/
  | macqTry (f : FX)
  /-- R260. Releases tiles above a count once their operations retire. -/
  | mrel (f : FX)
  /-- R262. Resets every element of a tile to G = 1 and C = +0 and clears its checksums and poison. -/
  | mzero (f : FX)
  /-- R268. Gathered matrix multiply-accumulate into tile bands over K-steps. -/
  | mma (f : FX)
  /-- R272. Loads a tile and, optionally, its checksums from core scratchpad. -/
  | mlda (f : FX)
  /-- R272. Stores a tile and, optionally, its checksums to core scratchpad. -/
  | msta (f : FX)
  /-- R275. Drains a tile through bias, activation and requantisation to memory. -/
  | mdrn (f : FX)
  /-- R273. Loads an activation table. -/
  | mtab (f : FX)
  /-- R281. Sets the group's matrix class. -/
  | mcls (f : FX)
  /-- R280. Checks a tile against its checksums, raising CHECKSUM or writing a condition. -/
  | mchk (f : FX)
  /-- R290. Sets a tile to affine or sum mode and writes G = 1.0. -/
  | mafm (f : FX)
  /-- R291. Loads gains into the G values of a tile. -/
  | mgain (f : FX)
  /-- R292. Writes constant G and/or C into a range of rows. -/
  | mset (f : FX)
  /-- R295. Runs the Sluice prefix composition and optionally applies the carry. -/
  | mscan (f : FX)
  /-- R297. Reads the carry h into lanes. -/
  | mcryGet (f : FX)
  /-- R297. Writes the carry h from lanes. -/
  | mcryPut (f : FX)
  /-- R297. Reads the underflow bits into lanes. -/
  | mcryUfg (f : FX)
  /-- R297. Clears the underflow bits. -/
  | mcryUfc (f : FX)
  /-- R304. Copy command that moves contiguous or strided rows. -/
  | cpyMove (f : FC)
  /-- R304. Copy command that gathers source rows by an index list. -/
  | cpyGath (f : FC)
  /-- R304. Copy command that scatters destination rows by an index list. -/
  | cpyScat (f : FC)
  /-- R304. Copy command that fills rows with a pattern. -/
  | cpyFill (f : FC)
  /-- R311. Scan units filter HBM rows against a threshold. -/
  | scn (f : FC)
  /-- R313. Returns the id of the group's latest command. -/
  | cpqLast (f : FC)
  /-- R313. Returns the state of a command. -/
  | cpqQry (f : FC)
  /-- R313. Cancels a command. -/
  | cpqCan (f : FC)
  /-- R313. Cancels every command of the group. -/
  | cpqCanall (f : FC)
  /-- R318. A member group arrives at the population resample collective and parks. -/
  | rsmp (f : F3)
  /-- R326. Reads lineage fields or the population index. -/
  | linrd (f : F3)
  /-- R327. Sets the generator key and counter. -/
  | rngsSet (f : F3)
  /-- R327. Reads the generator key. -/
  | rngsGetk (f : F3)
  /-- R327. Reads the generator counter. -/
  | rngsGetn (f : F3)
  /-- R328. Draws random values from the group stream. -/
  | rng (f : F3)
  /-- R326. Reads the population record. -/
  | popq (f : F3)
  /-- R394. Enqueues a launch descriptor and returns a GRIDID. -/
  | launch (f : FS)
  /-- R404. Appends a work record to a feed queue. -/
  | wpush (f : FS)
  /-- R405. Retires expired records and takes the next live record, or parks. -/
  | wpop (f : FS)
  /-- R407. Writes a completion block: witness first, then STATUS. -/
  | wdone (f : FS)
  /-- R408. Tests whether a deadline has passed within a margin. -/
  | dlchk (f : FS)
  /-- R332. Requests a service call: pushes a TRAP entry, posts a record and parks. -/
  | trap (f : FS)
  /-- R342. Returns from trap level k. -/
  | tret (f : FS)
  /-- R346. Reads a system register. -/
  | srget (f : FS)
  /-- R346. Writes a system register that has no row of its own. -/
  | srset (f : FS)
  /-- R363. Writes a region map entry into every cluster's copy, zeroing the region when OWNER changes. -/
  | srsetRmapent (f : FS)
  /-- R363. Sets the translation root of the selected ASN. -/
  | srsetAsnroot (f : FS)
  /-- R365. Writes the hub BAR0 register named by HUBSEL. -/
  | srsetHubdata (f : FS)
  /-- R365. Reads the hub BAR0 register named by HUBSEL. -/
  | srgetHubdata (f : FS)
  /-- R336. Delivers call results to trapped lanes and resumes them. -/
  | resumeLanes (f : FS)
  /-- R338. Settles a FAULT record as resolved or not resolvable. -/
  | resumeLog (f : FS)
  /-- R334. Takes the oldest trap-queue record. -/
  | trqpop (f : FS)
  /-- R353. Saves a group or team to an image. -/
  | ctxsv (f : FS)
  /-- R355. Restores a group or team image. -/
  | ctxld (f : FS)
  /-- R356. Stops a group. -/
  | gkillGrp (f : FS)
  /-- R356. Stops a team. -/
  | gkillTeam (f : FS)
  /-- R356. Kills a whole grid and writes the kill block. -/
  | gkillGrid (f : FS)
  /-- R357. Requests a halt of a group. -/
  | haltgHalt (f : FS)
  /-- R357. Releases a halt. -/
  | haltgGo (f : FS)
  /-- R357. Attaches a debugger. -/
  | haltgAtt (f : FS)
  /-- R357. Detaches the debugger and releases a halt. -/
  | haltgDet (f : FS)
  /-- R357. Releases a slice hold and starts a new slice. -/
  | haltgRel (f : FS)
  /-- R360. Invalidates instruction caches after a witness. -/
  | icsync (f : FS)
  /-- R358. The Prefect waits for event bits. -/
  | park (f : FS)
  /-- R359. Sets the Prefect's acting world and ASN. -/
  | worldSet (f : FS)
  /-- R359. Reads the Prefect's acting world and ASN. -/
  | worldGet (f : FS)
  /-- R210. Invalidates one page translation package-wide. -/
  | tlbinvPage (f : FS)
  /-- R210. Invalidates every translation of an ASN. -/
  | tlbinvAsn (f : FS)
  /-- R210. Invalidates every translation. -/
  | tlbinvAll (f : FS)
  /-- R372. Sends a 64-byte message to a Prefect mailbox or the management block. -/
  | msgsnd (f : FS)
  /-- R372. Takes the oldest message from the mailbox or the management queue. -/
  | msgrcv (f : FS)
  /-- R383. Submits an NVMe descriptor to a port ring. -/
  | iosubNvme (f : FS)
  /-- R383. Submits an Ethernet transmit descriptor. -/
  | iosubTx (f : FS)
  /-- R383. Posts an Ethernet receive buffer. -/
  | iosubRx (f : FS)
  /-- R385. Takes the oldest I/O completion. -/
  | iopoll (f : FS)
  /-- R420. Writes a world table entry. -/
  | keyopWset (f : FS)
  /-- R420. Installs a key. -/
  | keyopKset (f : FS)
  /-- R420. Erases a key and its wrapped copy. -/
  | keyopKdel (f : FS)
  /-- R420. Writes a protected buffer entry and its frame tags. -/
  | keyopBset (f : FS)
  /-- R420. Starts a step or a rekey sweep. -/
  | keyopSweep (f : FS)
  /-- R420. Returns the lines left in a sweep. -/
  | keyopSqry (f : FS)
  /-- R422. Extends a measurement register. -/
  | keyopMext (f : FS)
  /-- R420. Reads a measurement register. -/
  | keyopMrd (f : FS)
  /-- R59. Always raises ILLEGAL_OP. -/
  | udf (bits : BitVec 88)
  /-- R122. The YIELD window expires and the group becomes eligible again with its starvation count at zero. -/
  | yieldWindowEnd
  /-- R150. Granules are granted to the oldest waiting XACQ on a core, which then wakes. -/
  | xacqGrant
  /-- R201. After 8 clocks the blocked lock set is tried again. -/
  | ldlkRetry
  /-- R214. An outstanding store, atomic write or engine-write unit performs and leaves the horizon count. -/
  | storePerform
  /-- R195. Load data reaches the destination registers and their scoreboard marks clear. -/
  | loadDataReturn
  /-- R196. Data for a peer load arrives, and the parked group wakes or its image is updated. -/
  | peerLoadReturn
  /-- R213. Ready operand-log entries are translated again and completed in SEQ order. -/
  | operandLogReplay
  /-- R344. A pending delivered cause is taken at an allowed instruction boundary through fault entry. -/
  | deliveredCauseTaken
  /-- R104. A fetch line arrives in the instruction cache after a miss, with its parity checked. -/
  | lineFetch
  /-- R19. A ready group not chosen for 224 clocks is promoted. -/
  | groupPromotion
  /-- R222. The observed horizon passes a waited witness's tick and the waiting group wakes. -/
  | witnessSatisfiedWake
  /-- R234. Every 256 ticks the link engines send each linked peer their horizon value. -/
  | horizonExchange
  /-- R234. A peer's horizon value arrives and updates the SYSTEM horizon. -/
  | horizonValueReceive
  /-- R234. A peer silent for 1 ms is removed, its pending writes are discarded and it is marked down. -/
  | linkDown
  /-- R240. Waiters whose token is done are released with the phase witness. -/
  | bellWake
  /-- R247. A performing write to the watched sector makes a parked MWAIT read again. -/
  | mwaitRecheck
  /-- R247. The backstop interval expires and a parked MWAIT reads again. -/
  | mwaitIntervalExpiry
  /-- R252. The wake tick is reached and the sleeping group becomes ready. -/
  | sleepWake
  /-- R261. Tiles are granted to the oldest waiting MACQ. -/
  | macqGrant
  /-- R381. A core whose tile and E-block holders are all blocked posts a DEADLOCK record, repeating every 1,250,000 ticks. -/
  | deadlockReport
  /-- R269. A candidate pass closes when all bands are taken or after its fourth clock. -/
  | candidatePassClose
  /-- R256. At a pass boundary the engine starts the waiting pass of highest class. -/
  | passStart
  /-- R255. A 16- or 64-clock pass completes and updates its rows and checksums. -/
  | passRetire
  /-- R256. A non-pass tile operation finishes in engine order and retires from MX. -/
  | tilePortOpComplete
  /-- R276. The last drain write passes and the reply witness is formed. -/
  | drainComplete
  /-- R299. The copy engine starts a queued command in issue order and translates its G pages. -/
  | copyCommandStart
  /-- R307. Every read and write of a command has passed, its reply witness is formed and CP falls. -/
  | copyCommandComplete
  /-- R309. A group parked on CPY .YC wakes at its continuation once the reply is satisfied. -/
  | ycContinue
  /-- R312. The scan writes its pairs and header and forms its reply. -/
  | scnComplete
  /-- R319. All members have arrived, the root checks N and capacity, and copying is prepared. -/
  | rsmpCollectiveReady
  /-- R324. Copies are done, and masks, lineage, the record and the witness are written to every member. -/
  | rsmpComplete
  /-- R405. A push wakes the oldest WPOP parked on the queue. -/
  | wpopWake
  /-- R406. A store clearing CTRL[0] disables a feed queue and wakes its waiters. -/
  | feedQueueDisable
  /-- R406. A store setting CTRL[0] enables a configured feed queue. -/
  | feedQueueEnable
  /-- R334. Records waiting at their sources enter a trap queue when room appears. -/
  | trapRecordAdmit
  /-- R357. The group halts at its next boundary and a HALTED record is posted. -/
  | haltTakesEffect
  /-- R354. A group's slice runs out and its expiry becomes pending. -/
  | sliceExpiry
  /-- R354. No blocking point within FORCEDLY: the group is held and a FORCE record is posted. -/
  | forcedlyExpiry
  /-- R211. The invalidation sweep and dependent loads and I/O finish and the witness is formed. -/
  | tlbinvSweepDone
  /-- R370. A message reaches a mailbox after its transit time. -/
  | messageArrive
  /-- R386. Prefect 0 starts once the security core has verified and written the device kernel. -/
  | prefect0Start
  /-- R386. READY messages not all in within 1 s: a failing REPORT is sent. -/
  | bootTimeout
  /-- R383. Once the submitter's witness is satisfied, the hub reads the buffer and sends the command. -/
  | ioBufferDispatch
  /-- R385. An NVMe or Ethernet command completes and a completion with a witness is queued. -/
  | ioCommandComplete
  /-- R384. A received frame is steered to a Prefect and fills its oldest RX buffer, or is held or dropped. -/
  | rxFrame
  /-- R367. Writing GO starts per-port NVMe and Ethernet bring-up. -/
  | iocfgGo
  /-- R367. A port finishes bring-up or reports an error. -/
  | portBringupDone
  /-- R367. A port not done within 1 s is marked failed. -/
  | portBringupTimeout
  /-- R366. The management block takes Prefect 0's REPORT and sets READY or FAIL. -/
  | report
  /-- R366. The management block forwards a Prefect NOTE as a PLDM event. -/
  | note
  /-- R366. The management block announces a pending warm reset to every Prefect. -/
  | resetpend
  /-- R366. The management block announces a new power cap to every Prefect. -/
  | capset
  /-- R419. The sweep pointer rewrites a line under the new key and VER. -/
  | sweepLine
  /-- R419. The last line is done, VER advances and a rekey installs its material. -/
  | sweepComplete
  /-- R418. A key that is not resident is unwrapped into the key cache and the stalled access resumes. -/
  | keyMissLoad
  /-- R421. The security core serves a ring entry after satisfying its WIT. -/
  | securityRingRequest
  /-- R425. SPDM GET_VERSION resets the connection and the transcript. -/
  | getVersion
  /-- R424. SPDM capabilities request. -/
  | getCapabilities
  /-- R424. SPDM algorithm negotiation. -/
  | negotiateAlgorithms
  /-- R424. SPDM certificate digests request. -/
  | getDigests
  /-- R423. SPDM certificate chain request for slot 0. -/
  | getCertificate
  /-- R425. SPDM challenge answered with a signed CHALLENGE_AUTH. -/
  | challenge
  /-- R424. SPDM measurements, signed on request. -/
  | getMeasurements
  /-- R425. An unsupported SPDM request code receives ERROR UnsupportedRequest. -/
  | spdmUnsupportedRequest
  /-- R446. PLDM read of package power, temperature or DEVSTAT sensors. -/
  | pldmGetSensor
  /-- R446. PLDM effecter that sets the power cap. -/
  | pldmSetPowerCap
  /-- R446. PLDM effecter that requests a warm reset. -/
  | pldmWarmReset
  /-- R446. PLDM firmware image staged in NVM for the next reset. -/
  | pldmFirmwareUpdate
  /-- R441. Auxiliary-power reset runs the full start-up sequence. -/
  | auxPowerReset
  /-- R441. PCIe fundamental or side-band warm reset runs start-up from step 2. -/
  | warmReset
  /-- R443. A cluster's supply sag starts clock-edge skipping. -/
  | supplySag
  /-- R443. Every 64 ticks the skip fraction steps up during a sag or down after recovery. -/
  | sagSkipStep
  /-- R444. Host or side-band write of the package power cap, clamped to range. -/
  | pwrcapWrite
  /-- R444. Each 1 ms the management firmware compares average power with the cap and sets skipping. -/
  | powerCapEval
  /-- R445. A write of a peer table STATE brings a peer up or retires it. -/
  | peerStateWrite
  /-- R439. Host read of local HBM through the BAR4 window. -/
  | bar4Read
  /-- R439. Host write of local HBM through the BAR4 window. -/
  | bar4Write
  /-- R438. Host write of a BAR0 register that has no row of its own. -/
  | bar0RegisterWrite
  /-- R400. A BAR2 kick write updates WRIDX and raises a queue event. -/
  | kick
  /-- R400. A write to a queue's notify word raises the same event as a kick. -/
  | notifyWordWrite
  /-- R399. Creates a user queue in IDLE. -/
  | qctlCreate
  /-- R399. Returns a user queue to DISABLED. -/
  | qctlDestroy
  /-- R399. Returns a queue in ERROR to PENDING. -/
  | qctlResume
  /-- R401. A front-end core handles one queue event under its ordering lock: mapping, unmapping and serving packets. -/
  | frontendEvent
  /-- R398. A NOP packet is consumed. -/
  | packetNop
  /-- R398. A LAUNCH packet is accepted as LAUNCH accepts. -/
  | packetLaunch
  /-- R398. A PUSH packet copies a record into a feed queue. -/
  | packetPush
  /-- R17. The distributor reserves a gang's resources all or none and commits or backs out. -/
  | gangPlacement
  /-- R395. After 12,500 ticks later gangs may be placed around a blocked gang. -/
  | placementHoldExpiry
  /-- R27. An exited group's final wait ends, and team and gang resources are cleared and released. -/
  | groupEnd
  /-- R435. The patrol scrub reads HBM sectors and scratchpad words and corrects or poisons them. -/
  | patrolScrub
  /-- R436. The management block appends an HBM row repair entry after repeated errors. -/
  | repairEntryAppend
  /-- R375. The device kernel serves ALLOC batches from the context heap. -/
  | callAlloc
  /-- R375. The device kernel releases one ALLOC slice. -/
  | callFree
  /-- R375. The device kernel opens a file and returns a descriptor. -/
  | callOpen
  /-- R375. The device kernel closes a descriptor. -/
  | callClose
  /-- R456. The device kernel reads file bytes into a buffer. -/
  | callRead
  /-- R456. The device kernel writes buffer bytes to a file. -/
  | callWrite
  /-- R375. The device kernel opens a UDP socket. -/
  | callSocket
  /-- R375. The device kernel sends a UDP datagram. -/
  | callSend
  /-- R375. The device kernel receives a UDP datagram, with an optional timeout. -/
  | callRecv
  /-- R375. A RECV timeout expires with EAGAIN. -/
  | recvTimeout
  /-- R377. A reply message leads the taking Prefect to RESUME the lanes. -/
  | reply
  /-- R378. The device kernel resolves a FAULT record by demand paging or declares it unresolvable. -/
  | faultService
  /-- R454. The device kernel builds a kill block and issues GKILL.GRID for an ESCALATE record. -/
  | escalateKillPolicy
  /-- R354. The device kernel retries CTXLD of a saved group or team at a team end or every 1,250,000 ticks. -/
  | restoreRetry
  /-- R103. A write pending on a group's scoreboard lands after its latency: the result of a long-latency non-load instruction, or a store's witness formed after translation. -/
  | pendingWriteComplete
  /-- R218. The Aclas link engines serve a load, store or atomic that a peer device makes to this device's memory, as SYSTEM-domain origins. -/
  | peerDeviceAccess
  /-- R443. A cluster's supply recovers from a sag, and its skip fraction then starts stepping back down. -/
  | supplyRecovers
  /-- R394. Once a queued launch's launch witness is satisfied, the distributor reads and validates its descriptor, taking its dependencies or marking it invalid or denied. -/
  | descriptorRead
  /-- R391. An accepted grid's DEP0, DEP1 and grid references become satisfied, and the grid either becomes placeable or, if it is invalid, denied or has zero teams, completes at once. -/
  | gridDependenciesSatisfied
  deriving DecidableEq, Repr

/-- What an event is about: the context, the number of a command, message, queue, core, port or peer, further numbers, bytes and
outcomes that come from outside. The event's meaning says which of these it reads. -/
structure EvArg where
  c : CtxRef := .secure
  id : Nat := 0
  x : Nat := 0
  units : DWord := 0
  ok : Bool := true
  bytes : List Byte := []
  nums : List Nat := []
  start : StartUp := { sigOk := true, trainOk := true, sparesOk := true, linksOk := true }
  access : PeerAccess := .load 0 0
  via : Transport := .sideband
  deriving DecidableEq, Repr

end Sys2Proof
end

