-- ==== Sys2Proof/Machine/Shape.lean ====
section
/-! DEFINITION. What each row of the encoding tables says of its instruction: format, opcode, kind, operand classes and
allowed field values (R57, R111, R132, R149, R159, R178, R192, R224, R237, R245, R259, R288, R300, R313, R317, R330, R382, R393, R420). -/

namespace Sys2Proof

namespace Ty
/-- A type of 64 bits, which takes an even pair of registers (R43). -/
def wide : Ty → Bool
  | .b64 | .i64 | .n64 | .f64 => true
  | _ => false

/-- Registers of one operand of the type. -/
def regs (t : Ty) : Nat := if t.wide then 2 else 1

/-- Width in bits of an integer or plain float type. -/
def bits : Ty → Nat
  | .b64 | .i64 | .n64 | .f64 => 64
  | .b32 | .i32 | .n32 | .f32 => 32
  | .i16 | .n16 | .f16 | .bf16 => 16
  | .i8 | .n8 | .e4m3 | .e5m2 => 8
  | .i4 => 4
  | _ => 32

/-- The signed integer types. -/
def signed : Ty → Bool
  | .i8 | .i16 | .i32 | .i64 | .i4 => true
  | _ => false

/-- The float types that vector arithmetic accepts. -/
def isF : Ty → Bool
  | .f16 | .bf16 | .f32 | .f64 => true
  | _ => false

/-- The block-scaled types with 32 elements (R82). -/
def isMX : Ty → Bool
  | .mxe4m3 | .mxe5m2 | .mxe3m2 | .mxe2m3 | .mxe2m1 | .mxi8 => true
  | _ => false

/-- The shared-exponent types with 16 elements (R85). -/
def isSX : Ty → Bool
  | .sx2 | .sx4 | .sx7 => true
  | _ => false

/-- Elements of one block (R173). -/
def blockElems (t : Ty) : Nat := if t.isMX then 32 else 16

/-- Registers of one block's element field (R173). -/
def blockRegs : Ty → Nat
  | .sx2 => 2
  | .sx4 => 3
  | .sx7 => 4
  | .mxe2m1 => 4
  | .mxe3m2 | .mxe2m3 => 6
  | _ => 8

/-- The code of R54. -/
def code : Ty → Nat
  | .b32 => 0 | .b64 => 1 | .i8 => 2 | .i16 => 3 | .i32 => 4 | .i64 => 5 | .n8 => 6 | .n16 => 7 | .n32 => 8 | .n64 => 9
  | .f16 => 10 | .bf16 => 11 | .f32 => 12 | .f64 => 13 | .e4m3 => 14 | .e5m2 => 15 | .mxe4m3 => 16 | .mxe5m2 => 17
  | .mxe3m2 => 18 | .mxe2m3 => 19 | .mxe2m1 => 20 | .mxi8 => 21 | .sx2 => 22 | .sx4 => 23 | .sx7 => 24 | .i4 => 25

/-- The type of a code; 0x1A to 0x1F are reserved (R54). -/
def ofCode : Nat → Option Ty
  | 0 => some .b32 | 1 => some .b64 | 2 => some .i8 | 3 => some .i16 | 4 => some .i32 | 5 => some .i64 | 6 => some .n8
  | 7 => some .n16 | 8 => some .n32 | 9 => some .n64 | 10 => some .f16 | 11 => some .bf16 | 12 => some .f32 | 13 => some .f64
  | 14 => some .e4m3 | 15 => some .e5m2 | 16 => some .mxe4m3 | 17 => some .mxe5m2 | 18 => some .mxe3m2 | 19 => some .mxe2m3
  | 20 => some .mxe2m1 | 21 => some .mxi8 | 22 => some .sx2 | 23 => some .sx4 | 24 => some .sx7 | 25 => some .i4
  | _ => none
end Ty

/-- The source type a conversion names in VAR (R56). -/
def F3.src (f : F3) : Option Ty := Ty.ofCode f.var.toNat

/-- Bytes of a memory access (R49). -/
def Width.bytes : Width → Nat
  | .n8 | .i8 => 1
  | .n16 | .i16 => 2
  | .b32 => 4
  | .b64 => 8
  | .b128 => 16

/-- Registers of a memory access: w / 4, rounded up to 1 (R192). -/
def Width.regs : Width → Nat
  | .b64 => 2
  | .b128 => 4
  | _ => 1

/-- Rows of a tile access (R192). -/
def FM.rows (f : FM) : Nat := 2 ^ f.scale.toNat

/-- Bytes of a tile (R198). -/
def FM.tileBytes (f : FM) : Nat := 32 * f.width.bytes * f.rows

/-- The width of a unit of access: a 16-byte access is two of 8 bytes (R214). -/
def Width.unit : Width → Width
  | .b128 => .b64
  | w => w

/-- The type whose elements a matrix format holds (R51). -/
def MFmt.ty : MFmt → Ty
  | .bf16 => .bf16 | .f16 => .f16 | .f32 => .f32 | .e4m3 => .e4m3 | .e5m2 => .e5m2 | .mxe4m3 => .mxe4m3 | .mxe5m2 => .mxe5m2
  | .mxe3m2 => .mxe3m2 | .mxe2m3 => .mxe2m3 | .mxe2m1 => .mxe2m1 | .mxi8 => .mxi8 | .i8 => .i8 | .i4 => .i4 | .sx2 => .sx2
  | .sx4 => .sx4 | .sx7 => .sx7

/-- A format with block scales. -/
def MFmt.scaled (m : MFmt) : Bool := m.ty.isMX || m.ty.isSX

namespace Opd
/-- An unused field. -/
def no : Opd := { cls := .none }
/-- A source of `n` registers, aligned to `al`. -/
def src (c : Cls) (n : Nat := 1) (al : Nat := n) : Opd := { cls := c, n := n, al := al, rd := true }
/-- A destination of `n` registers, aligned to `al`. -/
def dst (c : Cls) (n : Nat := 1) (al : Nat := n) : Opd := { cls := c, n := n, al := al, wr := true }
/-- Both. -/
def both (c : Cls) (n : Nat := 1) (al : Nat := n) : Opd := { cls := c, n := n, al := al, rd := true, wr := true }
end Opd

namespace Shape
open Opd

/-- A row of an F3 table. -/
def row3 (f : F3) (op : Nat) (kind : Kind) (tys : List Ty) (d a b x : Opd) (imm : ImmUse := .zero) (rnd : RndUse := .none)
    (var : Bool := f.var == 0) (extra : Bool := true) : Shape :=
  .f3 f { op, kind, d, a, b, x, ty := tys.contains f.ty, rnd, imm, var, extra }

/-- Source and destination of the instruction's own type. -/
def sT (f : F3) : Opd := src .vs f.ty.regs
/-- Destination of the instruction's own type. -/
def dT (f : F3) : Opd := dst .vs f.ty.regs

def b2 : List Ty := [.b32, .b64]
def in4 : List Ty := [.i32, .i64, .n32, .n64]
def bin6 : List Ty := [.b32, .b64, .i32, .i64, .n32, .n64]
def fl4 : List Ty := [.f16, .bf16, .f32, .f64]

/-- D, A, B of one type, B may be the immediate. -/
def arith (f : F3) (op : Nat) (tys : List Ty) (rnd : RndUse := .none) (var : Bool := f.var == 0) (k : Kind := .either) : Shape :=
  row3 f op k tys (dT f) (sT f) (sT f) no .opB rnd var

/-- D and A of one type (R132, R159). -/
def unary (f : F3) (op : Nat) (k : Kind) (tys : List Ty) (rnd : RndUse := .none) (var : Bool := f.var == 0) : Shape :=
  row3 f op k tys (dT f) (sT f) no no .zero rnd var

/-- The combine field of ICMP and FCMP leaves X unused at 00 (R137). -/
def combineX (f : F3) : Opd := if f.var.toNat / 8 = 0 then no else src .pc

/-- A row of an FM table (R192). -/
def rowM (f : FM) (op : Nat) (kind : Kind) (data : Opd) (wi wo : WitUse) (spaces : Bool := true) (widths : Bool := true)
    (sub : Bool := f.sub == 0) (aon ver : Bool := false) (tileForm : Bool := false) : Shape :=
  .fm f { op, kind, data, spaces, widths, wi, wo, sub, aon, ver, tileForm }


/-- A row of an FS table (R330 and the others). -/
def rowS (f : FS) (op : Nat) (kind : Kind := .group) (d : Opd := no) (a : Opd := no) (b : Opd := no) (sel : Bool := f.sel == 0)
    (wf : WitUse := .none) (var8 : Bool := f.var8 == 0) (imm : Bool := f.imm == 0) (extra : Bool := true) : Shape :=
  .fs f { op, kind, d, a, b, sel, wf, var8, imm, extra }

/-- A control instruction of format FS that uses no field (R111). -/
def plainS (f : FS) (op : Nat) : Shape := rowS f op

/-- SUB and WIDTH of the atomics (R49). -/
def atomOk (f : FM) : Bool := f.sub.toNat ≤ 10 && (f.width == .b32 || (f.width == .b64 && f.sub.toNat ≤ 9))

/-- DATA of an atomic: CAS reads the comparand and the operand, and writes the old value over the comparand (R203). -/
def atomData (f : FM) : Opd :=
  let w := f.width.regs
  if f.sub = 9 then { both .vs (2 * w) with part := some ((0, 2 * w), w) } else both .vs w

/-- The constants of MSET: .G reads the first pair, .C the second (R292). -/
def setPairs (f : FX) : Opd :=
  let g := f.opx.getLsbD 0
  let c := f.opx.getLsbD 1
  { src .uni 4 with part := some ((if g then 0 else 2, if g && c then 4 else 2), 0) }

/-- The operations of REDUX and SCANL a type takes (R178). -/
def redOk (f : F3) : Bool :=
  let op := f.var.toNat % 8
  op < 6 && !(3 ≤ op && !b2.contains f.ty) && !((op == 1 || op == 2) && b2.contains f.ty)

end Shape

/-- A system register of R347, R363, R365 and R421 as SRGET and SRSET see it. -/
structure SysReg where
  wide : Bool := false
  write : Bool := false
  perLane : Bool := false
  deriving DecidableEq, Repr

/-- The system registers by number; an unassigned number has none. -/
def sysReg? : Nat → Option SysReg
  | 0x000 => some { perLane := true }
  | 0x001 | 0x002 | 0x003 | 0x004 | 0x005 | 0x006 | 0x007 | 0x008 | 0x009 | 0x00A | 0x00D | 0x00E | 0x00F | 0x010 => some {}
  | 0x00B | 0x00C => some { write := true }
  | 0x011 | 0x012 | 0x015 | 0x016 | 0x017 | 0x018 => some { wide := true, write := true }
  | 0x013 | 0x014 => some { write := true }
  | 0x020 => some { wide := true, perLane := true }
  | 0x100 | 0x101 | 0x102 | 0x109 | 0x10A => some {}
  | 0x103 | 0x104 | 0x105 | 0x106 | 0x107 => some { write := true }
  | 0x10B => some { wide := true }
  | 0x10C => some { write := true }
  | 0x108 | 0x10D => some { wide := true, write := true }
  | _ => none

namespace Shape
open Opd

/-- SRGET: a per-lane register has no uniform form, a wide one needs an even D (R346). -/
def srget (f : FS) (only : Bool) : Shape :=
  match sysReg? f.sel.toNat with
  | some r => rowS f 0xB2 .either (d := dst .vs (if r.wide then 2 else 1)) (sel := only && !(r.perLane && f.h.y))
  | none => rowS f 0xB2 .either (d := dst .vs) (sel := false)

/-- SRSET: only a writable register (R346). -/
def srset (f : FS) (only : Bool) : Shape :=
  match sysReg? f.sel.toNat with
  | some r => rowS f 0xB3 (a := src .uni (if r.wide then 2 else 1)) (sel := only && r.write)
  | none => rowS f 0xB3 (a := src .uni) (sel := false)

/-- The numbers that have rows of their own. -/
def ownRow (n : Nat) : Bool := n == 0x106 || n == 0x108 || n == 0x10D

def halt (f : FS) (v : Nat) : Shape := rowS f 0xC2 (d := dst .uni) (a := src .uni 2) (var8 := f.var8 == BitVec.ofNat 8 v)

def kill (f : FS) (v : Nat) (b : Opd) : Shape := rowS f 0xB8 (d := dst .uni) (a := src .uni 2) (b := b) (var8 := f.var8 == BitVec.ofNat 8 v)

def tlbinv (f : FS) (v : Nat) (a : Opd) : Shape :=
  rowS f 0xBD (a := a) (sel := v != 2 || f.sel == 0) (wf := .wr) (var8 := f.var8 == BitVec.ofNat 8 v)

/-- A row of an FX table: the named fields are used, every other field is zero (R259, R288). -/
def rowX (f : FX) (op : Nat) (kind : Kind := .group) (abase bbase idx sca scb : Opd := no)
    (tile band bsel fmt kst chain wk : Bool := false) (opx : Bool := f.opx == 0) (cd : Option Nat := none) : Shape :=
  .fx f { op, kind, abase, bbase, idx, sca, scb
          extra := (tile || f.tile == 0) && (band || f.band == 0) && (bsel || f.bsel == 0) &&
            (fmt || (f.fmta == .bf16 && f.fmtb == .bf16)) && (kst || f.kst == 0) && (chain || f.chain == 0) && opx
          wk, cd := cd.map (· % 8) }

/-- The OPX field of MDRN (R274). -/
def drainOpx (x : BitVec 18) : Bool :=
  let n := x.toNat
  let q := x.getLsbD 2
  !x.getLsbD 17 && (if q then n / 1024 % 8 ≤ 3 && ((Ty.ofCode (n / 32 % 32)).map drainTy).getD false else n / 32 % 256 == 0) &&
  (x.getLsbD 1 || n / 8 % 4 == 0)
where
  /-- The types that .Q takes. -/
  drainTy (t : Ty) : Bool :=
    t.isMX || t.isSX || [Ty.i8, .i16, .i32, .n8, .n16, .n32, .i4, .f16, .bf16, .f32, .f64, .e4m3, .e5m2].contains t

/-- IMM48 of a CPY function: `k` is 0 for .MOVE, 1 for .GATH and .SCAT, 2 for .FILL (R301, R52). -/
def rowsImm (f : FC) (k : Nat) : Bool :=
  let n := f.imm.toNat
  n / 256 % 2 ^ 13 == 0 && (k == 2 || n / 128 % 2 == 0) && (if k == 1 then n / 32 % 4 ≤ 1 else n / 32 % 4 == 0) &&
  (k != 2 || n / 4 % 4 == 0) && (if f.yc then n / 2 ^ 21 % 8 < 5 else n / 2 ^ 21 == 0)

def rowCpy (f : FC) (fn : Nat) (sb : Opd) (imm : Bool) : Shape :=
  .fc f { op := 0x90, sa := src .uni 8, sb, reply := dst .wit, replyIsWit := true, extra := f.fn.toNat == fn && imm }

/-- IMM48 of SCN (R311). -/
def scnImm (f : FC) : Bool :=
  let n := f.imm.toNat
  n / 2 ^ 20 == 0 && n / 128 % 2 == 0 &&
  ((Ty.ofCode (n / 4 % 32)).map (fun t => [Ty.i8, .i16, .i32, .i64, .n8, .n16, .n32, .n64, .f16, .bf16, .f32, .f64].contains t)).getD false

def rowCpq (f : FC) (fn : Nat) (sa : Opd) : Shape :=
  .fc f { op := 0x92, sa, sb := no, reply := dst .uni, replyIsWit := false, extra := !f.yc && f.fn.toNat == fn && f.imm == 0 }

def iosub (f : FS) (k : Nat) : Shape :=
  rowS f 0xBB (d := dst .cond) (a := src .uni) (sel := f.sel.toNat < 8) (wf := .rd) (var8 := f.var8.toNat < 8 && f.var8.toNat % 4 == k)

def keyop (f : FS) (v : Nat) (a b : Opd) : Shape :=
  rowS f 0xBF (d := dst .uni) (a := a) (b := b) (sel := if v ≥ 6 then f.sel.toNat < 16 else f.sel == 0) (var8 := f.var8.toNat == v)

end Shape

open Shape Opd in
/-- Each instruction through its format and its row. -/
def Instr.shape : Instr → Shape
  -- R111
  | .nop f => rowS f 0x00 .either
  | .braDiv f => .fb 0x01 .lane f (f.cond == 0)
  | .braAny f => .fb 0x01 .lane f (f.cond == 1)
  | .braAll f => .fb 0x01 .lane f (f.cond == 2)
  | .brc f => .fb 0x02 .group f (f.cond == 0)
  | .jmpi f => row3 f 0x03 .group [.b32] no (src .uni 2) no no (.own true)
  | .call f => .fb 0x04 .lane f (f.cond == 0)
  | .calli f => row3 f 0x05 .group [.b32] no (src .uni 2) no no (.own true)
  | .ret f => plainS f 0x06
  | .split f => .fb 0x07 .lane f (f.cond == 0)
  | .join f => rowS f 0x08 (extra := f.h.gi == 7 && !f.h.n)
  | .exit f => plainS f 0x09
  | .yield f => rowS f 0x0A (imm := f.imm.toNat ≤ 255)
  | .brk f => rowS f 0x0B (imm := f.imm.toNat < 2 ^ 16)
  | .sigchk f => rowS f 0x0C (imm := f.imm.toNat < 2 ^ 24)
  | .sigset f => rowS f 0x0D (a := if f.var8 == 0 then no else src .uni) (var8 := f.var8.toNat ≤ 1) (imm := f.var8 == 0 || f.imm == 0)
  | .elect f => row3 f 0x0E .lane [.b32] (dst .pred) (dst .uni) no no
  -- R132
  | .iadd f => arith f 0x10 bin6 .none (f.var == 0 || (f.var == 1 && !b2.contains f.ty))
  | .isub f => arith f 0x11 bin6 .none (f.var == 0 || (f.var == 1 && !b2.contains f.ty))
  | .imul f => arith f 0x12 bin6
  | .imulh f => arith f 0x13 in4
  | .imad f => row3 f 0x14 .either bin6 (dT f) (sT f) (sT f) (sT f) .opB
  | .imadWide f => row3 f 0x14 .either [.i32, .n32] (dst .vs 2) (src .vs) (src .vs) (src .vs 2) .opB .none (f.var == 1)
  | .idiv f => arith f 0x15 in4
  | .irem f => arith f 0x16 in4
  | .imin f => arith f 0x17 in4
  | .imax f => arith f 0x18 in4
  | .iabs f => unary f 0x19 .either [.i32, .i64] .none (f.var.toNat ≤ 1)
  | .icmp f => row3 f 0x1A .either bin6 (dst .pc) (sT f) (sT f) (combineX f) .opB .none
      (f.var.toNat % 8 < 6 && !(b2.contains f.ty && f.var.toNat % 8 ≥ 2))
  | .andB f => arith f 0x1C b2
  | .orB f => arith f 0x1D b2
  | .xor f => arith f 0x1E b2
  | .andn f => arith f 0x1F b2
  | .shl f => row3 f 0x20 .either b2 (dT f) (sT f) (src .vs) no .opB
  | .shr f => row3 f 0x21 .either b2 (dT f) (sT f) (src .vs) no .opB
  | .sar f => row3 f 0x22 .either b2 (dT f) (sT f) (src .vs) no .opB
  | .rotl f => row3 f 0x23 .either b2 (dT f) (sT f) (src .vs) no .opB
  | .popc f => row3 f 0x24 .either b2 (dst .vs) (sT f) no no
  | .clz f => row3 f 0x25 .either b2 (dst .vs) (sT f) no no
  | .brev f => unary f 0x26 .either b2
  | .bfx f => row3 f 0x27 .either in4 (dT f) (sT f) (src .vs) no .opB
  | .bfi f => row3 f 0x28 .either b2 (dT f) (sT f) (src .vs) (sT f) .opB
  | .sel f => row3 f 0x29 .either b2 (dT f) (sT f) (sT f) (src .pc) .opB
  | .mov f => row3 f 0x2A .either b2 (dT f) no (sT f) no .opB
  | .movi f => .fi 0x2B f (dst .vs f.ty.regs) (f.var == 0 && (bin6 ++ fl4).contains f.ty &&
      (f.ty.wide || f.imm.toNat < 2 ^ f.ty.bits))
  | .lea f => row3 f 0x2C .either [.b32] (dst .vs 2) (src .vs 2) (src .vs) no (.own true) .none (f.var.toNat < 8)
  | .iaddc f => row3 f 0x2D .either b2 (dT f) (sT f) (sT f) (both .pc) .opB .none (f.var.toNat ≤ 1)
  | .pset f => row3 f 0x2E .either [.b32] (dst .pc) (src .pc) (src .pc) no .zero .none (f.var.toNat < 16)
  | .iext f => row3 f 0x2F .either in4 (dT f) (src .vs ((f.src.getD .b32).regs)) no no (.own (f.imm.toNat ≤ 1)) .none
      ((f.src.map (fun t => [Ty.i8, .i16, .i32, .i64, .n8, .n16, .n32, .n64].contains t)).getD false)
  | .xacq f => rowS f 0x30 (imm := f.imm.toNat ≤ 6)
  | .xacqTry f => rowS f 0x30 (d := dst .cond) (var8 := f.var8 == 1) (imm := f.imm.toNat ≤ 6)
  | .xrel f => rowS f 0x31 (imm := f.imm.toNat ≤ 6)
  | .ixrd f => row3 f 0x32 .lane [.b32] (dst .vec) (src .vec) no no (.own (f.imm.toNat ≤ 255))
  | .ixwr f => row3 f 0x33 .lane [.b32] no (src .vec) (src .vec) no (.own (f.imm.toNat ≤ 255))
  -- R159
  | .fadd f => arith f 0x34 fl4 .all
  | .fsub f => arith f 0x35 fl4 .all
  | .fmul f => arith f 0x36 fl4 .all
  | .ffma f => row3 f 0x37 .either fl4 (dT f) (sT f) (sT f) (sT f) .opB .all
  | .fmin f => arith f 0x38 fl4 .none (f.var.toNat ≤ 1)
  | .fmax f => arith f 0x39 fl4 .none (f.var.toNat ≤ 1)
  | .fcmp f => row3 f 0x3A .either fl4 (dst .pc) (sT f) (sT f) (combineX f) .opB .none true
  | .fdiv f => arith f 0x3B fl4 .std (f.var == 0) .lane
  | .fsqrt f => unary f 0x3C .lane fl4 .std
  | .frcp f => unary f 0x3D .lane [.f16, .bf16, .f32]
  | .frsq f => unary f 0x3E .lane [.f16, .bf16, .f32]
  | .fex2 f => unary f 0x3F .lane [.f16, .bf16, .f32]
  | .flg2 f => unary f 0x40 .lane [.f16, .bf16, .f32]
  | .ftanh f => unary f 0x41 .lane [.f16, .bf16, .f32]
  | .fsin f => unary f 0x42 .lane [.f16, .bf16, .f32]
  | .fcos f => unary f 0x43 .lane [.f16, .bf16, .f32]
  | .fscl f => row3 f 0x44 .lane fl4 (dT f) (sT f) (src .vs) no .opBAny .std
  | .fcls f => row3 f 0x45 .lane fl4 (if f.var == 1 then dst .pred else dst .vec) (sT f) no no
      (.own (if f.var == 1 then f.imm.toNat < 1024 else f.imm == 0)) .none (f.var.toNat ≤ 1)
  | .fcvt f => row3 f 0x46 .either (fl4 ++ [Ty.e4m3, .e5m2]) (dT f) (src .vs (f.src.getD .b32).regs) no no (.own (f.imm.toNat ≤ 1)) .all
      ((f.src.map (fun t => (fl4 ++ [Ty.e4m3, .e5m2]).contains t && t != f.ty)).getD false)
  | .icvf f => row3 f 0x47 .either fl4 (dT f) (src .vs (f.src.getD .b32).regs) no no .zero .all
      ((f.src.map (fun t => [Ty.i8, .i16, .i32, .i64, .n8, .n16, .n32, .n64].contains t)).getD false)
  | .fcvi f => row3 f 0x48 .either in4 (dT f) (src .vs (f.src.getD .b32).regs) no no .zero .std
      ((f.src.map (fun t => fl4.contains t)).getD false)
  | .fpack f => row3 f 0x49 .lane [.mxe4m3, .mxe5m2, .mxe3m2, .mxe2m3, .mxe2m1, .mxi8, .sx2, .sx4, .sx7]
      (dst .vec f.ty.blockRegs 1) (src .vec f.ty.blockElems 1) no (dst .vec) .zero .all
      ((f.src.map (fun t => [Ty.f16, .bf16, .f32].contains t)).getD false)
      (!(f.d.toNat ≤ f.x.toNat && f.x.toNat < f.d.toNat + f.ty.blockRegs))
  | .funpk f => row3 f 0x4A .lane [.f16, .bf16, .f32] (dst .vec (f.src.getD .b32).blockElems 1) (src .vec (f.src.getD .b32).blockRegs 1)
      (src .vec) no .zero .std ((f.src.map (fun t => t.isMX || t.isSX)).getD false)
  | .fdot2 f => row3 f 0x4B .lane [.f16, .bf16] (dst .vec) (src .vec) (src .vec) (src .vec) .zero .all
  | .frnd f => unary f 0x4C .lane fl4 .std
  | .fclamp f => row3 f 0x4D .lane fl4 (dT f) (sT f) (sT f) (sT f) .opB
  -- R178
  | .shfl f => row3 f 0x50 .lane b2 (dT f) (sT f) (src .vec) (dst .pred) .opB .none (f.var.toNat / 4 ≤ 5)
  | .vote f => row3 f 0x51 .lane [.b32] (if f.var.toNat % 4 = 3 then dst .vec else dst .pred) (src .pred) no no .zero .none (f.var.toNat < 8)
  | .laneMatch f => row3 f 0x52 .lane b2 (dst .vec) (sT f) no (dst .pred) .zero .none (f.var.toNat < 3)
  | .redux f => row3 f 0x53 .lane (bin6 ++ [.f32, .f64]) (dT f) (sT f) no no .zero (if f.ty.isF then .std else .none)
      (f.var.toNat < 8 && redOk f)
  | .scanl f => row3 f 0x57 .lane (bin6 ++ [.f32, .f64]) (dT f) (sT f) no no .zero (if f.ty.isF then .std else .none)
      (f.var.toNat < 16 && redOk f)
  | .lanerd f => row3 f 0x54 .lane b2 (dT f) (sT f) (src .vec) (dst .pred) .opB .none (f.var == 0) (f.ib || f.ub)
  | .lanewr f => row3 f 0x55 .lane b2 (dT f) no (sT f) no .opB .none true (f.ib || f.ub)
  | .prmt f => row3 f 0x56 .lane [.b32] (dst .vec) (src .vec) (src .vec) (if f.var.getLsbD 0 then no else src .vec)
      (if f.var.getLsbD 0 then .own true else .opB) .none (f.var.toNat < 8)
  -- R192, R224, R245
  | .ld f => rowM f 0x60 .either (dst .vs f.width.regs) .none .none
  | .st f => rowM f 0x61 .either (src .vs f.width.regs) .none .wr
  | .ldw f => rowM f 0x62 .either (dst .vs f.width.regs) .rd .none
  | .ldk f => rowM f 0x63 .either (dst .vs (f.width.regs + 1) 2) .none .none true (f.width != .b128)
  | .tld f => rowM f 0x64 .lane (dst .vec (2 ^ f.scale.toNat * f.width.regs) f.width.regs) .rd .none true
      ([Width.b32, .b64, .b128].contains f.width) (f.sub == 0) false true true
  | .tst f => rowM f 0x65 .lane (src .vec (2 ^ f.scale.toNat * f.width.regs) f.width.regs) .none .wr true
      ([Width.b32, .b64, .b128].contains f.width) (f.sub == 0) true false true
  | .ldlk f => rowM f 0x66 .lane (dst .vec f.width.regs) .none .none (f.space == .c || f.space == .k) (f.width != .b128)
  | .stul f => rowM f 0x67 .lane (src .vec f.width.regs) .none .wr (f.space == .c || f.space == .k) (f.width != .b128)
  | .atom f => rowM f 0x68 .either (atomData f) .none .wr (f.space != .c) true (atomOk f)
  | .atomc f => rowM f 0x69 .either (atomData f) .none .wr (f.space == .c) true (atomOk f)
  | .mwait f => rowM f 0x7D .group (both .uni f.width.regs) .rd .none true (f.width == .b32 || f.width == .b64)
  | .wmrgMrg f => row3 f 0x6A .group [.b32] (dst .wit) (src .wit) (src .wit) no
  | .wmrgGet f => row3 f 0x6A .group [.b32] (dst .uni 2) (src .wit) no no .zero .none (f.var == 1)
  | .wmrgPut f => row3 f 0x6A .group [.b32] (dst .wit) (src .uni 2) no no .zero .none (f.var == 2)
  | .wmark f => row3 f 0x6B .group [.b32] (dst .wit) no no no
  | .wwait f => row3 f 0x6C .group [.b32] no (src .wit) no no
  | .wtest f => row3 f 0x6D .group [.b32] (dst .cond) (src .wit) no no .zero .none (f.var.toNat ≤ 1)
  | .wnow f => row3 f 0x6E .group [.b32] (dst .wit) no no no .zero .none (1 ≤ f.var.toNat && f.var.toNat ≤ 5)
  -- R237
  | .binit f => rowS f 0x78 (sel := f.sel.toNat < 24) (imm := 1 ≤ f.imm.toNat && f.imm.toNat ≤ 32)
  | .binitNow f => rowS f 0x78 (sel := f.sel.toNat < 24) (var8 := f.var8 == 1) (imm := 1 ≤ f.imm.toNat && f.imm.toNat ≤ 32)
  | .barr f => rowS f 0x79 (d := dst .uni) (sel := f.sel.toNat < 24) (wf := .rd)
  | .bwait f => rowS f 0x7A (d := dst .wit) (a := src .uni) (sel := f.sel.toNat < 24)
  | .bsync f => rowS f 0x7B (d := dst .wit) (sel := f.sel.toNat < 24) (wf := .rd)
  | .barrm f => rowS f 0x7C (d := dst .wit) (a := src .uni) (sel := f.sel.toNat < 24) (wf := .rd)
  | .wait f => rowS f 0x7E (imm := f.imm &&& 0xF0E0E0C0 == 0)
  | .sleep f => rowS f 0x7F (a := if f.var8 == 1 then src .uni 2 else no) (var8 := f.var8.toNat ≤ 1) (imm := f.var8 == 0 || f.imm == 0)
  -- R330, R210
  | .trap f => rowS f 0xB0 .lane (a := src .vec 8 2) (wf := .rw) (var8 := f.var8.toNat ≤ 1) (imm := f.imm.toNat < 2 ^ 16)
  | .tret f => plainS f 0xB1
  | .srget f => Shape.srget f (f.sel != 0x10D)
  | .srgetHubdata f => Shape.srget f (f.sel == 0x10D)
  | .srset f => Shape.srset f (!ownRow f.sel.toNat)
  | .srsetRmapent f => Shape.srset f (f.sel == 0x106)
  | .srsetAsnroot f => Shape.srset f (f.sel == 0x108)
  | .srsetHubdata f => Shape.srset f (f.sel == 0x10D)
  | .resumeLanes f => rowS f 0xB4 (d := dst .uni) (a := src .uni 2) (b := src .uni 2) (wf := .rd) (imm := f.imm.toNat < 4)
  | .resumeLog f => rowS f 0xB4 (d := dst .uni) (a := src .uni 2) (b := src .uni 2) (wf := .rd) (var8 := f.var8 == 1) (imm := f.imm.toNat < 2)
  | .trqpop f => rowS f 0xB5 (d := dst .cond) (a := src .uni) (var8 := f.var8.toNat ≤ 1)
  | .ctxsv f => rowS f 0xB6 (d := dst .uni) (a := src .uni 2) (b := src .uni 2) (wf := .wr) (var8 := f.var8.toNat < 4)
  | .ctxld f => rowS f 0xB7 (d := dst .uni) (a := src .uni 2) (b := src .uni)
  | .gkillGrp f => kill f 0 no
  | .gkillTeam f => kill f 1 no
  | .gkillGrid f => kill f 2 (src .uni)
  | .icsync f => rowS f 0xBE (d := dst .wit) (wf := .rd) (var8 := f.var8.toNat ≤ 1)
  | .park f => rowS f 0xC0 (d := dst .uni) (imm := f.imm.toNat < 256 && f.imm != 0)
  | .worldSet f => rowS f 0xC1 (a := src .uni)
  | .worldGet f => rowS f 0xC1 (d := dst .uni) (var8 := f.var8 == 1)
  | .haltgHalt f => halt f 0
  | .haltgGo f => halt f 1
  | .haltgAtt f => halt f 2
  | .haltgDet f => halt f 3
  | .haltgRel f => halt f 4
  | .tlbinvPage f => tlbinv f 0 (src .uni 2)
  | .tlbinvAsn f => tlbinv f 1 no
  | .tlbinvAll f => tlbinv f 2 no
  -- R259
  | .macq f => rowX f 0x80 (opx := f.opx.toNat ≤ 32)
  | .macqTry f => rowX f 0x80 (opx := f.opx.toNat % 64 ≤ 32 && f.opx.toNat / 64 % 2 == 1 && f.opx.toNat < 1024) (cd := some (f.opx.toNat / 128))
  | .mrel f => rowX f 0x81 (opx := f.opx.toNat ≤ 32)
  | .mzero f => rowX f 0x82 (tile := true)
  | .mma f => rowX f 0x83 .lane (abase := src .uni 2) (bbase := src .uni) (idx := src .vec)
      (sca := if f.fmta.scaled then src .vec else no) (scb := if f.fmtb.scaled then src .uni 8 1 else no)
      (tile := true) (band := true) (fmt := true) (kst := true) (chain := true)
      (bsel := (f.fmta.ty.isMX || !f.bsel.getLsbD 0) && (f.fmtb.ty.isSX || !f.bsel.getLsbD 1) && !f.bsel.getLsbD 2)
  | .mlda f => rowX f 0x84 (bbase := src .uni) (tile := true) (opx := f.opx.toNat ≤ 1)
  | .msta f => rowX f 0x85 (bbase := src .uni) (tile := true) (kst := true) (wk := true) (opx := f.opx.toNat ≤ 1)
  | .mdrn f => rowX f 0x86 (scb := src .uni 8 2) (tile := true) (kst := true) (wk := true) (opx := drainOpx f.opx)
  | .mtab f => rowX f 0x87 (bbase := src .uni) (opx := f.opx.toNat < 4)
  | .mcls f => rowX f 0x88 (opx := f.opx.toNat < 4)
  | .mchk f => rowX f 0x8D (tile := true) (opx := if f.opx.getLsbD 0 then f.opx.toNat < 16 else f.opx == 0)
      (cd := if f.opx.getLsbD 0 then some (f.opx.toNat / 2) else none)
  -- R288
  | .mgain f => rowX f 0x89 (bbase := src .uni) (tile := true) (fmt := (f.fmta == .f32 || f.fmta == .bf16) && f.fmtb == .bf16)
      (opx := f.opx.toNat ≤ 1)
  | .mscan f => rowX f 0x8A (tile := true) (opx := f.opx.toNat < 4)
  | .mcryGet f => rowX f 0x8B .lane (idx := dst .vec 2) (tile := true) (opx := f.opx == 0)
  | .mcryPut f => rowX f 0x8B .lane (idx := src .vec 2) (tile := true) (opx := f.opx == 1)
  | .mcryUfg f => rowX f 0x8B .lane (idx := dst .vec) (tile := true) (opx := f.opx == 2)
  | .mcryUfc f => rowX f 0x8B .lane (tile := true) (opx := f.opx == 3)
  | .mafm f => rowX f 0x8C (tile := true) (opx := f.opx.toNat ≤ 1)
  | .mset f => rowX f 0x8E (abase := setPairs f) (tile := true)
      (opx := f.opx.toNat % 4 != 0 && f.opx.toNat < 2 ^ 14 && f.opx.toNat / 4 % 64 ≤ f.opx.toNat / 256)
  -- R300, R301, R311, R313
  | .cpyMove f => rowCpy f 0 no (rowsImm f 0)
  | .cpyGath f => rowCpy f 1 (src .uni) (rowsImm f 1)
  | .cpyScat f => rowCpy f 2 (src .uni) (rowsImm f 1)
  | .cpyFill f => rowCpy f 3 (if f.imm.getLsbD 7 then src .uni 2 else src .uni) (rowsImm f 2)
  | .scn f => .fc f { op := 0x91, sa := src .uni 8, sb := src .uni 2, reply := dst .wit, replyIsWit := true
                      extra := !f.yc && f.fn.toNat ≤ 1 && scnImm f }
  | .cpqLast f => rowCpq f 0 no
  | .cpqQry f => rowCpq f 1 (src .uni)
  | .cpqCan f => rowCpq f 2 (src .uni)
  | .cpqCanall f => rowCpq f 3 no
  -- R317
  | .rsmp f => row3 f 0x98 .lane [.f32] (dst .pred) (src .vec) (src .vec) (dst .wit) .opB .none (f.var == 0) (f.ib || f.ub)
  | .linrd f => row3 f 0x99 .lane [.b32] (dst .vec (if f.var == 0 then 2 else 1)) no no no .zero .none (f.var.toNat ≤ 4)
  | .rngsSet f => row3 f 0x9A .group [.b32] no (src .uni 2) (src .uni 2) no
  | .rngsGetk f => row3 f 0x9A .group [.b32] (dst .uni 2) no no no .zero .none (f.var == 1)
  | .rngsGetn f => row3 f 0x9A .group [.b32] (dst .uni 2) no no no .zero .none (f.var == 2)
  | .rng f => row3 f 0x9B .either [.b32, .b64, .f32, .f64] (dT f) no no no
  | .popq f => row3 f 0x9C .group [.b32] (dst .uni (if f.var == 2 then 2 else 1)) no no no .zero .none (f.var.toNat ≤ 2)
  -- R393
  | .launch f => rowS f 0xA0 (d := dst .uni) (a := src .uni 2) (wf := .rd)
  | .wpush f => rowS f 0xA1 (d := dst .cond) (a := src .uni) (sel := f.sel.toNat < 2 ^ 11) (wf := .rd) (var8 := f.var8.toNat ≤ 1)
  | .wpop f => rowS f 0xA2 (d := if f.var8 == 1 then dst .cond else no) (a := src .uni) (sel := f.sel.toNat < 2 ^ 11) (wf := .wr)
      (var8 := f.var8.toNat ≤ 1)
  | .wdone f => rowS f 0xA3 (d := dst .wit) (a := src .uni 2) (b := src .uni) (wf := .rd)
  | .dlchk f => rowS f 0xA4 (d := dst .cond) (a := src .uni 2) (imm := f.imm.toNat < 2 ^ 31)
  -- R371, R382
  | .msgsnd f => rowS f 0xB9 (d := dst .cond) (a := src .uni) (b := if f.var8.getLsbD 0 then src .uni else no)
      (sel := if f.var8.getLsbD 0 then f.sel == 0 else f.sel.toNat < 80 || f.sel == 254) (wf := .rd) (var8 := f.var8.toNat < 4)
  | .msgrcv f => rowS f 0xBA (d := dst .cond) (a := src .uni) (var8 := f.var8.toNat < 4)
  | .iosubNvme f => iosub f 0
  | .iosubTx f => iosub f 1
  | .iosubRx f => iosub f 2
  | .iopoll f => rowS f 0xBC (d := dst .cond) (a := src .uni) (var8 := f.var8.toNat ≤ 1)
  -- R420
  | .keyopWset f => keyop f 0 (src .uni) (src .uni)
  | .keyopKset f => keyop f 1 (src .uni) (src .uni)
  | .keyopKdel f => keyop f 2 no (src .uni)
  | .keyopBset f => keyop f 3 (src .uni) (src .uni)
  | .keyopSweep f => keyop f 4 (src .uni) (src .uni)
  | .keyopSqry f => keyop f 5 no (src .uni)
  | .keyopMext f => keyop f 6 (src .uni) no
  | .keyopMrd f => keyop f 7 (src .uni) no
  | .udf b => .udf b
  | .yieldWindowEnd | .xacqGrant | .ldlkRetry | .storePerform | .loadDataReturn | .peerLoadReturn | .operandLogReplay
  | .deliveredCauseTaken | .lineFetch | .groupPromotion | .witnessSatisfiedWake | .horizonExchange | .horizonValueReceive
  | .linkDown | .bellWake | .mwaitRecheck | .mwaitIntervalExpiry | .sleepWake | .macqGrant | .deadlockReport
  | .candidatePassClose | .passStart | .passRetire | .tilePortOpComplete | .drainComplete | .copyCommandStart
  | .copyCommandComplete | .ycContinue | .scnComplete | .rsmpCollectiveReady | .rsmpComplete | .wpopWake | .feedQueueDisable
  | .feedQueueEnable | .trapRecordAdmit | .haltTakesEffect | .sliceExpiry | .forcedlyExpiry | .tlbinvSweepDone | .messageArrive
  | .prefect0Start | .bootTimeout | .ioBufferDispatch | .ioCommandComplete | .rxFrame | .iocfgGo | .portBringupDone
  | .portBringupTimeout | .report | .note | .resetpend | .capset | .sweepLine | .sweepComplete | .keyMissLoad
  | .securityRingRequest | .getVersion | .getCapabilities | .negotiateAlgorithms | .getDigests | .getCertificate | .challenge
  | .getMeasurements | .spdmUnsupportedRequest | .pldmGetSensor | .pldmSetPowerCap | .pldmWarmReset | .pldmFirmwareUpdate
  | .auxPowerReset | .warmReset | .supplySag | .sagSkipStep | .pwrcapWrite | .powerCapEval | .peerStateWrite | .bar4Read
  | .bar4Write | .bar0RegisterWrite | .kick | .notifyWordWrite | .qctlCreate | .qctlDestroy | .qctlResume | .frontendEvent
  | .packetNop | .packetLaunch | .packetPush | .gangPlacement | .placementHoldExpiry | .groupEnd | .patrolScrub
  | .repairEntryAppend | .callAlloc | .callFree | .callOpen | .callClose | .callRead | .callWrite | .callSocket | .callSend
  | .callRecv | .recvTimeout | .reply | .faultService | .escalateKillPolicy | .restoreRetry | .pendingWriteComplete
  | .peerDeviceAccess | .supplyRecovers | .descriptorRead | .gridDependenciesSatisfied => .event

end Sys2Proof
end

