-- ==== Sys2Proof/WellFormed.lean ====
section
/-! DEFINITION. What makes an instruction's encoding legal (R40 to R56): guard, kind, register ranges, reserved codes, unused fields. -/

namespace Sys2Proof

/-- R40: G = 7 with N = 1 is illegal. -/
def Hdr.ok (h : Hdr) : Bool := !(h.gi == 7 && h.n)

/-- R41. -/
def Kind.ok (k : Kind) (y : Bool) : Bool :=
  match k with
  | .lane => !y
  | .group => y
  | .either => true

/-- The class a field has under a given Y (R42). -/
def Cls.under (c : Cls) (y : Bool) : Cls :=
  match c with
  | .vs => if y then .uni else .vec
  | .pc => if y then .cond else .pred
  | c => c

/-- Registers of a class (R42). -/
def Cls.size : Cls → Nat
  | .none => 1
  | .vec => 256
  | .uni => 64
  | .vs => 256
  | .pred | .cond | .pc => 8
  | .wit => 16
  | .tile => 32

/-- R42, R43, R45: the index is aligned and its range lies in the class; an unused field is zero. -/
def Opd.ok (o : Opd) (y : Bool) (i : Nat) : Bool :=
  match o.cls with
  | .none => i == 0
  | c => i % o.al == 0 && i + o.n ≤ (c.under y).size

/-- `n` registers of a field's class from one on. -/
def Opd.span (o : Opd) (y : Bool) (i n : Nat) : List Reg :=
  let is := (List.range n).map (i + ·)
  match o.cls.under y with
  | .vec => is.map .v
  | .uni => is.map .s
  | .pred => is.map .p
  | .cond => is.map .c
  | .wit => is.map .w
  | _ => []

/-- The registers a field names. -/
def Opd.regs (o : Opd) (y : Bool) (i : Nat) : List Reg := o.span y i o.n

/-- The registers that the instruction reads of a field, and those that it writes. -/
def Opd.reads (o : Opd) (y : Bool) (i : Nat) : List Reg :=
  if o.rd then (match o.part with | some ((k, n), _) => o.span y (i + k) n | none => o.regs y i) else []
def Opd.written (o : Opd) (y : Bool) (i : Nat) : List Reg :=
  if o.wr then (match o.part with | some (_, n) => o.span y i n | none => o.regs y i) else []

/-- A witness field: unused holds 0xF (R45). -/
def WitUse.ok (u : WitUse) (i : Nat) : Bool := u != .none || i == 15

/-- A witness field as an operand. -/
def WitUse.opd (u : WitUse) : Opd :=
  match u with
  | .none => .no
  | .rd => .src .wit
  | .wr => .dst .wit
  | .rw => .both .wit

/-- Codes of RND (R55). -/
def RndUse.ok (u : RndUse) (r : Rnd) : Bool :=
  match u with
  | .none => r == .rn
  | .std => r != .rs
  | .all => true

/-- May IMM32 be the B operand of the type (R47)? -/
def immFits (t : Ty) (imm : Word) : Bool :=
  match t with
  | .i8 | .i16 | .i32 | .n8 | .n16 | .n32 | .b32 | .i64 | .n64 | .b64 | .f32 | .f64 => true
  | .f16 | .bf16 => imm.toNat < 2 ^ 16
  | _ => false

/-- IB and IMM32 (R46, R47). -/
def ImmUse.ok (u : ImmUse) (f : F3) : Bool :=
  match u with
  | .zero => !f.ib && f.imm == 0
  | .opB => if f.ib then immFits f.ty f.imm else f.imm == 0
  | .opBAny => f.ib || f.imm == 0
  | .own ok => !f.ib && ok

namespace F3Spec
/-- The B field's operand under IB and UB (R46). -/
def bOpd (p : F3Spec) (f : F3) : Opd := if f.ib then .no else if f.ub then { p.b with cls := .uni } else p.b
/-- The X field's operand under UX (R46). -/
def xOpd (p : F3Spec) (f : F3) : Opd := if f.ux then { p.x with cls := .uni } else p.x

/-- May an S register stand in for a lane operand (R46, R131)? -/
def canU (o : Opd) (y : Bool) : Bool := !y && (o.cls == .vs || o.cls == .vec) && !o.wr

def ok (p : F3Spec) (f : F3) : Bool :=
  f.h.ok && p.kind.ok f.h.y && p.ty && p.rnd.ok f.rnd && p.imm.ok f && p.var && p.extra &&
  !(f.ib && f.ub) && (!f.ub || canU p.b f.h.y) && (!f.ux || canU p.x f.h.y) &&
  p.d.ok f.h.y f.d.toNat && p.a.ok f.h.y f.a.toNat && (p.bOpd f).ok f.h.y f.b.toNat && (p.xOpd f).ok f.h.y f.x.toNat

def fields (p : F3Spec) (f : F3) : List (Opd × Nat) :=
  [(p.d, f.d.toNat), (p.a, f.a.toNat), (p.bOpd f, f.b.toNat), (p.xOpd f, f.x.toNat)]
end F3Spec

namespace FM
/-- BASE: a pair in space G; an S register with Y or UBASE (R49, R188). -/
def baseOpd (f : FM) : Opd := .src (if f.h.y || f.ubase then .uni else .vec) (if f.space == .g then 2 else 1)
/-- INDEX, when IX = 1. -/
def indexOpd (f : FM) : Opd := if f.ix then .src (if f.h.y || f.uidx then .uni else .vec) else .no
end FM

namespace FMSpec
def ok (p : FMSpec) (f : FM) : Bool :=
  f.h.ok && p.kind.ok f.h.y && p.spaces && p.widths && p.wi.ok f.wi.toNat && p.wo.ok f.wo.toNat && p.sub &&
  (p.aon || !f.aon) && (p.ver || !f.ver) && !(f.h.y && (f.ubase || f.uidx)) &&
  (f.ix || ((p.tileForm || f.scale == 0) && !f.uidx)) && (!p.tileForm || (!f.ix && f.ubase)) &&
  p.data.ok f.h.y f.data.toNat && f.baseOpd.ok f.h.y f.base.toNat && f.indexOpd.ok f.h.y f.index.toNat

def fields (p : FMSpec) (f : FM) : List (Opd × Nat) :=
  [(p.data, f.data.toNat), (f.baseOpd, f.base.toNat), (f.indexOpd, f.index.toNat), (p.wi.opd, f.wi.toNat), (p.wo.opd, f.wo.toNat)]
end FMSpec

namespace FXSpec
def ok (p : FXSpec) (f : FX) : Bool :=
  f.h.ok && p.kind.ok f.h.y && p.extra && p.abase.ok f.h.y f.abase.toNat && p.bbase.ok f.h.y f.bbase.toNat &&
  p.idx.ok f.h.y f.idx.toNat && p.sca.ok f.h.y f.sca.toNat && p.scb.ok f.h.y f.scb.toNat

def fields (p : FXSpec) (f : FX) : List (Opd × Nat) :=
  [(p.abase, f.abase.toNat), (p.bbase, f.bbase.toNat), (p.idx, f.idx.toNat), (p.sca, f.sca.toNat), (p.scb, f.scb.toNat),
   (if p.wk then .dst .wit else .no, f.kst.toNat), (if p.cd.isSome then .dst .cond else .no, p.cd.getD 0)]
end FXSpec

namespace FCSpec
/-- RE = 0 leaves REPLY unused: 0xF where it names a witness, else zero (R52). -/
def ok (p : FCSpec) (f : FC) : Bool :=
  f.h.ok && f.h.y && p.extra && p.sa.ok true f.sa.toNat && p.sb.ok true f.sb.toNat &&
  (if f.re then p.reply.ok true f.reply.toNat else f.reply == if p.replyIsWit then 15 else 0)

def fields (p : FCSpec) (f : FC) : List (Opd × Nat) :=
  [(p.sa, f.sa.toNat), (p.sb, f.sb.toNat), (if f.re then p.reply else .no, f.reply.toNat)]
end FCSpec

namespace FSSpec
def ok (p : FSSpec) (f : FS) : Bool :=
  f.h.ok && p.kind.ok f.h.y && p.sel && p.wf.ok f.wf.toNat && p.var8 && p.imm && p.extra &&
  p.d.ok f.h.y f.d.toNat && p.a.ok f.h.y f.a.toNat && p.b.ok f.h.y f.b.toNat

def fields (p : FSSpec) (f : FS) : List (Opd × Nat) :=
  [(p.d, f.d.toNat), (p.a, f.a.toNat), (p.b, f.b.toNat), (p.wf.opd, f.wf.toNat)]
end FSSpec

namespace Shape
/-- A branch's fixed fields (R50). -/
def branchOk (k : Kind) (f : FB) (ok : Bool) : Bool := f.h.ok && k.ok f.h.y && ok && f.slot.toNat < 5 && f.zero == 0

/-- Is the encoding legal? UDF raises ILLEGAL_OP whatever it holds, and an event has no encoding. -/
def ok : Shape → Bool
  | .f3 f p => p.ok f
  | .fi _ f d ok => f.h.ok && ok && d.ok f.h.y f.d.toNat
  | .fm f p => p.ok f
  | .fb _ k f ok => branchOk k f ok
  | .fx f p => p.ok f
  | .fc f p => p.ok f
  | .fs f p => p.ok f
  | .udf _ => true
  | .event => true

/-- The major opcode. -/
def op : Shape → Nat
  | .f3 _ p => p.op
  | .fi op _ _ _ => op
  | .fm _ p => p.op
  | .fb op _ _ _ => op
  | .fx _ p => p.op
  | .fc _ p => p.op
  | .fs _ p => p.op
  | .udf _ => 0xFF
  | .event => 0x100

/-- The header. -/
def hdr : Shape → Hdr
  | .f3 f _ => f.h
  | .fi _ f _ _ => f.h
  | .fm f _ => f.h
  | .fb _ _ f _ => f.h
  | .fx f _ => f.h
  | .fc f _ => f.h
  | .fs f _ => f.h
  | _ => { n := false, gi := 7, y := true }

/-- The operand fields. -/
def fields : Shape → List (Opd × Nat)
  | .f3 f p => p.fields f
  | .fi _ f d _ => [(d, f.d.toNat)]
  | .fm f p => p.fields f
  | .fb _ _ _ _ => []
  | .fx f p => p.fields f
  | .fc f p => p.fields f
  | .fs f p => p.fields f
  | _ => []

/-- The guard of an instruction as a register. -/
def guard (s : Shape) : List Reg := if s.hdr.gi = 7 then [] else [if s.hdr.y then .c s.hdr.gi.toNat else .p s.hdr.gi.toNat]

/-- The registers of its fields that the instruction reads, and those that it writes. -/
def sources (s : Shape) : List Reg := (s.fields.map (fun e => e.1.reads s.hdr.y e.2)).flatten
def writes (s : Shape) : List Reg := (s.fields.map (fun e => e.1.written s.hdr.y e.2)).flatten

/-- Every register the instruction reads or writes, the guard among them (R103). -/
def regs (s : Shape) : List Reg := s.guard ++ s.sources ++ s.writes

/-- The V registers that each lane reads (R430). -/
def vreads (s : Shape) : List Nat := s.sources.filterMap (fun r => match r with | .v i => some i | _ => none)

/-- The V registers named by fields (R44). -/
def vfields (s : Shape) : List Nat :=
  (s.fields.map (fun e => (e.1.regs s.hdr.y e.2).filterMap (fun r => match r with | .v i => some i | _ => none))).flatten
end Shape

/-- A well-formed instruction: its encoding raises no ILLEGAL_ENC (R62, check 3). -/
def Instr.wf (i : Instr) : Bool := i.shape.ok

end Sys2Proof
end

