-- ==== Sys2Proof/Decode.lean ====
section
/-! DEFINITION. From the 96 bits of a slot to an instruction or a named refusal, and back (R31, R39, R46 to R58). -/

namespace Sys2Proof

/-- Why a slot is no instruction: its opcode is not assigned (R58), or its encoding is illegal (R62, check 3). -/
inductive DecodeErr where
  | illegalOp | illegalEnc
  deriving DecidableEq, Repr

/-! ### Codes -/

def Rnd.code : Rnd → Nat
  | .rn => 0 | .rz => 1 | .rd => 2 | .rp => 3 | .rs => 4
def Rnd.ofCode : Nat → Option Rnd
  | 0 => some .rn | 1 => some .rz | 2 => some .rd | 3 => some .rp | 4 => some .rs | _ => none
def Space.code : Space → Nat
  | .c => 0 | .k => 1 | .d => 2 | .g => 3
def Space.ofCode : Nat → Space
  | 0 => .c | 1 => .k | 2 => .d | _ => .g
def Width.code : Width → Nat
  | .n8 => 0 | .i8 => 1 | .n16 => 2 | .i16 => 3 | .b32 => 4 | .b64 => 5 | .b128 => 6
def Width.ofCode : Nat → Option Width
  | 0 => some .n8 | 1 => some .i8 | 2 => some .n16 | 3 => some .i16 | 4 => some .b32 | 5 => some .b64 | 6 => some .b128 | _ => none
def MFmt.code : MFmt → Nat
  | .bf16 => 0 | .f16 => 1 | .f32 => 2 | .e4m3 => 3 | .e5m2 => 4 | .mxe4m3 => 5 | .mxe5m2 => 6 | .mxe3m2 => 7 | .mxe2m3 => 8
  | .mxe2m1 => 9 | .mxi8 => 10 | .i8 => 11 | .i4 => 12 | .sx2 => 13 | .sx4 => 14 | .sx7 => 15
def MFmt.ofCode : Nat → MFmt
  | 0 => .bf16 | 1 => .f16 | 2 => .f32 | 3 => .e4m3 | 4 => .e5m2 | 5 => .mxe4m3 | 6 => .mxe5m2 | 7 => .mxe3m2 | 8 => .mxe2m3
  | 9 => .mxe2m1 | 10 => .mxi8 | 11 => .i8 | 12 => .i4 | 13 => .sx2 | 14 => .sx4 | _ => .sx7

/-! ### From bits to records -/

/-- Field [lo + n - 1 : lo]. -/
abbrev fld (w : Slot) (lo n : Nat) : BitVec n := w.extractLsb' lo n

def unHdr (w : Slot) : Hdr := { n := w.getLsbD 87, gi := fld w 84 3, y := w.getLsbD 83 }

def un3 (w : Slot) : Option F3 :=
  (Ty.ofCode (fld w 43 5).toNat).bind fun ty => (Rnd.ofCode (fld w 40 3).toNat).map fun rnd =>
    { h := unHdr w, d := fld w 72 8, a := fld w 64 8, b := fld w 56 8, x := fld w 48 8, ty, rnd, ib := w.getLsbD 39,
      ub := w.getLsbD 38, ux := w.getLsbD 37, var := fld w 32 5, imm := fld w 0 32 }

def unI (w : Slot) : Option FI :=
  (Ty.ofCode (fld w 67 5).toNat).map fun ty => { h := unHdr w, d := fld w 72 8, ty, var := fld w 64 3, imm := fld w 0 64 }

def unM (w : Slot) : Option FM :=
  (Width.ofCode (fld w 51 3).toNat).map fun width =>
    { h := unHdr w, data := fld w 72 8, base := fld w 64 8, index := fld w 56 8, space := Space.ofCode (fld w 54 2).toNat, width,
      scale := fld w 49 2, ix := w.getLsbD 48, wi := fld w 44 4, wo := fld w 40 4, sub := fld w 36 4, aon := w.getLsbD 35,
      ver := w.getLsbD 34, ubase := w.getLsbD 33, uidx := w.getLsbD 32, off := fld w 0 32 }

def unB (w : Slot) : FB := { h := unHdr w, slot := fld w 77 3, cond := fld w 75 2, zero := fld w 32 43, ofs := fld w 0 32 }

def unX (w : Slot) : Option FX :=
  some { h := unHdr w, tile := fld w 75 5, band := fld w 73 2, abase := fld w 65 8, bbase := fld w 57 8, idx := fld w 49 8,
         sca := fld w 41 8, scb := fld w 35 6, bsel := fld w 32 3, fmta := MFmt.ofCode (fld w 28 4).toNat,
         fmtb := MFmt.ofCode (fld w 24 4).toNat, kst := fld w 20 4, chain := fld w 18 2, opx := fld w 0 18 }

def unC (w : Slot) : FC :=
  { h := unHdr w, yc := w.getLsbD 82, fn := fld w 73 7, re := w.getLsbD 72, reply := fld w 64 8, sa := fld w 56 8, sb := fld w 48 8,
    imm := fld w 0 48 }

def unS (w : Slot) : FS :=
  { h := unHdr w, d := fld w 72 8, a := fld w 64 8, b := fld w 56 8, sel := fld w 44 12, wf := fld w 40 4, var8 := fld w 32 8,
    imm := fld w 0 32 }

/-- Row 0x0_ of the opcode map (R57). -/
def decodeRow0 (w : Slot) : Nat → Option Instr
  | 0x00 => some (.nop (unS w))
  | 0x01 => (let f := unB w; if f.cond == 0 then some (.braDiv f) else if f.cond == 1 then some (.braAny f) else if f.cond == 2 then some (.braAll f) else none)
  | 0x02 => some (.brc (unB w))
  | 0x03 => ((un3 w).map fun f => .jmpi f)
  | 0x04 => some (.call (unB w))
  | 0x05 => ((un3 w).map fun f => .calli f)
  | 0x06 => some (.ret (unS w))
  | 0x07 => some (.split (unB w))
  | 0x08 => some (.join (unS w))
  | 0x09 => some (.exit (unS w))
  | 0x0A => some (.yield (unS w))
  | 0x0B => some (.brk (unS w))
  | 0x0C => some (.sigchk (unS w))
  | 0x0D => some (.sigset (unS w))
  | 0x0E => ((un3 w).map fun f => .elect f)
  | _ => none

/-- Row 0x1_ of the opcode map (R57). -/
def decodeRow1 (w : Slot) : Nat → Option Instr
  | 0x10 => ((un3 w).map fun f => .iadd f)
  | 0x11 => ((un3 w).map fun f => .isub f)
  | 0x12 => ((un3 w).map fun f => .imul f)
  | 0x13 => ((un3 w).map fun f => .imulh f)
  | 0x14 => ((un3 w).bind fun f => if f.var == 0 then some (.imad f) else if f.var == 1 then some (.imadWide f) else none)
  | 0x15 => ((un3 w).map fun f => .idiv f)
  | 0x16 => ((un3 w).map fun f => .irem f)
  | 0x17 => ((un3 w).map fun f => .imin f)
  | 0x18 => ((un3 w).map fun f => .imax f)
  | 0x19 => ((un3 w).map fun f => .iabs f)
  | 0x1A => ((un3 w).map fun f => .icmp f)
  | 0x1C => ((un3 w).map fun f => .andB f)
  | 0x1D => ((un3 w).map fun f => .orB f)
  | 0x1E => ((un3 w).map fun f => .xor f)
  | 0x1F => ((un3 w).map fun f => .andn f)
  | _ => none

/-- Row 0x2_ of the opcode map (R57). -/
def decodeRow2 (w : Slot) : Nat → Option Instr
  | 0x20 => ((un3 w).map fun f => .shl f)
  | 0x21 => ((un3 w).map fun f => .shr f)
  | 0x22 => ((un3 w).map fun f => .sar f)
  | 0x23 => ((un3 w).map fun f => .rotl f)
  | 0x24 => ((un3 w).map fun f => .popc f)
  | 0x25 => ((un3 w).map fun f => .clz f)
  | 0x26 => ((un3 w).map fun f => .brev f)
  | 0x27 => ((un3 w).map fun f => .bfx f)
  | 0x28 => ((un3 w).map fun f => .bfi f)
  | 0x29 => ((un3 w).map fun f => .sel f)
  | 0x2A => ((un3 w).map fun f => .mov f)
  | 0x2B => ((unI w).map fun f => .movi f)
  | 0x2C => ((un3 w).map fun f => .lea f)
  | 0x2D => ((un3 w).map fun f => .iaddc f)
  | 0x2E => ((un3 w).map fun f => .pset f)
  | 0x2F => ((un3 w).map fun f => .iext f)
  | _ => none

/-- Row 0x3_ of the opcode map (R57). -/
def decodeRow3 (w : Slot) : Nat → Option Instr
  | 0x30 => (let f := unS w; if f.var8 == 0 then some (.xacq f) else if f.var8 == 1 then some (.xacqTry f) else none)
  | 0x31 => some (.xrel (unS w))
  | 0x32 => ((un3 w).map fun f => .ixrd f)
  | 0x33 => ((un3 w).map fun f => .ixwr f)
  | 0x34 => ((un3 w).map fun f => .fadd f)
  | 0x35 => ((un3 w).map fun f => .fsub f)
  | 0x36 => ((un3 w).map fun f => .fmul f)
  | 0x37 => ((un3 w).map fun f => .ffma f)
  | 0x38 => ((un3 w).map fun f => .fmin f)
  | 0x39 => ((un3 w).map fun f => .fmax f)
  | 0x3A => ((un3 w).map fun f => .fcmp f)
  | 0x3B => ((un3 w).map fun f => .fdiv f)
  | 0x3C => ((un3 w).map fun f => .fsqrt f)
  | 0x3D => ((un3 w).map fun f => .frcp f)
  | 0x3E => ((un3 w).map fun f => .frsq f)
  | 0x3F => ((un3 w).map fun f => .fex2 f)
  | _ => none

/-- Row 0x4_ of the opcode map (R57). -/
def decodeRow4 (w : Slot) : Nat → Option Instr
  | 0x40 => ((un3 w).map fun f => .flg2 f)
  | 0x41 => ((un3 w).map fun f => .ftanh f)
  | 0x42 => ((un3 w).map fun f => .fsin f)
  | 0x43 => ((un3 w).map fun f => .fcos f)
  | 0x44 => ((un3 w).map fun f => .fscl f)
  | 0x45 => ((un3 w).map fun f => .fcls f)
  | 0x46 => ((un3 w).map fun f => .fcvt f)
  | 0x47 => ((un3 w).map fun f => .icvf f)
  | 0x48 => ((un3 w).map fun f => .fcvi f)
  | 0x49 => ((un3 w).map fun f => .fpack f)
  | 0x4A => ((un3 w).map fun f => .funpk f)
  | 0x4B => ((un3 w).map fun f => .fdot2 f)
  | 0x4C => ((un3 w).map fun f => .frnd f)
  | 0x4D => ((un3 w).map fun f => .fclamp f)
  | _ => none

/-- Row 0x5_ of the opcode map (R57). -/
def decodeRow5 (w : Slot) : Nat → Option Instr
  | 0x50 => ((un3 w).map fun f => .shfl f)
  | 0x51 => ((un3 w).map fun f => .vote f)
  | 0x52 => ((un3 w).map fun f => .laneMatch f)
  | 0x53 => ((un3 w).map fun f => .redux f)
  | 0x54 => ((un3 w).map fun f => .lanerd f)
  | 0x55 => ((un3 w).map fun f => .lanewr f)
  | 0x56 => ((un3 w).map fun f => .prmt f)
  | 0x57 => ((un3 w).map fun f => .scanl f)
  | _ => none

/-- Row 0x6_ of the opcode map (R57). -/
def decodeRow6 (w : Slot) : Nat → Option Instr
  | 0x60 => ((unM w).map fun f => .ld f)
  | 0x61 => ((unM w).map fun f => .st f)
  | 0x62 => ((unM w).map fun f => .ldw f)
  | 0x63 => ((unM w).map fun f => .ldk f)
  | 0x64 => ((unM w).map fun f => .tld f)
  | 0x65 => ((unM w).map fun f => .tst f)
  | 0x66 => ((unM w).map fun f => .ldlk f)
  | 0x67 => ((unM w).map fun f => .stul f)
  | 0x68 => ((unM w).map fun f => .atom f)
  | 0x69 => ((unM w).map fun f => .atomc f)
  | 0x6A => ((un3 w).bind fun f => if f.var == 0 then some (.wmrgMrg f) else if f.var == 1 then some (.wmrgGet f) else if f.var == 2 then some (.wmrgPut f) else none)
  | 0x6B => ((un3 w).map fun f => .wmark f)
  | 0x6C => ((un3 w).map fun f => .wwait f)
  | 0x6D => ((un3 w).map fun f => .wtest f)
  | 0x6E => ((un3 w).map fun f => .wnow f)
  | _ => none

/-- Row 0x7_ of the opcode map (R57). -/
def decodeRow7 (w : Slot) : Nat → Option Instr
  | 0x78 => (let f := unS w; if f.var8 == 0 then some (.binit f) else if f.var8 == 1 then some (.binitNow f) else none)
  | 0x79 => some (.barr (unS w))
  | 0x7A => some (.bwait (unS w))
  | 0x7B => some (.bsync (unS w))
  | 0x7C => some (.barrm (unS w))
  | 0x7D => ((unM w).map fun f => .mwait f)
  | 0x7E => some (.wait (unS w))
  | 0x7F => some (.sleep (unS w))
  | _ => none

/-- Row 0x8_ of the opcode map (R57). -/
def decodeRow8 (w : Slot) : Nat → Option Instr
  | 0x80 => ((unX w).bind fun f => if f.opx.toNat / 64 % 2 == 0 then some (.macq f) else if f.opx.toNat / 64 % 2 == 1 then some (.macqTry f) else none)
  | 0x81 => ((unX w).map fun f => .mrel f)
  | 0x82 => ((unX w).map fun f => .mzero f)
  | 0x83 => ((unX w).map fun f => .mma f)
  | 0x84 => ((unX w).map fun f => .mlda f)
  | 0x85 => ((unX w).map fun f => .msta f)
  | 0x86 => ((unX w).map fun f => .mdrn f)
  | 0x87 => ((unX w).map fun f => .mtab f)
  | 0x88 => ((unX w).map fun f => .mcls f)
  | 0x89 => ((unX w).map fun f => .mgain f)
  | 0x8A => ((unX w).map fun f => .mscan f)
  | 0x8B => ((unX w).bind fun f => if f.opx.toNat % 4 == 0 then some (.mcryGet f) else if f.opx.toNat % 4 == 1 then some (.mcryPut f) else if f.opx.toNat % 4 == 2 then some (.mcryUfg f) else if f.opx.toNat % 4 == 3 then some (.mcryUfc f) else none)
  | 0x8C => ((unX w).map fun f => .mafm f)
  | 0x8D => ((unX w).map fun f => .mchk f)
  | 0x8E => ((unX w).map fun f => .mset f)
  | _ => none

/-- Row 0x9_ of the opcode map (R57). -/
def decodeRow9 (w : Slot) : Nat → Option Instr
  | 0x90 => (let f := unC w; if f.fn == 0 then some (.cpyMove f) else if f.fn == 1 then some (.cpyGath f) else if f.fn == 2 then some (.cpyScat f) else if f.fn == 3 then some (.cpyFill f) else none)
  | 0x91 => some (.scn (unC w))
  | 0x92 => (let f := unC w; if f.fn == 0 then some (.cpqLast f) else if f.fn == 1 then some (.cpqQry f) else if f.fn == 2 then some (.cpqCan f) else if f.fn == 3 then some (.cpqCanall f) else none)
  | 0x98 => ((un3 w).map fun f => .rsmp f)
  | 0x99 => ((un3 w).map fun f => .linrd f)
  | 0x9A => ((un3 w).bind fun f => if f.var == 0 then some (.rngsSet f) else if f.var == 1 then some (.rngsGetk f) else if f.var == 2 then some (.rngsGetn f) else none)
  | 0x9B => ((un3 w).map fun f => .rng f)
  | 0x9C => ((un3 w).map fun f => .popq f)
  | _ => none

/-- Row 0xA_ of the opcode map (R57). -/
def decodeRowA (w : Slot) : Nat → Option Instr
  | 0xA0 => some (.launch (unS w))
  | 0xA1 => some (.wpush (unS w))
  | 0xA2 => some (.wpop (unS w))
  | 0xA3 => some (.wdone (unS w))
  | 0xA4 => some (.dlchk (unS w))
  | _ => none

/-- Row 0xB_ of the opcode map (R57). -/
def decodeRowB (w : Slot) : Nat → Option Instr
  | 0xB0 => some (.trap (unS w))
  | 0xB1 => some (.tret (unS w))
  | 0xB2 => (let f := unS w; if f.sel == 0x10D then some (.srgetHubdata f) else some (.srget f))
  | 0xB3 => (let f := unS w; if f.sel == 0x106 then some (.srsetRmapent f) else if f.sel == 0x108 then some (.srsetAsnroot f) else if f.sel == 0x10D then some (.srsetHubdata f) else some (.srset f))
  | 0xB4 => (let f := unS w; if f.var8 == 0 then some (.resumeLanes f) else if f.var8 == 1 then some (.resumeLog f) else none)
  | 0xB5 => some (.trqpop (unS w))
  | 0xB6 => some (.ctxsv (unS w))
  | 0xB7 => some (.ctxld (unS w))
  | 0xB8 => (let f := unS w; if f.var8 == 0 then some (.gkillGrp f) else if f.var8 == 1 then some (.gkillTeam f) else if f.var8 == 2 then some (.gkillGrid f) else none)
  | 0xB9 => some (.msgsnd (unS w))
  | 0xBA => some (.msgrcv (unS w))
  | 0xBB => (let f := unS w; if f.var8.toNat % 4 == 0 then some (.iosubNvme f) else if f.var8.toNat % 4 == 1 then some (.iosubTx f) else if f.var8.toNat % 4 == 2 then some (.iosubRx f) else none)
  | 0xBC => some (.iopoll (unS w))
  | 0xBD => (let f := unS w; if f.var8 == 0 then some (.tlbinvPage f) else if f.var8 == 1 then some (.tlbinvAsn f) else if f.var8 == 2 then some (.tlbinvAll f) else none)
  | 0xBE => some (.icsync (unS w))
  | 0xBF => (let f := unS w; if f.var8 == 0 then some (.keyopWset f) else if f.var8 == 1 then some (.keyopKset f) else if f.var8 == 2 then some (.keyopKdel f) else if f.var8 == 3 then some (.keyopBset f) else if f.var8 == 4 then some (.keyopSweep f) else if f.var8 == 5 then some (.keyopSqry f) else if f.var8 == 6 then some (.keyopMext f) else if f.var8 == 7 then some (.keyopMrd f) else none)
  | _ => none

/-- Row 0xC_ of the opcode map (R57). -/
def decodeRowC (w : Slot) : Nat → Option Instr
  | 0xC0 => some (.park (unS w))
  | 0xC1 => (let f := unS w; if f.var8 == 0 then some (.worldSet f) else if f.var8 == 1 then some (.worldGet f) else none)
  | 0xC2 => (let f := unS w; if f.var8 == 0 then some (.haltgHalt f) else if f.var8 == 1 then some (.haltgGo f) else if f.var8 == 2 then some (.haltgAtt f) else if f.var8 == 3 then some (.haltgDet f) else if f.var8 == 4 then some (.haltgRel f) else none)
  | _ => none

/-- The instruction an opcode and its selectors name, before its fields are checked. -/
def decodeOp (op : Nat) (w : Slot) : Option Instr :=
  match op / 16 with
  | 0 => decodeRow0 w op
  | 1 => decodeRow1 w op
  | 2 => decodeRow2 w op
  | 3 => decodeRow3 w op
  | 4 => decodeRow4 w op
  | 5 => decodeRow5 w op
  | 6 => decodeRow6 w op
  | 7 => decodeRow7 w op
  | 8 => decodeRow8 w op
  | 9 => decodeRow9 w op
  | 10 => decodeRowA w op
  | 11 => decodeRowB w op
  | 12 => decodeRowC w op
  | _ => none

/-- The assigned opcodes (R57, R58); UDF is not among them. -/
def assigned (op : Nat) : Bool :=
  (0x00 ≤ op && op ≤ 0x0E) || (0x10 ≤ op && op ≤ 0x1A) || (0x1C ≤ op && op ≤ 0x4D) || (0x50 ≤ op && op ≤ 0x57) || (0x60 ≤ op && op ≤ 0x6E) || (0x78 ≤ op && op ≤ 0x8E) || (0x90 ≤ op && op ≤ 0x92) || (0x98 ≤ op && op ≤ 0x9C) || (0xA0 ≤ op && op ≤ 0xA4) || (0xB0 ≤ op && op ≤ 0xC2)

/-- XH is zero but for bit 82 of format FC (R39, R52). -/
def xhOk (op : Nat) (w : Slot) : Bool := fld w 80 3 == 0 || (0x90 ≤ op && op ≤ 0x92 && fld w 80 2 == 0)

/-- Decode one slot (R62, checks 2 and 3). -/
def decode (w : Slot) : Except DecodeErr Instr :=
  let op := (fld w 88 8).toNat
  if op = 0xFF then .ok (.udf (fld w 0 88))
  else if !assigned op then .error .illegalOp
  else match decodeOp op w with
    | none => .error .illegalEnc
    | some i => if xhOk op w && i.wf then .ok i else .error .illegalEnc

/-! ### From instructions to bits -/

def packHdr (op : Nat) (h : Hdr) (xh : BitVec 3) : BitVec 16 :=
  BitVec.ofNat 8 op ++ BitVec.ofBool h.n ++ h.gi ++ BitVec.ofBool h.y ++ xh

def pack3 (op : Nat) (f : F3) : Slot :=
  packHdr op f.h 0 ++ f.d ++ f.a ++ f.b ++ f.x ++ BitVec.ofNat 5 f.ty.code ++ BitVec.ofNat 3 f.rnd.code ++
    BitVec.ofBool f.ib ++ BitVec.ofBool f.ub ++ BitVec.ofBool f.ux ++ f.var ++ f.imm

def packI (op : Nat) (f : FI) : Slot := packHdr op f.h 0 ++ f.d ++ BitVec.ofNat 5 f.ty.code ++ f.var ++ f.imm

def packM (op : Nat) (f : FM) : Slot :=
  packHdr op f.h 0 ++ f.data ++ f.base ++ f.index ++ BitVec.ofNat 2 f.space.code ++ BitVec.ofNat 3 f.width.code ++ f.scale ++
    BitVec.ofBool f.ix ++ f.wi ++ f.wo ++ f.sub ++ BitVec.ofBool f.aon ++ BitVec.ofBool f.ver ++ BitVec.ofBool f.ubase ++
    BitVec.ofBool f.uidx ++ f.off

def packB (op : Nat) (f : FB) : Slot := packHdr op f.h 0 ++ f.slot ++ f.cond ++ f.zero ++ f.ofs

def packX (op : Nat) (f : FX) : Slot :=
  packHdr op f.h 0 ++ f.tile ++ f.band ++ f.abase ++ f.bbase ++ f.idx ++ f.sca ++ f.scb ++ f.bsel ++ BitVec.ofNat 4 f.fmta.code ++
    BitVec.ofNat 4 f.fmtb.code ++ f.kst ++ f.chain ++ f.opx

def packC (op : Nat) (f : FC) : Slot :=
  packHdr op f.h (BitVec.ofBool f.yc ++ (0 : BitVec 2)) ++ f.fn ++ BitVec.ofBool f.re ++ f.reply ++ f.sa ++ f.sb ++ f.imm

def packS (op : Nat) (f : FS) : Slot := packHdr op f.h 0 ++ f.d ++ f.a ++ f.b ++ f.sel ++ f.wf ++ f.var8 ++ f.imm

/-- The word of an instruction; an event has none. -/
def Shape.word : Shape → Slot
  | .f3 f p => pack3 p.op f
  | .fi op f _ _ => packI op f
  | .fm f p => packM p.op f
  | .fb op _ f _ => packB op f
  | .fx f p => packX p.op f
  | .fc f p => packC p.op f
  | .fs f p => packS p.op f
  | .udf b => (0xFF : BitVec 8) ++ b
  | .event => 0

/-- Encode: the slot of a well-formed instruction. -/
def encode (i : Instr) : Slot := i.shape.word

/-- The decoder on a word numbered as the opcode table numbers bits: an instruction is one 96-bit slot (R31), whose bit b lies in
byte b div 8, so the table's numbering is the slot's own. -/
def decodeTableWord (_nbits w : Nat) : Option Instr :=
  match decode (BitVec.ofNat 96 w) with
  | .ok i => some i
  | .error _ => none

end Sys2Proof
end

