-- ==== Sys2Proof/Machine/State.lean ====
section
/-! DEFINITION. The state of the machine as plain data, the reasons a step can stop, and the state after reset. -/

namespace Sys2Proof.Machine

/-- Reasons the machine stops with a fault. No rule of the manual stops the machine: every fault it names is taken by a context
(R340, R343) or halts one system core (R339), and is a next state. -/
inductive Fault where
  /-- Raised by nobody: kept so that the type has a name to show; safe. -/
  | machineStopped
  deriving DecidableEq, Repr

/-- Reasons the model gives no next state. -/
inductive Refusal where
  /-- Raised by an arm of `exec` that has no meaning yet; safe (nothing is proved of such an instruction). -/
  | notModelled (mnemonic : String)
  deriving DecidableEq, Repr

/-- Local HBM, scratchpads, host and peer memory as one map from locations to bytes (locations: `Loc` in Ops). -/
abbrev Mem := SMap Byte

/-! ### A context: a group (04, 15) or a system core (R362) -/

/-- Kinds of a reconvergence-stack entry (R108). -/
inductive EKind where
  | split | call | trap | pend
  deriving DecidableEq, Repr

/-- A reconvergence-stack entry (R108). -/
structure Entry where
  kind : EKind
  b : Bool := false
  d : Bool := false
  addr : Nat := 0
  mask : Word := 0
  aux : Word := 0
  deriving DecidableEq, Repr

/-- Where a group sits in its launch and on the package (R14, R347, R389), and what a system core is. -/
structure Ids where
  ref : CtxRef
  grid : Nat := 0
  gidx : Nat := 0
  team : Nat := 0
  gang : Nat := 0
  gpos : Nat := 0
  stage : Nat := 0
  role : Role := .general
  world : Nat := 0
  asn : Nat := 0
  prio : Nat := 0
  core : Nat := 0
  slot : Nat := 0
  deriving DecidableEq, Repr

/-- The register files (R42) and their poison (R427, R430). Vector registers are keyed by 32 × register + lane; `up` is the poison of the others:
S registers are keyed 0 to 63, P 64 to 71, C 72 to 79, W 80 to 95. -/
structure Regs where
  v : SMap Word := []
  vp : SMap Bool := []
  s : SMap Word := []
  p : SMap Word := []
  c : SMap Bool := []
  w : SMap DWord := []
  up : SMap Bool := []
  deriving DecidableEq, Repr

/-- Program counter, lanes, stack, event latch and signature (R105, R108, R124); the line being executed (R103, R360). -/
structure Flow where
  pc : Nat := 0
  active : Word := 0
  exited : Word := 0
  dead : Word := 0
  stack : List Entry := []
  lSplit : Bool := false
  lJoin : Bool := false
  lResume : Bool := false
  sig : Word := 0xFFFFFFFF
  line : Option (Nat × BitVec 512) := none
  deriving DecidableEq, Repr

/-- A delivered cause waiting for its boundary (R344); `log` names the operand-log entry it settles (R213). -/
structure Delivered where
  cause : Nat
  value : Nat
  level : Nat
  log : Option Nat := none
  deriving DecidableEq, Repr

/-- Trap levels and banks (R339 to R341). -/
structure Traps where
  level : Nat := 0
  epcw1 : Bool := false
  epcw2 : Bool := false
  epc1 : DWord := 0
  epc2 : DWord := 0
  ecause1 : Word := 0
  ecause2 : Word := 0
  eval1 : DWord := 0
  eval2 : DWord := 0
  tvec1 : DWord := 0
  tvec2 : DWord := 0
  delivered : List Delivered := []
  deriving DecidableEq, Repr

/-- MODE of the trap slot (R332). -/
inductive TrapMode where
  | idle | all | any
  deriving DecidableEq, Repr

/-- The trap slot (R332). -/
structure TrapSlot where
  mode : TrapMode := .idle
  rem : Word := 0
  va : Nat := 0
  wd : Nat := 0
  deriving DecidableEq, Repr

/-- A wait condition (R253); KIND 0 means not at a blocking point, `sat` is bit 63 of ADDR. `seen`: the differing value that a re-read of a parked MWAIT has
found, which its instruction completes with (R247); no image holds it, since a restored MWAIT reads again. -/
structure Wait where
  kind : Nat := 0
  addr : Nat := 0
  comparand : Nat := 0
  witness : DWord := 0
  sat : Bool := false
  seen : Option Nat := none
  deriving DecidableEq, Repr

/-- What a memory operation does at a lane's address. -/
inductive AccKind where
  | load | store | atomic
  deriving DecidableEq, Repr

/-- One lane's part of a memory operation, with its captured source values: the address in its space, the first destination
register, the bytes stored or the operand and comparand of an atomic. -/
structure LaneReq where
  lane : Nat
  addr : Nat
  reg : Nat
  data : Nat := 0
  cmp : Nat := 0
  deriving DecidableEq, Repr

/-- A memory operation after issue: what its lanes still have to do in accesses of at most 8 bytes (R193 to R204, R212, R214);
`aon` is the address of the version word of an all-at-once tile write (R199). `pend` 0 marks the read of an MWAIT (R248). `tail`: the
status that WDONE stores behind its witness (R407). -/
structure MemOp where
  kind : AccKind
  space : Space
  width : Width
  uni : Bool
  sub : Nat := 0
  wo : Nat := 15
  pend : Nat := 0
  aon : Option Nat := none
  tail : Option Nat := none
  reqs : List LaneReq := []
  deriving DecidableEq, Repr

/-- An operand-log entry (R212) with the operation it holds, the level it issued at and the level it was delivered at. -/
structure LogEntry where
  ix : Nat := 0
  seq : Nat := 0
  cause : Nat := 0
  state : Nat := 0
  va : Nat := 0
  fmask : Word := 0
  pc : Nat := 0
  inst : Slot := 0
  op : MemOp
  level : Nat := 0
  deliveredAt : Nat := 0
  locks : List Reg := []
  deriving DecidableEq, Repr

/-- One element of a pending result: the lane, its first register, how the data fills registers, and the data once it is there. -/
structure Elem where
  lane : Nat
  addr : Nat
  reg : Nat
  width : Width
  got : Option (Nat × Bool) := none
  src : Nat := 0
  loc : Nat := 0
  deriving DecidableEq, Repr

/-- What a pending result is (R103, R195): a load, a load from a peer, an atomic, or a witness. -/
inductive PendKind where
  | load | peer | atomic | witness
  deriving DecidableEq, Repr

/-- A result pending on a group's scoreboard. `wit` is a witness value for register `wreg`, `ready` says that its witness is
formed, `store` says that it is store-class (R227), `logged` says that lanes wait in the operand log, `countLd` says that it counts in LD (R249), `plus` is merged into
the register's witness (R407), `waits` names what a TLBINV waits for (R211), `killed` holds the lanes that died
at issue and are delivered when the result lands (R430). -/
structure Pend where
  id : Nat
  kind : PendKind
  marks : List Reg
  uni : Bool := false
  units : List Elem := []
  status : List (Nat × Nat × Word) := []
  wreg : Nat := 15
  wit : DWord := 0
  ready : Bool := true
  store : Bool := false
  logged : Bool := false
  level : Nat := 0
  countLd : Bool := false
  plus : DWord := 0
  waits : List Nat := []
  killed : Word := 0
  deriving DecidableEq, Repr

/-- The translation of a page as a cache holds it (R208): the leaf entry, its size and the physical page it names. -/
structure Tr where
  asn : Nat
  vpage : Nat
  pages : Nat
  entry : DWord
  deriving DecidableEq, Repr

/-- Scheduling, pre-emption and debug state of a context (R19, R122, R354, R357), and the model's marks: `stalled` waits at issue, `parkedAt`
is the tick at which it parked, `waited` its starvation count, `delay` the FORCEDLY of its slice, `killed` that GKILL stopped it,
`watch`, `recheck` and `recheckAt` belong to a parked MWAIT (R247), `tries` counts attempts of TLD.VER (R200), `pushes` is the full queue at which
a WPUSH.WAIT stalls, `shut` says that the queue it waits for has been disabled since (R406). -/
structure Sched where
  placed : Nat := 0
  promoted : Bool := false
  waited : Nat := 0
  yieldUntil : Option Nat := none
  sliceEnd : Nat := 0
  sliceLeft : Nat := 0
  delay : Nat := 0
  expiry : Bool := false
  expiredAt : Nat := 0
  held : Bool := false
  forceHeld : Bool := false
  haltReq : Bool := false
  halted : Bool := false
  haltedAt : Nat := 0
  attached : Bool := false
  escalated : Bool := false
  finalWait : Bool := false
  ended : Bool := false
  killed : Bool := false
  stalled : Bool := false
  watch : Option Nat := none
  recheck : Bool := false
  recheckAt : Nat := 0
  tries : Nat := 0
  parkedAt : Nat := 0
  pushes : Option Nat := none
  shut : Bool := false
  deriving DecidableEq, Repr

/-- The population record of a group (R316, R349). -/
structure PopRec where
  size : Nat := 0
  gen : Nat := 0
  total : DWord := 0
  home : Nat := 0
  index : Nat := 0
  lineage : SMap DWord := []
  deriving DecidableEq, Repr

/-- The outstanding counters besides LD, and the command ids of a context (R249, R313). -/
structure Cmds where
  cp : Nat := 0
  mx : Nat := 0
  sc : Nat := 0
  seq : Nat := 0
  last : Nat := 0xFFFFFFFF
  deriving DecidableEq, Repr

/-- A context. `splits` is its pair-split event count (R37). -/
structure Ctx where
  ids : Ids
  regs : Regs := {}
  flow : Flow := {}
  traps : Traps := {}
  slot : TrapSlot := {}
  wait : Wait := {}
  sched : Sched := {}
  pop : PopRec := {}
  cmds : Cmds := {}
  pend : List Pend := []
  log : List LogEntry := []
  logSeq : Nat := 0
  lastPage : SMap (Option Tr) := []
  mark : DWord := 0
  ks : DWord := 0
  ns : DWord := 0
  gmode : Word := 0x0C020000
  gstat : Word := 0
  n : Nat := 0
  rho : Nat := 0
  mclass : Nat := 0
  climit : Nat := 0
  splits : Nat := 0
  deriving DecidableEq, Repr

/-! ### Memory in flight -/

/-- A domain of R217 and R218: scope code 1 to 5 and the id within it. -/
structure Dom where
  scope : Nat
  id : Nat
  deriving DecidableEq, Repr

/-- What an outstanding access does when it performs (R214). Loads and atomics fill element `elem` of result `pend`; a `bad` store
carries poison (R429). -/
inductive AccOp where
  | load (pend elem : Nat)
  | store (bytes : List Byte) (bad : Bool)
  | atomic (pend elem : Nat) (w sub op cmp : Nat)
  deriving DecidableEq, Repr

/-- How the memory controller treats the line of an access: plainly, or under a key (R414). -/
structure Crypt where
  enc : Bool := false
  world : Nat := 0
  key : Nat := 0
  deriving DecidableEq, Repr

/-- One unit of access that has passed its checks and has not performed. `owner` is the context whose program order it keeps
(R195), none for an engine, and `seq` the place of its instruction there: the number of its pending result; `tile` names an all-at-once tile write it
belongs to (R199); `job` an engine command; `peer` the peer device that made it (R234); `via` the translation that a load has used (R211). -/
structure Acc where
  id : Nat
  owner : Option CtxRef
  seq : Nat := 0
  op : AccOp
  loc : Nat
  n : Nat
  crypt : Crypt := {}
  tick : Nat
  org : Dom
  dst : Dom
  tile : Option Nat := none
  job : Option Nat := none
  peer : Option Nat := none
  via : Option Tr := none
  deriving DecidableEq, Repr

/-- A performed write that a lagging horizon may still count (R220). -/
structure Done where
  org : Dom
  dst : Dom
  tick : Nat
  at_ : Nat
  deriving DecidableEq, Repr

/-- An all-at-once tile write under way (R199): 0 waits for an even version word, 1 writes elements, 2 is finished. `wit` and `pend`
name the witness of its writer. -/
structure TileWrite where
  id : Nat
  ver : Nat
  phase : Nat := 0
  owner : Option CtxRef
  tick : Nat
  org : Dom
  dst : Dom
  crypt : Crypt := {}
  pend : Nat := 0
  job : Option Nat := none
  deriving DecidableEq, Repr

/-- The holder of a lock bit (R191). -/
inductive Holder where
  | attached (c : CtxRef)
  | detached (grid : Nat)
  deriving DecidableEq, Repr

/-- A line held by a core's instruction cache (R12): the core, the location, its 64 bytes. -/
structure ILine where
  core : Nat
  loc : Nat
  data : BitVec 512
  deriving DecidableEq, Repr

/-- An entry of the world table (R410). -/
structure World where
  active : Bool := false
  swBase : Nat := 0
  swLen : Nat := 0
  hostOk : Bool := false
  peerOk : Bool := false
  roster : BitVec 256 := 0
  deriving DecidableEq, Repr

/-- The material of a key id: data, tweak and MAC keys (R418). -/
structure KeyMat where
  k1 : List Byte
  k2 : List Byte
  km : List Byte
  deriving DecidableEq, Repr

/-- A protected buffer (R416). -/
structure Buf where
  base : Nat := 0
  frames : Nat := 0
  world : Nat := 0
  key : Nat := 0
  valid : Bool := false
  dirty : Bool := false
  ver : Nat := 0
  deriving DecidableEq, Repr

/-- A sweep of a buffer (R419): the next line, and the new material of a rekey. -/
structure Sweep where
  id : Nat
  buf : Nat
  line : Nat
  rekey : Option KeyMat := none
  deriving DecidableEq, Repr

/-- An entry of the peer table (R445): MAC address, port mask, STATE, discarded writes. -/
structure PeerEnt where
  mac : Nat := 0
  mask : Nat := 0
  state : Nat := 0
  discards : Nat := 0
  deriving DecidableEq, Repr

/-- An entry of the error log (R434). -/
structure ErrEnt where
  seq : Nat
  src : Nat
  kind : Nat
  unit : Nat
  addr : Nat
  handle : DWord
  tick : Nat
  deriving DecidableEq, Repr

/-! ### Teams -/

/-- A BARRM arrival of the current phase (R243): who, the mask expected, the level it issued at. -/
structure Ranked where
  c : CtxRef
  mask : Word
  level : Nat
  deriving DecidableEq, Repr

/-- A bell (R235) with the BARRM arrivals of its phase. -/
structure Bell where
  amask : Word := 0
  pwit : DWord := 0
  acc : DWord := 0
  phase : Nat := 0
  next : Nat := 0
  arrived : Nat := 0
  expect : Nat := 0
  ranked : List Ranked := []
  deriving DecidableEq, Repr

/-- An accumulator tile (R257, R286): gains and offsets by element 32 r + c, checksums, EXACT, poison, MODE, DIR, HP, UF, H. `ckp`: the poisoned
8-byte units of its checksums and EXACT, counted from the first checksum of a .CK image (R272, R427). -/
structure Tile where
  g : SMap DWord := []
  c : SMap DWord := []
  pr : SMap DWord := []
  mr : SMap DWord := []
  pc : SMap DWord := []
  mc : SMap DWord := []
  exact : Bool := true
  pois : SMap Bool := []
  ckp : SMap Bool := []
  aff : Bool := false
  rev : Bool := false
  hp : Word := 0
  uf : Word := 0
  h : SMap DWord := []
  deriving DecidableEq, Repr

/-- A team on a core (R13, R17): its allocations, bells, tiles and activation tables (R257) with their poisoned 8-byte units (R427), its priority, the
tick of its placement and whether it was cut short by GKILL. -/
structure Team where
  grid : Nat
  team : Nat
  gang : Nat := 0
  core : Nat := 0
  size : Nat := 0
  cbase : Nat := 0
  csize : Nat := 0
  bells : List Bell := []
  tiles : List Tile := []
  tabs : SMap Byte := []
  tabBad : SMap Bool := []
  prio : Nat := 0
  placed : Nat := 0
  killed : Bool := false
  deriving DecidableEq, Repr

/-- A gang on a cluster: its cluster scratchpad allocation (R17). -/
structure Gang where
  grid : Nat
  gang : Nat
  cluster : Nat := 0
  kbase : Nat := 0
  ksize : Nat := 0
  deriving DecidableEq, Repr

/-! ### The matrix engine -/

/-- A row of an MMA (R264): the tile row, the gathered index, the A scale, and the bytes of K-step 0, read at issue (R267). -/
structure MmaRow where
  row : Nat
  idx : Nat
  scale : Nat
  first : Nat
  bad : Bool
  deriving DecidableEq, Repr

/-- The parameters of an MMA (R263 to R266). -/
structure Mma where
  z : Bool
  nf : Bool
  a0 : Nat
  stride : Nat
  b0 : Nat
  fa : MFmt
  fb : MFmt
  steps : Nat
  bands : List Nat
  bscale : List Nat
  bsel : Bool
  rows : List MmaRow
  deriving DecidableEq, Repr

/-- The parameters of a drain (R274). -/
structure Drain where
  aon : Bool
  nck : Bool
  space : Space
  rnd : Rnd
  q : Option Ty
  tab : Option Nat
  bias : Option Nat
  dest : Nat
  stride : Nat
  scale : Nat
  sofs : Nat
  pc : Nat
  cmd : Nat
  deriving DecidableEq, Repr

/-- What a matrix instruction in engine order does (R256, R289). -/
inductive MxWhat where
  | mma (m : Mma)
  | zero
  | load (x : Nat) (ck : Bool)
  | store (x : Nat) (ck : Bool)
  | drain (d : Drain)
  | gain (x : Nat) (bc bf16 : Bool)
  | set (g c : Option DWord) (first last : Nat)
  | scan (rev apply : Bool) (floor : Int)
  | getH (pend : Nat)
  | putH (vals : List (Nat × DWord))
  | getU (pend : Nat)
  | clearU (mask : Word)
  | mode (aff : Bool)
  deriving DecidableEq, Repr

/-- An operation in a core's engine order. `counted`: it counts in MX. `phase`: 0 before its turn, 1 its writes are under way,
2 it waits for the Prefect about the page of `va`, 3 its writes have passed, 4 it has ended with an engine fault that is not delivered yet. -/
structure MxOp where
  id : Nat
  c : CtxRef
  grid : Nat
  team : Nat
  core : Nat
  tile : Nat
  cls : Nat
  level : Nat
  what : MxWhat
  counted : Bool := true
  wreg : Nat := 15
  phase : Nat := 0
  wit : DWord := 0
  cause : Nat := 0
  va : Nat := 0
  deriving DecidableEq, Repr

/-- What an MMA owes the column checksums of its tile (R278): its number, and for each column the values to add to P and to M, in one exact sum
with one rounding when `reset` holds, else a rounded value. -/
structure Owed where
  id : Nat
  reset : Bool := false
  p : List (List DWord)
  m : List (List DWord)
  deriving DecidableEq, Repr

/-- A candidate pass (R269): when it opened, the bands taken, the MMAs it carries, the tiles named by other instructions since it
opened, the next K-step, and what its MMAs owe their column checksums, which take each MMA whole, in engine order (R256, R270). -/
structure Cand where
  id : Nat
  core : Nat
  opened : Nat
  closed : Bool := false
  bands : List Nat := []
  mmas : List Nat := []
  since : List Nat := []
  step : Nat := 0
  owed : List Owed := []
  deriving DecidableEq, Repr

/-- A pass in progress (R255): the A bytes of each row of each MMA, gathered before it. -/
structure Pass where
  core : Nat
  cand : Nat
  rows : List (Nat × Nat × Nat × Bool) := []
  deriving DecidableEq, Repr

/-! ### Engine commands -/

/-- A CPY or SCN command (R299 to R313). `id` is the model's number, `cid` the command id, `core` the copy engine (a system core's is
1280 + its number). `sloc`, `dloc`: where address 0 of a C, K or D side lies. `list`: where its index list lies, `iw` bytes an index. Of an
SCN, `first` is the first row index, `rows` the count, `dstride` the capacity, `pattern` the threshold. `phase`: 0 queued, 1 running, 2
waiting for the Prefect, 3 its last writes begun (of a scan, its pairs), 4 a scan's header begun; `lost`: a peer's link went down under it. `row`: the next row. `dom`: the domain its writes reach so far. `trs`: its G pages. -/
structure EngCmd where
  id : Nat
  c : CtxRef
  grid : Nat
  team : Nat
  cid : Nat
  core : Nat
  cluster : Nat
  org : Dom
  asn : Nat
  world : Nat
  level : Nat
  pc : Nat
  scn : Bool
  fn : Nat
  dsp : Space
  ssp : Space
  aon : Bool := false
  ty : Ty := .b32
  fofs : Nat := 0
  src : Nat
  dst : Nat
  sloc : Nat := 0
  dloc : Nat := 0
  first : Nat := 0
  n : Nat
  rows : Nat
  sstride : Nat
  dstride : Nat
  pattern : Nat := 0
  wide : Bool := false
  list : Nat := 0
  iw : Nat := 2
  idx : List Nat := []
  wreg : Nat := 15
  phase : Nat := 0
  row : Nat := 0
  done : Bool := false
  lost : Bool := false
  cancelled : Bool := false
  dom : Dom
  wit : DWord := 0
  cause : Nat := 0
  va : Nat := 0
  trs : List (Nat × Tr) := []
  deriving DecidableEq, Repr

/-! ### Populations -/

/-- A member's arrival at RSMP (R318): N, the weights of its EXEC lanes, its store mark, the destination of Pd and of the witness, and its
lane sets. -/
structure Arrival where
  c : CtxRef
  gid : Nat
  n : Nat
  weights : List (Nat × Word)
  mark : DWord
  pd : Nat
  wx : Nat
  ready : Bool := false
  deriving DecidableEq, Repr

/-! ### Grids and saved work -/

/-- A launch descriptor (R387). -/
structure Desc where
  entry : Nat := 0
  gx : Nat := 0
  gy : Nat := 0
  gz : Nat := 0
  gang : Nat := 0
  ngrp : Nat := 0
  cls : List Nat := []
  cspad : Nat := 0
  kspad : Nat := 0
  tiles : Nat := 0
  prio : Nat := 0
  world : Nat := 0
  flags : Nat := 0
  lastmask : Nat := 0
  seed : DWord := 0
  dep0 : DWord := 0
  dep1 : DWord := 0
  compl : Nat := 0
  arg : DWord := 0
  deriving DecidableEq, Repr

/-- A grid from its acceptance on (R391 to R395). `phase`: 0 in the launch queue, 1 its descriptor read and its dependencies awaited,
2 placeable or running, 3 completed. `verdict` is 0, or the STATUS 3 or 4 that its descriptor, or a COMPL that does not translate, gives it. `around`: later gangs may be placed
around its next gang. -/
structure Grid where
  gid : Nat
  addr : Nat
  asn : Nat
  world : Nat
  cap : Nat
  lwit : DWord := 0
  after : Option Nat := none
  phase : Nat := 0
  desc : Desc := {}
  verdict : Nat := 0
  nextGang : Nat := 0
  firstTick : Nat := 0
  teamsDone : Nat := 0
  teamsOver : Nat := 0
  killed : Bool := false
  killBlock : List Byte := []
  wit : DWord := 0
  blockedAt : Option Nat := none
  around : Bool := false
  deriving DecidableEq, Repr

/-- A group or team saved by CTXSV and not yet restored (MODEL: what an image does not hold, log 42): where the image lies and by which
address space and world it is reached, the contexts as they were saved with the results still owed to them, the team, whose tiles' reach on
its old core ends with the save, and each context's offset within the image. `core`: the team's core at the save; `locks`: the words of the lock
bits that the image lists (R191). Of the device kernel's restores (R354, R381, R395): `retry` the tick from which the next attempt is due, 0 for what a program has saved, `awaits` a team to be placed
again in its turn, `asked` that the Roll unit has asked for it (R325) and `tried` that it has been tried since, `failedAt` the first attempt that failed. -/
structure Saved where
  isTeam : Bool
  addr : Nat
  asn : Nat
  world : Nat
  cluster : Nat
  ctxs : List (Ctx × Nat)
  team : Option Team := none
  core : Nat := 0
  locks : List Nat := []
  retry : Nat := 0
  awaits : Bool := false
  asked : Bool := false
  tried : Bool := false
  failedAt : Option Nat := none
  deriving DecidableEq, Repr

/-! ### System cores -/

/-- A trap-queue record (R333); `body` holds the body's 8-byte values in order, missing ones are zero. -/
structure TrapRec where
  handle : DWord := 0
  typ : Nat := 0
  va : Nat := 0
  world : Nat := 0
  flags : Nat := 0
  asn : Nat := 0
  code : Nat := 0
  mask : Word := 0
  active : Word := 0
  mark : DWord := 0
  pc : Nat := 0
  core : Nat := 0
  tag : Nat := 0
  cause : Nat := 0
  access : Nat := 0
  value : DWord := 0
  cmd : Nat := 0
  body : List DWord := []
  deriving DecidableEq, Repr

/-- A record waiting at its source for room in a trap queue: the tick of its first attempt, its core and slot (R334). -/
structure Posted where
  tick : Nat
  core : Nat
  slot : Nat
  rcd : TrapRec
  deriving DecidableEq, Repr

/-- What a system core holds besides its context (15, 16): the trap queue and the records waiting for it, its mailbox, management queue and
completions, and the system registers of its own. Front-end cores and the security core have the registers alone. -/
structure Prefect where
  trapq : List TrapRec := []
  posted : List Posted := []
  slice : Word := 1250000
  forcedly : Word := 2500000
  rmapsel : Word := 0
  asnsel : Word := 0
  hubsel : Word := 0
  mailbox : List (List Byte) := []
  mgmtq : List (List Byte) := []
  completions : List (List Byte) := []
  deriving DecidableEq, Repr

/-- A message under way to a mailbox, or to the management queue (R370, R374, R366). -/
structure Wire where
  id : Nat
  src : Nat
  dst : Nat
  mgmt : Bool := false
  due : Nat
  bytes : List Byte
  deriving DecidableEq, Repr

/-- An I/O descriptor at the hub (R383 to R385): its ring (Prefect, port, class 0 NVMe, 1 TX, 2 RX), its 64 bytes, the witness awaited,
the buffer's pages, the status of a descriptor that reaches no drive or MAC, whether it has been sent and the bytes it took, and the job of
the device kernel that it is part of. -/
structure IoCmd where
  id : Nat
  pref : Nat
  port : Nat
  cls : Nat
  desc : List Byte
  wit : DWord
  pages : List (Nat × Tr) := []
  fail : Option Nat := none
  sent : Bool := false
  data : List Byte := []
  job : Option Nat := none
  deriving DecidableEq, Repr

/-- Something that leaves the device: 0 a PLDM event (`port`: 0 an error log entry, 1 a FAIL, 2 a halted system core, 3 a NOTE, 4 failing
clusters, 5 a firmware image refused, 6 a site without a spare), 1 a PLDM answer, 2 an SPDM answer on the side-band, 3 one on PCIe, 4 a frame, 5 an NVMe
command (`port`: the port + 256 × its queue pair), 6 a BAR4 read's bytes (empty for a poisoned completion), 7 a BAR0 or BAR2 read, 8 a UDP
datagram (its address and port first), 9 what a peer device's load or atomic returns, 10 the horizon value sent to a peer, 11 an NVMe admin action
of bring-up (R367). -/
structure Emit where
  kind : Nat
  port : Nat := 0
  bytes : List Byte
  deriving DecidableEq, Repr

/-- The hub's registers and queues (16, 20). `window`: the size of BAR4; `inReset`: a PCIe fundamental reset is in progress; `announce`: a power cap not yet announced; `resetAsked`: a warm reset is requested and not yet announced, `resetAt`:
when an announced one begins; `up`: working ports (NVMe 0 to 7, Ethernet 8 to 15), `todo`: ports in bring-up; `pairs` and `depth`: the I/O queue
pairs of an NVMe port and their depth (R367). -/
structure Hub where
  ready : Bool := false
  fail : Bool := false
  warm : Bool := false
  cap : Bool := false
  step : Nat := 0
  failcode : Nat := 0
  bar4base : Nat := 0
  window : Nat := 2 ^ 30
  inReset : Bool := false
  announce : Option Nat := none
  pwrcap : Nat := 2800
  qcbbase : Nat := 0
  secring : DWord := 0
  nfail : Nat := 0
  efail : Nat := 0
  eports : Nat := 0
  nports : Nat := 0
  go : Bool := false
  goAt : Nat := 0
  todo : List Nat := []
  up : List Nat := []
  counters : SMap Nat := []
  frames : List (Nat × List Byte) := []
  inbound : List (Nat × List Byte) := []
  bootAt : Option Nat := none
  resetAt : Option Nat := none
  resetAsked : Bool := false
  pairs : SMap Nat := []
  depth : SMap Nat := []
  deriving DecidableEq, Repr

/-- Clock-edge skipping (R443, R444): clusters in a sag, their skip in eighths, the tick of their next step, the cap's fraction, the tick of
the last evaluation. -/
structure Power where
  sag : SMap Bool := []
  skip : SMap Nat := []
  next : SMap Nat := []
  capSkip : Nat := 0
  evalAt : Nat := 0
  deriving DecidableEq, Repr

/-- An entry of the pending repair list (R436). -/
structure Repair where
  kind : Nat
  state : Nat := 0
  unit : Nat
  place : Nat
  row : Nat
  deriving DecidableEq, Repr

/-- On-package NVM (R436, R437, R442, R446): the repair list, frames retired beyond its room, the fuse-map override (kind, die, site), the delay and
Vref results of each HBM lane, 64 to a channel, with their CRC (none when missing), and of the security, management and front-end firmware the
images in use (none: the one the device was made with) and those staged for the next reset. -/
structure Nvm where
  repairs : List Repair := []
  retired : List Nat := []
  sites : List (Nat × Nat × Nat) := []
  training : List DWord := []
  crc : Word := 0
  images : SMap (Option (List Byte)) := []
  staged : SMap (Option (List Byte)) := []
  deriving DecidableEq, Repr

/-- The connection of an SPDM transport (R424, R425): 0 none, 1 version, 2 capabilities, 3 algorithms; the transcript
in the parts that are signed: up to the algorithms, certificates since the last challenge, measurements since the last signature; whether
RSAPSS was chosen. -/
structure Spdm where
  phase : Nat := 0
  vca : List Byte := []
  certs : List Byte := []
  blocks : List Byte := []
  pss : Bool := false
  deriving DecidableEq, Repr

/-- A context's heap (R447): base, limit, top, freed ranges, the slices granted. -/
structure Heap where
  base : Nat
  limit : Nat
  top : Nat
  freed : List (Nat × Nat) := []
  slices : List (Nat × Nat) := []
  deriving DecidableEq, Repr

/-- A region of an address space that faults may populate (R378): file-mapped when `file` names a path and an offset. -/
structure Region where
  asn : Nat
  base : Nat
  len : Nat
  world : Nat
  r : Bool := true
  w : Bool := true
  file : Option (List Byte × Nat) := none
  deriving DecidableEq, Repr

/-- A file: its path, contents, world (0: every world), whether it may be written, and where its blocks lie: the NVMe port, the namespace and the
first of its consecutive LBAs (DESIGN CHOICE, log 99). -/
structure FileRec where
  path : List Byte
  data : List Byte := []
  world : Nat := 0
  readOnly : Bool := false
  port : Nat := 0
  nsid : Nat := 1
  lba : Nat := 0
  deriving DecidableEq, Repr

/-- What an open descriptor names (R451). -/
inductive FdWhat where
  | file (path : List Byte) (writable : Bool)
  | sock (port : Nat)
  deriving DecidableEq, Repr

/-- A descriptor: its owning shard, its context's ASN, its slot. -/
structure Fd where
  shard : Nat
  asn : Nat
  slot : Nat
  what : FdWhat
  deriving DecidableEq, Repr

/-- A call as the shard that owns its resource serves it (R375, R377): the caller's handle, ASN and world, the lanes that form it, its code and its
four arguments; `back`: the Prefect that forwarded it and the TAG of its CALL. -/
structure Call where
  owner : Nat
  handle : DWord
  lanes : List Nat
  code : Nat
  args : List Nat
  asn : Nat
  world : Nat
  back : Option (Nat × Nat) := none
  deriving DecidableEq, Repr

/-- A call that a Prefect has forwarded and not had answered: its TAG, the handle, lanes and Va of its record (R451), and what the REPLYs so far give
its lanes, with their witness: the batch is resumed as one (R375). -/
structure Sent where
  pref : Nat
  tag : Nat
  call : Call
  va : Nat := 0
  got : List (Nat × Nat × Nat) := []
  wit : DWord := 0
  deriving DecidableEq, Repr

/-- The result of a call for some of its lanes (R336, R377): lane, value, status, and the witness of what the owner wrote. -/
structure Reply where
  call : Call
  rows : List (Nat × Nat × Nat)
  wit : DWord := 0
  deriving DecidableEq, Repr

/-- A RECV that waits for a datagram (R375), with the tick of its timeout. -/
structure Recv where
  call : Call
  until_ : Option Nat
  deriving DecidableEq, Repr

/-- A READ or WRITE under way at its owner (R456): the file, the offset and the bytes to move, the buffer, whether the drive gets the buffer
itself, the owner's own frame, the bytes moved, the NVMe command under way, whether it writes merged blocks back, the witness so far. `fill`: the frame
of a file-mapped page that it fills instead (R378). -/
structure Job where
  id : Nat
  call : Call
  write : Bool
  path : List Byte
  ofs : Nat
  len : Nat
  va : Nat
  direct : Bool
  frame : Nat
  done : Nat := 0
  cmd : Option Nat := none
  back : Bool := false
  wit : DWord := 0
  fill : Option Nat := none
  deriving DecidableEq, Repr

/-- What the service of a fault waits for (R378, R379): the answer of the shard that keeps the regions, by its TAG; the NVMe reads of the job that
fills its frame; their witness; those that may still use an entry that TLBINV has removed. `failed`: the drive reported an error. -/
inductive FixStage where
  | asked (tag : Nat)
  | filling (job : Nat)
  | filled (wit : DWord)
  | failed
  | sweeping (waits : List Nat)
  deriving DecidableEq, Repr

/-- A fault that a Prefect is serving (R379), with the page-table entry and the leaf that a filled frame is to get. -/
structure Fix where
  pref : Nat
  rcd : TrapRec
  stage : FixStage
  entry : Nat := 0
  leaf : Nat := 0
  deriving DecidableEq, Repr

/-- The device kernel's records (R368 to R380); `ready` holds the READY messages Prefect 0 has had: cluster and status (R386). -/
structure Kernel where
  heaps : SMap (Option Heap) := []
  regions : List Region := []
  files : List FileRec := []
  fds : List Fd := []
  sent : List Sent := []
  replies : List Reply := []
  recvs : List Recv := []
  jobs : List Job := []
  fixes : List Fix := []
  ready : List (Nat × Nat) := []
  deriving DecidableEq, Repr

/-- An event of the front-end complex about a user queue (R399 to R401): 0 kick or notify, 1 CREATE, 2 DESTROY, 3 RESUME, 4 more packets. -/
structure UEvent where
  q : Nat
  kind : Nat
  deriving DecidableEq, Repr

/-- The front-end complex (R399 to R401): waiting events, the queue of each hardware slot, the tick after which a queue has been PENDING, since
when the ring of a mapped queue is empty, the packets left to the event in hand of a queue; the notify words that the snoop filter watches, by
queue and location, and the queues to whose word a write has performed (R400). -/
structure Front where
  events : List UEvent := []
  slots : SMap (Option Nat) := []
  pendSince : SMap Nat := []
  emptySince : SMap (Option Nat) := []
  budget : SMap Nat := []
  snoop : List (Nat × Nat) := []
  notified : List Nat := []
  deriving DecidableEq, Repr

/-! ### The machine -/

/-- Where a stored bit has failed (R427): a byte of a memory, as HBM on-die ECC or the controller finds it; an element of a vector register; another
register, keyed as in `Regs.up`; a unit of an accumulator tile or of a team's activation tables; the fetch of a line that a second fetch repairs; a lane's training results
in NVM; an entry of a queue of a Prefect. -/
inductive EccAt where
  | mem (l : Nat) (onDie : Bool)
  | vec (c : CtxRef) (r l : Nat)
  | reg (c : CtxRef) (k : Nat)
  | acc (grid team tile elem : Nat)
  | tab (grid team k : Nat)
  | fetch
  | nvm (a : Nat)
  | box (p : Nat) (entry : List Byte)
  deriving DecidableEq, Repr

/-- What the device kernel's own interfaces, which the manual leaves open, create (R378, R456, R457): a context's heap, a region, a file. `window`: the
host sizes BAR4 to 2^k GiB by the Resizable BAR capability (R438). -/
inductive Made where
  | heap (asn base limit : Nat)
  | region (r : Region)
  | file (f : FileRec)
  | window (k : Nat)
  deriving DecidableEq, Repr

/-- A turn the environment takes in the model's schedule (MODEL, log 1): the issue of a context that an issue slot has chosen, before steps of the machine's
own that are due; an event; time that passes; an error that a read finds (R428); something the device kernel creates, or the host's size of BAR4. -/
inductive Turn where
  | issue (c : CtxRef)
  | event (i : Instr) (a : EvArg)
  | pass (ticks : Nat)
  | ecc (at_ : EccAt) (corrected : Bool)
  | make (what : Made)
  deriving DecidableEq, Repr

/-- A group that an issue slot of a core has chosen in the present clock (R19, R102): the ports it has taken, whether it has still to issue, what orders
it among the others of the clock (a kind of instruction, what they share, its place there; kind 0: nothing), and the address of the second
instruction of its pair while that one has still to issue. A system core stands under 1280 + its number. -/
structure Chosen where
  core : Nat
  slot : Nat
  c : CtxRef
  ports : List EClass
  todo : Bool := false
  turn : Nat × Nat × Nat := (0, 0, 0)
  mate : Option Nat := none
  deriving DecidableEq, Repr

/-- The whole machine. `keys` holds the material of every key id, resident or wrapped (R418); `keyCache` names the resident ones, least recently
used first; `wrapped` holds the wrapped copies. `ringWit`: the witness of the security ring's entry when it was last served (log 77). `rowErr`: the
uncorrectable events of an HBM row since the last reset at twice its number, the corrected ones after them (R436); `badMail`: queue entries of
Prefects that hold poison (R427). -/
structure State where
  clock : Nat := 0
  g : Ctx
  others : List Ctx := []
  mem : Mem := []
  poison : SMap Bool := []
  locks : SMap (Option Holder) := []
  icache : List ILine := []
  tlb : List (Nat × Tr) := []
  roots : SMap DWord := []
  rmap : SMap Word := []
  worlds : SMap World := []
  keys : SMap (Option KeyMat) := []
  keyCache : List Nat := []
  wrapped : SMap (List Byte) := []
  ringWit : SMap DWord := []
  bufs : SMap Buf := []
  tags : SMap Nat := []
  sweeps : List Sweep := []
  errUE : SMap Nat := []
  errCE : SMap Nat := []
  errSeq : Nat := 0
  errLog : List ErrEnt := []
  rowErr : SMap Nat := []
  badMail : List (Nat × List Byte) := []
  accs : List Acc := []
  done_ : List Done := []
  tiles : List TileWrite := []
  peers : SMap PeerEnt := []
  sysSeen : Nat := 0
  peerSeen : SMap (Option (Nat × Nat)) := []
  lastExchange : Nat := 0
  sentHorizon : Nat := 0
  teams : List Team := []
  gangs : List Gang := []
  mxq : List MxOp := []
  cands : List Cand := []
  passes : List Pass := []
  deadAt : SMap Nat := []
  cmds : List EngCmd := []
  arrivals : List Arrival := []
  gridCtr : Nat := 0
  grids : List Grid := []
  saved : List Saved := []
  late : List (CtxRef × Delivered) := []
  prefs : List Prefect := []
  wires : List Wire := []
  iocmds : List IoCmd := []
  hub : Hub := {}
  front : Front := {}
  power : Power := {}
  nvm : Nvm := {}
  meas : List (List Byte) := []
  spdmSide : Spdm := {}
  spdmPcie : Spdm := {}
  kernel : Kernel := {}
  out : List Emit := []
  nextId : Nat := 1
  freeCtr : Nat := 0
  chosen : List Chosen := []
  arg : EvArg := {}
  sched : List Turn := []
  deriving DecidableEq, Repr

/-! ### Reset (R362, R386, R410, R422, R441) -/

/-- A system core as reset leaves it: one lane, TL0, world 0, ASN 0, held until something starts it (R362, R386; the priority is a DESIGN CHOICE, log 5). -/
def Ctx.core (c : CtxRef) : Ctx :=
  { ids := { ref := c, prio := 7 }, flow := { active := 1, exited := 0xFFFFFFFE }, sched := { held := true } }

/-- The system cores: 80 Prefects, 12 front-end cores, the security core (R8, R362). -/
def systemCores : List CtxRef :=
  (List.range Config.nClusters).map CtxRef.prefect ++ (List.range 12).map CtxRef.front ++ [CtxRef.secure]

/-- The machine right after reset. -/
def State.reset : State :=
  { g := Ctx.core (.prefect 0), others := (systemCores.drop 1).map Ctx.core
    worlds := [(0, { active := true, roster := BitVec.allOnes 256 })], prefs := List.replicate 93 {}
    meas := List.replicate 16 (List.replicate 32 0) }

end Sys2Proof.Machine
end

