-- ==== Sys2Proof/Machine/Mem.lean ====
section
/-! DEFINITION. Locations of every memory, reading and writing them with poison (R428, R429) and line encryption (R413 to R419),
address translation (R207 to R209) and the region map (R190). -/

namespace Sys2Proof

/-- A system core's number among the private scratchpads; groups have none. -/
def CtxRef.sysIndex : CtxRef → Option Nat
  | .group _ _ => none
  | .prefect p => some p
  | .front f => some (80 + f)
  | .secure => some 92

/-- System privilege (R61). -/
def CtxRef.isSys (c : CtxRef) : Bool := c.sysIndex.isSome

namespace Machine

/-! ### Locations -/

namespace Loc
/-- Host memory. -/
def host (a : Nat) : Nat := 2 ^ 50 + a
/-- A peer device's memory. -/
def peer (p a : Nat) : Nat := 2 ^ 56 + p * 2 ^ 48 + a
/-- Core scratchpad. -/
def core (k o : Nat) : Nat := 2 ^ 60 + k * 2 ^ 22 + o
/-- Cluster scratchpad. -/
def cluster (c o : Nat) : Nat := 2 ^ 61 + c * 2 ^ 23 + o
/-- Die scratchpads: a D address names its die in bits [27:25] (R188). -/
def die (a : Nat) : Nat := 2 ^ 62 + a
/-- A system core's private scratchpad: Prefects 0 to 79, front-end cores 80 to 91, the security core 92. -/
def sys (i o : Nat) : Nat := 2 ^ 63 + i * 2 ^ 18 + o

/-- The error source of a storage (R433). -/
def source (l : Nat) : Nat :=
  if l < 2 ^ 60 then 8 else if l < 2 ^ 61 then 1 else if l < 2 ^ 62 then 3 else if l < 2 ^ 63 then 4 else 5

/-- The unit index an error entry names (R434): core, cluster, die, system core or HBM channel. -/
def unit (l : Nat) : Nat :=
  if l < 2 ^ 50 then (Config.hbmChannel l).val else if l < 2 ^ 60 then 0 else if l < 2 ^ 61 then (l - 2 ^ 60) / 2 ^ 22 else if l < 2 ^ 62 then (l - 2 ^ 61) / 2 ^ 23
  else if l < 2 ^ 63 then (l - 2 ^ 62) / 2 ^ 25 else (l - 2 ^ 63) / 2 ^ 18

/-- The address within the storage. -/
def offset (l : Nat) : Nat :=
  if l < 2 ^ 60 then l else if l < 2 ^ 61 then (l - 2 ^ 60) % 2 ^ 22 else if l < 2 ^ 62 then (l - 2 ^ 61) % 2 ^ 23
  else if l < 2 ^ 63 then (l - 2 ^ 62) % 2 ^ 25 else (l - 2 ^ 63) % 2 ^ 18
end Loc

/-! ### Bytes -/

namespace Mem
/-- The little-endian value of `n` bytes. -/
def readN (m : Mem) (l : Nat) : Nat → Nat
  | 0 => 0
  | n + 1 => (m.get 0 l).toNat + 256 * readN m (l + 1) n

/-- The bytes at a location. -/
def readB (m : Mem) (l n : Nat) : List Byte := (List.range n).map (fun i => m.get 0 (l + i))

/-- Write bytes upward from a location. -/
def writeB (m : Mem) (l : Nat) : List Byte → Mem
  | [] => m
  | b :: bs => writeB (m.set 0 l b) (l + 1) bs

/-- Write the low `n` bytes of a value. -/
def writeN (m : Mem) (l n x : Nat) : Mem := m.writeB l (toBytes n x)
end Mem

/-- Is the 8-byte unit of a location poisoned (R428)? -/
def State.poisoned (s : State) (l : Nat) : Bool := s.poison.get false (l / 8)

/-- Poison the units that a range covers. -/
def State.poisonRange (s : State) (l n : Nat) : State :=
  { s with poison := (List.range (ceilDiv (l % 8 + n) 8)).foldl (fun p i => SMap.set false p (l / 8 + i) true) s.poison }

/-- The 32 bytes of an error-log entry (R434). -/
def ErrEnt.bytes (e : ErrEnt) : List Byte :=
  toBytes 4 e.seq ++ toBytes 1 e.src ++ toBytes 1 e.kind ++ toBytes 2 e.unit ++ toBytes 8 e.addr ++ toBytes 8 e.handle.toNat ++ toBytes 8 e.tick

/-- Count and log an uncorrectable event, and forward it as a PLDM event (R433, R434); its unit is that of the storage unless one is given. -/
def State.logError (s : State) (src kind loc : Nat) (handle : DWord := 0) (unit : Option Nat := none) : State :=
  let e : ErrEnt := { seq := s.errSeq, src, kind, unit := unit.getD (Loc.unit loc), addr := Loc.offset loc, handle, tick := s.clock }
  { s with
    errUE := SMap.set 0 s.errUE src (min (s.errUE.get 0 src + 1) 0xFFFFFFFF)
    errSeq := (s.errSeq + 1) % 2 ^ 32
    errLog := (s.errLog ++ [e]).drop (s.errLog.length + 1 - 256)
    out := s.out ++ [{ kind := 0, port := 0, bytes := e.bytes }] }

/-- An event of an HBM row is counted since the last reset (R436). -/
def State.rowEvent (s : State) (l : Nat) (ok : Bool) : State :=
  let k := 2 * Config.hbmRow l + ok.toNat
  if l < Config.hbmBytes then { s with rowErr := SMap.set 0 s.rowErr k (s.rowErr.get 0 k + 1) } else s

/-! ### Encrypted lines (R414 to R419) -/

/-- The sweep that covers a line, if one does. -/
def State.sweepOf (s : State) (l : Nat) : Option Sweep :=
  s.sweeps.find? (fun w =>
    let b := s.bufs.get {} w.buf
    b.base ≤ l / 2 ^ 16 && l / 2 ^ 16 < b.base + b.frames)

/-- The key material and VER that a line of a key id uses now (R416, R419): new material is the swept buffer's key id's alone. -/
def State.lineKey (s : State) (c : Crypt) (l : Nat) : Option (KeyMat × Nat) :=
  let b := s.bufs.get {} (s.tags.get 0 (l / 2 ^ 16))
  let own := s.keys.get none (c.world * 128 + c.key)
  match s.sweepOf l with
  | some w =>
    if l / 64 * 64 < w.line then
      ((if b.world = c.world ∧ b.key = c.key then w.rekey.orElse fun _ => own else own).map (·, b.ver + 1))
    else own.map (·, b.ver)
  | none => own.map (·, b.ver)

/-- Has the key id of an encrypted access no key (R418)? -/
def State.keyless (s : State) (c : Crypt) (l : Nat) : Bool := c.enc && (s.lineKey c l).isNone

/-- Does an access miss the key cache (R418)? A key id without a key never does. -/
def State.keyAway (s : State) (c : Crypt) : Bool :=
  let k := c.world * 128 + c.key
  c.enc && (s.keys.get none k).isSome && !s.keyCache.contains k

/-- A resident key becomes the most recently used one. -/
def State.touchKey (c : Crypt) (s : State) : State :=
  let k := c.world * 128 + c.key
  if c.enc && s.keyCache.contains k then { s with keyCache := s.keyCache.filter (· != k) ++ [k] } else s

/-- Where the MAC of a line of local HBM lies (R413). -/
def macSlot (l : Nat) : Nat := Config.reservedBase + l / 64 * 8

/-- The MAC of a line's ciphertext (R415). -/
def macOf (k : KeyMat) (ver l : Nat) (cipher : List Byte) : List Byte :=
  (Crypto.cmac k.km (cipher ++ toBytes 8 (l / 64 * 64) ++ toBytes 8 ver)).take 8

/-- The plaintext of an encrypted line, none when its MAC check fails or its key id has no key (R415, R418). -/
def State.openLine (s : State) (c : Crypt) (l : Nat) : Option (List Byte) :=
  match s.lineKey c l with
  | none => none
  | some (k, ver) =>
    let ct := s.mem.readB (l / 64 * 64) 64
    if s.mem.readB (macSlot l) 8 = macOf k ver l ct then some (Crypto.xtsDec k.k1 k.k2 (l / 64) ct) else none

/-- Write a line's ciphertext and MAC. -/
def State.sealLine (s : State) (k : KeyMat) (ver l : Nat) (plain : List Byte) : State :=
  let ct := Crypto.xtsEnc k.k1 k.k2 (l / 64) plain
  { s with mem := (s.mem.writeB (l / 64 * 64) ct).writeB (macSlot l) (macOf k ver l ct) }

/-- A line fails its MAC check, found at a byte of it: it is poisoned, counted and logged (R415, R428, R436). -/
def State.macFailed (s : State) (l : Nat) : State := ((s.poisonRange (l / 64 * 64) 64).rowEvent l false).logError 9 0 l

/-- Read `n` bytes within one 8-byte unit or line: the value, and the source of an error when poison was met. A failed MAC
poisons the line, is counted and logged (R415, R428). -/
def State.peek (s : State) (c : Crypt) (l n : Nat) : State × Nat × Option Nat :=
  if c.enc then
    match s.openLine c l with
    | some pt => (s, ofBytes ((pt.drop (l % 64)).take n), if s.poisoned l then some 8 else none)
    | none => (s.macFailed l, 0, some 9)
  else (s, s.mem.readN l n, if s.poisoned l then some (Loc.source l) else none)

/-- The first write to a protected buffer since its last step sets DIRTY, whatever it is made through (R416). -/
def State.markDirty (s : State) (l : Nat) : State :=
  let i := s.tags.get 0 (l / 2 ^ 16)
  if i = 0 then s else { s with bufs := SMap.set {} s.bufs i { s.bufs.get {} i with dirty := true } }

/-- Plain bytes written; in local HBM the line's MAC slot becomes zero (R414). -/
def plainWrite (m : Mem) (l : Nat) (bs : List Byte) : Mem :=
  if l < Config.reservedBase then (m.writeB l bs).writeN (macSlot l) 8 0 else m.writeB l bs

/-- A write of at most 8 bytes within one unit, with the rules of poison (R429), keys (R418) and MACs (R414). -/
def State.poke (s : State) (c : Crypt) (l : Nat) (bs : List Byte) : State :=
  let cure (s : State) : State := if bs.length = 8 then { s with poison := SMap.set false s.poison (l / 8) false } else s
  if c.enc then
    match s.lineKey c l with
    | none => s.logError 11 2 l
    | some (k, ver) =>
      if s.poisoned l && bs.length ≠ 8 then s else
      let (s, pt) := match s.openLine c l with
        | some pt => (s, pt)
        | none => (s.macFailed l, s.mem.readB (l / 64 * 64) 64)
      ((cure s).markDirty l).sealLine k ver l (pt.take (l % 64) ++ bs ++ pt.drop (l % 64 + bs.length))
  else if s.poisoned l && bs.length ≠ 8 then s
  else (cure { s with mem := plainWrite s.mem l bs }).markDirty l

/-! ### Page tables (R207) -/

/-- A non-leaf entry's next table, none when the entry is not valid or malformed; no walk reaches the reserved range (R413). -/
def nextTable (e : Nat) : Option Nat :=
  if bitsAt e 0 2 = 1 ∧ bitsAt e 2 11 = 0 ∧ e / 2 ^ 13 * 2 ^ 13 + 2 ^ 13 ≤ Config.reservedBase then some (e / 2 ^ 13 * 2 ^ 13) else none

/-- A leaf's fields. -/
def leafFrame (e : Nat) : Nat := bitsAt e 32 32
def leafTgt (e : Nat) : Nat := bitsAt e 5 2

/-- Is an entry a valid leaf (R207, R413)? -/
def leafOk (e : Nat) : Bool :=
  bitsAt e 0 2 == 3 && leafTgt e != 3 && !(leafTgt e == 0 && leafFrame e ≥ 0xE00000) &&
  !(bitsAt e 23 1 == 1 && bitsAt e 8 8 == 0)

/-- Do `n` entries from `t` form one large page whose frames rise by `step` from a frame that is a multiple of `al`? -/
def largePage (m : Mem) (t n step al : Nat) : Bool :=
  let e0 := m.readN t 8
  bitsAt e0 7 1 == 1 && leafOk e0 && leafFrame e0 % al == 0 &&
  (List.range n).all (fun i => m.readN (t + 8 * i) 8 == e0 + i * step * 2 ^ 32)

/-- The table walk of R207 from a root: the translation of the page that holds a virtual address. -/
def walk (m : Mem) (root : DWord) (asn va : Nat) : Option Tr := do
  let t3 ← nextTable root.toNat
  let t2 ← nextTable (m.readN (t3 + 8 * bitsAt va 46 10) 8)
  let t1 ← nextTable (m.readN (t2 + 8 * bitsAt va 36 10) 8)
  let i1 := bitsAt va 26 10
  let e1 := m.readN (t1 + 8 * i1) 8
  if bitsAt e1 0 2 = 3 then
    let b := t1 + 8 * (i1 / 16 * 16)
    if largePage m b 16 1024 16384 then
      some { asn, vpage := va / 2 ^ 30 * 2 ^ 14, pages := 2 ^ 14, entry := BitVec.ofNat 64 (m.readN b 8) }
    else none
  else
    let t0 ← nextTable e1
    let i0 := bitsAt va 16 10
    let b := t0 + 8 * (i0 / 32 * 32)
    if largePage m b 32 1 32 then
      some { asn, vpage := va / 2 ^ 21 * 2 ^ 5, pages := 2 ^ 5, entry := BitVec.ofNat 64 (m.readN b 8) }
    else
      let e0 := m.readN (t0 + 8 * i0) 8
      if leafOk e0 then some { asn, vpage := va / 2 ^ 16, pages := 1, entry := BitVec.ofNat 64 e0 } else none

/-- Does a held translation serve an address? -/
def Tr.covers (t : Tr) (asn va : Nat) : Bool := t.asn == asn && t.vpage ≤ va / 2 ^ 16 && va / 2 ^ 16 < t.vpage + t.pages

/-- The physical address that a translation gives. -/
def Tr.phys (t : Tr) (va : Nat) : Nat := (leafFrame t.entry.toNat + (va / 2 ^ 16 - t.vpage)) * 2 ^ 16 + va % 2 ^ 16

/-- The location of a translated address. -/
def Tr.loc (t : Tr) (va : Nat) : Nat :=
  match leafTgt t.entry.toNat with
  | 0 => t.phys va
  | 1 => Loc.host (t.phys va)
  | _ => Loc.peer (bitsAt t.entry.toNat 24 8) (t.phys va % 2 ^ 48)

def Tr.crypt (t : Tr) : Crypt :=
  let e := t.entry.toNat
  if bitsAt e 23 1 = 1 ∧ leafTgt e = 0 then { enc := true, world := bitsAt e 8 8, key := bitsAt e 16 7 } else {}

/-- Is a peer up (R445)? -/
def State.peerUp (s : State) (p : Nat) : Bool := (s.peers.get {} p).state == 1

/-- The walk for an ASN in the present state. -/
def State.walk (s : State) (asn va : Nat) : Option Tr := Machine.walk s.mem (s.roots.get 0 asn) asn va

/-- A translation by the last-page register of the lane, else by the cluster TLB, else by a walk (R208): a held one stays in use whatever the
tables say now (R363). A page of a peer that is not up has no translation (R445). -/
def State.lookup (s : State) (lastPage : SMap (Option Tr)) (lane cluster asn va : Nat) : Option Tr :=
  let held := ((lastPage.get none lane).toList ++ (s.tlb.filter (fun e => e.1 == cluster)).map (·.2)).find? (·.covers asn va)
  (held.or (s.walk asn va)).filter (fun t => leafTgt t.entry.toNat != 2 || s.peerUp (bitsAt t.entry.toNat 24 8))

/-- A world's entry; a free world has no roster and no share window, whatever its entry holds (R410). -/
def State.world (s : State) (w : Nat) : World := let e := s.worlds.get {} w; if e.active then e else {}

/-- Is a page in a world's share window (R411)? -/
def World.shares (w : World) (entry frame : Nat) : Bool :=
  match leafTgt entry with
  | 0 => w.swBase ≤ frame && frame < w.swBase + w.swLen
  | 1 => w.hostOk
  | _ => w.peerOk

/-- The permission and world checks of R209: none when the access is granted, else the cause. -/
def State.grants (s : State) (world : Nat) (t : Tr) (va : Nat) (k : AccKind) : Option Nat :=
  let e := t.entry.toNat
  let r := bitsAt e 2 1 == 1
  let w := bitsAt e 3 1 == 1
  let page := bitsAt e 8 8
  let store := k != .load
  let wd := s.world world
  if (k == .load && !r) || (k == .store && !w) || (k == .atomic && !(r && w)) then some 0x11
  else if page != 0 && page != world then some 0x14
  else if store && world != 0 && page == 0 && !wd.shares e (t.phys va / 2 ^ 16) then some 0x14
  else if leafTgt e == 2 && !wd.roster.getLsbD (bitsAt e 24 8) then some 0x15
  else none

/-- Remember a translation in the lane's last-page register and the cluster TLB (R208). -/
def State.remember (s : State) (cluster : Nat) (t : Tr) : State :=
  if s.tlb.contains (cluster, t) then s
  else { s with tlb := (cluster, t) :: s.tlb.filter (fun e => !(e.1 == cluster && e.2.asn == t.asn && e.2.vpage == t.vpage)) }

/-! ### The region map (R190) -/

/-- The verdict of the region map on one byte's region. -/
def regionCheck (entry : Nat) (world : Nat) (k : AccKind) : Option Nat :=
  let p := bitsAt entry 0 1 == 1
  let r := bitsAt entry 1 1 == 1
  let w := bitsAt entry 2 1 == 1
  let share := bitsAt entry 3 1 == 1
  let owner := bitsAt entry 8 8
  if !p || (k != .store && !r) || (k != .load && !w) then some 0x12
  else if owner != world && owner != 0 then some 0x14
  else if world != 0 && k != .load && owner == 0 && !share then some 0x14
  else none

/-- Every byte of a D access is judged by its own region; the lowest failing cause is given bounds before world (R189, R190). -/
def State.regionsCheck (s : State) (world a n : Nat) (k : AccKind) : Option Nat :=
  let vs := ((List.range ((a + n - 1) / 2 ^ 16 - a / 2 ^ 16 + 1)).map (fun i => regionCheck (s.rmap.get 0 (a / 2 ^ 16 + i)).toNat world k))
  if vs.contains (some 0x12) then some 0x12 else if vs.contains (some 0x14) then some 0x14 else none

end Machine

end Sys2Proof
end

