-- ==== Sys2Proof/Machine/Stack.lean ====
section
/-! DEFINITION. The reconvergence stack (R108 to R110, R117, R119 to R121, R342): what JOIN, RET, EXIT and TRET make of it, as functions of the
context alone, so that the targets they name are known when they issue (R62). -/

namespace Sys2Proof.Machine

namespace Ctx
def setActive (g : Ctx) (m : Word) : Ctx := { g with flow := { g.flow with active := m } }
def setStack (g : Ctx) (st : List Entry) : Ctx := { g with flow := { g.flow with stack := st } }
def push (g : Ctx) (e : Entry) : Ctx := g.setStack (e :: g.flow.stack)
/-- The join bit of the event latch: a SPLIT or PEND entry has been popped (R124). -/
def setJoin (g : Ctx) : Ctx := { g with flow := { g.flow with lJoin := true } }
def setSplit (g : Ctx) : Ctx := { g with flow := { g.flow with lSplit := true } }
/-- The event latch is cleared (R124). -/
def unlatch (g : Ctx) : Ctx := { g with flow := { g.flow with lSplit := false, lJoin := false, lResume := false } }

/-- The exited set becomes `x`, and its lanes are in ACTIVE and in the entries of the stack no more (R105, R121). -/
def exclude (x : Word) (g : Ctx) : Ctx :=
  { g with flow := { g.flow with
      exited := x, active := g.flow.active &&& ~~~x, stack := g.flow.stack.map (fun e => { e with mask := e.mask &&& ~~~x, aux := e.aux &&& ~~~x }) } }

/-- LEAVELEVEL (R121): one level down; the operand-log entries delivered at that level are freed. -/
def leaveLevel (g : Ctx) : Ctx :=
  let k := g.traps.level
  { g with traps := { g.traps with level := k - 1 }
           log := g.log.filter (fun e => !(e.state == 3 && e.deliveredAt == k)) }
end Ctx

/-- EPCk and EPCWk of the current level. -/
def curEpc (t : Traps) : Nat := (if t.level = 1 then t.epc1 else t.epc2).toNat % 2 ^ 56
def curEpcw (t : Traps) : Bool := if t.level = 1 then t.epcw1 else t.epcw2

/-- How the instruction ends. -/
inductive Walk where
  /-- Control goes on at the next slot. -/
  | fall (g : Ctx)
  /-- Control is transferred to an address; `t`: R36 governs the transfer. -/
  | go (g : Ctx) (a : Nat) (t : Bool)
  /-- The group parks, with nothing changed (R110), until the lanes of a PEND entry are resumed. -/
  | park
  /-- No lane is left: the group ends (R27). -/
  | over (g : Ctx)

/-- The transfer that a walk makes, for checks 7 to 9 of R62. -/
def Walk.targets : Walk → List (Nat × Bool)
  | .go _ a t => [(a, t)]
  | _ => []

/-- What JOINSTEP answers (R119). -/
inductive JoinStep where
  | done (g : Ctx) (a : Nat)
  | again (g : Ctx)
  | park

/-- JOINSTEP (R119); the caller guarantees a SPLIT or PEND entry on top. -/
def joinStep (g : Ctx) (here : Nat) : JoinStep :=
  match g.flow.stack with
  | [] => .again g
  | e :: rest =>
    match e.kind, e.d with
    | .split, true =>
      let rest := match rest with
        | f :: fs => if f.kind = .split ∧ f.d = false ∧ f.b = true then { f with addr := here } :: fs else f :: fs
        | [] => []
      .done (((g.setStack rest).setActive e.mask).setJoin) e.addr
    | .split, false => .again (((g.setStack rest).setActive e.mask).setJoin)
    | .pend, false =>
      if e.aux ≠ e.mask then .park
      else .done ((g.setStack ({ e with d := true, aux := g.flow.active, addr := here } :: rest)).setActive e.mask) e.addr
    | .pend, true => .again (((g.setStack rest).setActive (g.flow.active ||| e.aux)).setJoin)
    | _, _ => .again g

/-- The loop of JOIN (R120), over at most the depth of the stack. -/
def joinWalk (here : Nat) : Nat → Ctx → Walk
  | 0, g => .fall g
  | n + 1, g =>
    match g.flow.stack with
    | [] => .fall g
    | e :: _ =>
      if e.kind = .call ∨ e.kind = .trap then .fall g
      else
        match joinStep g here with
        | .done g a => .go g a false
        | .park => .park
        | .again g => if e.kind = .split ∧ e.d = false then .fall g else joinWalk here n g

/-- Does a CALL entry lie above the topmost TRAP entry (R117)? -/
def callOpen : List Entry → Bool
  | [] => false
  | e :: es => e.kind == .call || (e.kind != .trap && callOpen es)

/-- The loop of RET (R117), for a stack with a CALL entry to return by. -/
def retWalk (here : Nat) : Nat → Ctx → Walk
  | 0, g => .fall g
  | n + 1, g =>
    match g.flow.stack with
    | [] => .fall g
    | e :: rest =>
      if e.kind = .call then .go ((g.setStack rest).setActive e.mask) e.addr true
      else
        match joinStep g here with
        | .done g a => .go g a false
        | .park => .park
        | .again g => retWalk here n g

/-- The return to EPCk that TRET and EXIT make (R342, R121): R36 governs it when software has written EPCk. -/
def returnWalk (g : Ctx) (mask : Word) (rest : List Entry) : Walk :=
  .go (((g.setStack rest).setActive mask).leaveLevel) (curEpc g.traps) (curEpcw g.traps)

/-- The loop of EXIT (R121). EXIT sets the join bit for the entries it pops, and not the resume bit (DEDUCED, log 45). -/
def exitWalk : Nat → Ctx → Walk
  | 0, g => .fall g
  | n + 1, g =>
    match g.flow.stack with
    | [] => .over g
    | e :: rest =>
      let mark (g : Ctx) : Ctx := if e.kind = .split ∨ e.kind = .pend then g.setJoin else g
      if e.mask = 0 ∧ e.aux = 0 then exitWalk n (mark ((if e.kind = .trap then g.leaveLevel else g).setStack rest))
      else
        match e.kind, e.d with
        | .split, true => .go (mark ((g.setStack rest).setActive e.mask)) e.addr false
        | .split, false => .go (g.setActive e.mask) e.addr false
        | .call, _ => .go ((g.setStack rest).setActive e.mask) e.addr false
        | .trap, _ => returnWalk g e.mask rest
        | .pend, false => if e.aux ≠ e.mask then .park else .go (mark ((g.setStack rest).setActive e.mask)) e.addr false
        | .pend, true => .go (mark ((g.setStack rest).setActive e.aux)) e.addr false

/-- EXIT's lanes leave: they are exited and in no entry; the event latch starts afresh, being folded into EXIT's own record (DEDUCED, log 20). -/
def Ctx.leave (g : Ctx) : Ctx := g.unlatch.exclude (g.flow.exited ||| g.flow.active)

/-- What JOIN, RET, EXIT and TRET do in a context (R117, R120, R121, R342). -/
def Ctx.joins (g : Ctx) : Walk := joinWalk g.flow.pc (g.flow.stack.length + 1) g
def Ctx.returns (g : Ctx) : Walk := retWalk g.flow.pc (g.flow.stack.length + 1) g
def Ctx.exits (g : Ctx) : Walk := exitWalk (g.flow.stack.length + 1) g.leave
/-- TRET's return, none when the level or the stack gives it nothing to return to. -/
def Ctx.trets (g : Ctx) : Option Walk :=
  match g.flow.stack with
  | e :: rest => if g.traps.level ≠ 0 ∧ e.kind = .trap then some (returnWalk { g with flow := { g.flow with lResume := true } } e.mask rest) else none
  | [] => none

/-- The transfer that RET, JOIN, EXIT or TRET would make (R62: it is checked whatever the guard holds). -/
def Ctx.stackTargets (op : Nat) (g : Ctx) : List (Nat × Bool) :=
  if op = 0x06 then (if callOpen g.flow.stack then g.returns.targets else [])
  else if op = 0x08 then g.joins.targets
  else if op = 0x09 then g.exits.targets
  else if op = 0xB1 then ((g.trets.map Walk.targets).getD [])
  else []

end Sys2Proof.Machine
end

