-- ==== Sys2Proof/Machine/Ops.lean ====
section
/-! DEFINITION. The named operations over contexts: registers (R42, R43), line fetch (R31 to R36, R104), taking a fault and escalating
(R340, R343, R344), retiring and its signature (R124, R125), and the order of checks when an instruction issues (R62). -/

namespace Sys2Proof

/-- The engine class of an opcode (R60). -/
def classOf (op : Nat) (y : Bool) : EClass :=
  if 0x10 ≤ op ∧ op ≤ 0x33 ∨ 0x99 ≤ op ∧ op ≤ 0x9B then .integer
  else if 0x34 ≤ op ∧ op ≤ 0x4D then (if y then .uniform else .vfloat)
  else if 0x50 ≤ op ∧ op ≤ 0x57 then .lane
  else if 0x60 ≤ op ∧ op ≤ 0x69 then .memory
  else if 0x80 ≤ op ∧ op ≤ 0x8E then .matrix
  else if 0x90 ≤ op ∧ op ≤ 0x92 then .copy
  else .control

/-- The classes a role may issue to (R15). -/
def Role.may (r : Role) (c : EClass) : Bool :=
  match r, c with
  | .general, _ => true
  | _, .control | _, .integer | _, .uniform => true
  | .copy, .copy | .copy, .memory => true
  | .matrix, .matrix => true
  | .vector, .vfloat | .vector, .lane | .vector, .memory => true
  | _, _ => false

/-- The opcodes of system privilege (R61). -/
def privOp (op : Nat) : Bool := (0xB4 ≤ op && op ≤ 0xBE) || (0xC0 ≤ op && op ≤ 0xC2)

/-- Opcodes that a system core does not implement (R332, R362). -/
def noSysOp (op : Nat) : Bool :=
  (0x78 ≤ op && op ≤ 0x7C) || (0x80 ≤ op && op ≤ 0x8E) || op == 0x98 || op == 0xB0 || op == 0x30 || op == 0x31

/-- Does retiring the opcode change SIGREG (R124)? TRET leaves it unchanged (R126, R342; DEDUCED, log 21). -/
def hashedOp (op : Nat) : Bool := !(0x01 ≤ op && op ≤ 0x08) && op != 0x0C && op != 0x0D && op != 0xB1

namespace Machine

/-- Outcome of a meaning. -/
abbrev Res := Host.Outcome State Fault Refusal

/-- Is the instruction about to issue one that has acted already and only ends its wait: a bell's release, a grant, a population's
result, a sleep, an MWAIT whose word has been seen to differ (R240, R150, R319, R252, R247)? A delivered cause is then taken at the boundary after it. -/
def Wait.ending (w : Wait) : Bool := w.sat && (w.kind == 1 || w.kind == 7 || w.kind == 9 || w.kind == 10 || w.seen.isSome)

/-! ### Registers -/

namespace Ctx

def isSys (g : Ctx) : Bool := g.ids.ref.isSys
/-- The cluster a context runs in (R8). -/
def cluster (g : Ctx) : Nat :=
  match g.ids.ref with
  | .group _ _ => g.ids.core / 16
  | .prefect p => p
  | _ => 0
/-- The domain a context's stores originate in, and its place as an observer (R218). -/
def dom (g : Ctx) : Dom :=
  match g.ids.ref with
  | .group _ _ => { scope := 1, id := g.ids.core }
  | .prefect p => { scope := 2, id := p }
  | _ => { scope := 4, id := 0 }
/-- The group handle (R331). -/
def handle (g : Ctx) : DWord :=
  match g.ids.ref with
  | .group gr i => BitVec.ofNat 64 (gr * 2 ^ 32 + i)
  | _ => 0

def setPc (g : Ctx) (a : Nat) : Ctx := { g with flow := { g.flow with pc := a } }
def setWait (g : Ctx) (w : Wait) : Ctx := { g with wait := w }
def setStalled (g : Ctx) (b : Bool) : Ctx := { g with sched := { g.sched with stalled := b } }

/-- S63 reads as zero (R43). -/
def rdS (g : Ctx) (i : Nat) : Word := if i = 63 then 0 else g.regs.s.get 0 i
/-- S63 discards writes (R43). A write of good data clears the register's poison. -/
def wrS (g : Ctx) (i : Nat) (x : Word) : Ctx :=
  if i = 63 then g else { g with regs := { g.regs with s := SMap.set 0 g.regs.s i x, up := SMap.set false g.regs.up i false } }
/-- A pair: low word in the even register (R43, R71). -/
def rdS64 (g : Ctx) (i : Nat) : DWord := g.rdS (i + 1) ++ g.rdS i
def wrS64 (g : Ctx) (i : Nat) (x : DWord) : Ctx := (g.wrS i (x.setWidth 32)).wrS (i + 1) (x.extractLsb' 32 32)
/-- P7 is constant true (R40). -/
def rdP (g : Ctx) (i : Nat) : Word := if i = 7 then allLanes else g.regs.p.get 0 i
/-- Write a predicate in the lanes of a mask; a write to P7 is discarded (R131). Poison of the register ends when every lane is written. -/
def wrP (g : Ctx) (i : Nat) (m x : Word) : Ctx :=
  if i = 7 then g
  else { g with regs := { g.regs with p := SMap.set 0 g.regs.p i ((g.regs.p.get 0 i &&& ~~~m) ||| (x &&& m))
                                      up := if m = allLanes then SMap.set false g.regs.up (64 + i) false else g.regs.up } }
/-- C7 is constant true (R40). -/
def rdC (g : Ctx) (i : Nat) : Bool := i == 7 || g.regs.c.get false i
def wrC (g : Ctx) (i : Nat) (b : Bool) : Ctx :=
  if i = 7 then g else { g with regs := { g.regs with c := SMap.set false g.regs.c i b, up := SMap.set false g.regs.up (72 + i) false } }
/-- W15 reads as the null witness and discards writes (R217). -/
def rdW (g : Ctx) (i : Nat) : DWord := if i = 15 then 0 else g.regs.w.get 0 i
def wrW (g : Ctx) (i : Nat) (x : DWord) : Ctx :=
  if i = 15 then g else { g with regs := { g.regs with w := SMap.set 0 g.regs.w i x, up := SMap.set false g.regs.up (80 + i) false } }
/-- One lane of a vector register. -/
def rdV (g : Ctx) (r l : Nat) : Word := g.regs.v.get 0 (32 * r + l)
/-- A write of good data clears the element's poison. -/
def wrV (g : Ctx) (r l : Nat) (x : Word) : Ctx :=
  { g with regs := { g.regs with v := SMap.set 0 g.regs.v (32 * r + l) x, vp := SMap.set false g.regs.vp (32 * r + l) false } }
def vpois (g : Ctx) (r l : Nat) : Bool := g.regs.vp.get false (32 * r + l)
def poisonV (g : Ctx) (r l : Nat) : Ctx := { g with regs := { g.regs with vp := SMap.set false g.regs.vp (32 * r + l) true } }
/-- Is an S, P, C or W register poisoned? -/
def upois (g : Ctx) : Reg → Bool
  | .v _ => false
  | .s i => g.regs.up.get false i
  | .p i => g.regs.up.get false (64 + i)
  | .c i => g.regs.up.get false (72 + i)
  | .w i => g.regs.up.get false (80 + i)
/-- Where an error of the context's registers lies, for the error log: its core, or its system core (R434). -/
def regLoc (g : Ctx) : Nat := match g.ids.ref.sysIndex with | some i => Loc.sys i 0 | none => Loc.core g.ids.core 0

/-- `n` registers from `i` as one little-endian number: S registers for a uniform form, else lane `l` of V registers. -/
def rd (g : Ctx) (uni : Bool) (i l : Nat) : Nat → Nat
  | 0 => 0
  | n + 1 => (if uni then g.rdS i else g.rdV i l).toNat + 2 ^ 32 * rd g uni (i + 1) l n
/-- Write `n` registers from a number. -/
def wr (g : Ctx) (uni : Bool) (i l : Nat) : Nat → Nat → Ctx
  | 0, _ => g
  | n + 1, x => wr (if uni then g.wrS i (BitVec.ofNat 32 x) else g.wrV i l (BitVec.ofNat 32 x)) uni (i + 1) l n (x / 2 ^ 32)

/-- The lane guard of a header (R105, R106): all ones when unguarded. -/
def guardMask (g : Ctx) (h : Hdr) : Word := if h.n then ~~~g.rdP h.gi.toNat else g.rdP h.gi.toNat
/-- The uniform guard of a header (R107). -/
def guardC (g : Ctx) (h : Hdr) : Bool := g.rdC h.gi.toNat != h.n
/-- EXEC (R105). -/
def exec (g : Ctx) (h : Hdr) : Word := g.flow.active &&& ~~~g.flow.dead &&& g.guardMask h

/-- The held bound of vector registers (R44). -/
def bound (g : Ctx) : Nat := 64 + 32 * g.n

/-- Lanes die: DEADMASK grows and their registers are poisoned (R185). -/
def kill (g : Ctx) (m : Word) : Ctx :=
  let keys := (List.range (32 * g.bound)).filter (fun k => bit m (k % 32))
  { g with flow := { g.flow with dead := g.flow.dead ||| m }
           regs := { g.regs with vp := keys.foldl (fun p k => SMap.set false p k true) g.regs.vp } }

/-- May the context issue at all (R103)? It is not parked, held, halted, waiting for its end, or inside a YIELD window. -/
def able (g : Ctx) : Bool :=
  (g.wait.kind == 0 || g.wait.sat) && g.sched.yieldUntil.isNone && !g.sched.held && !g.sched.forceHeld && !g.sched.haltReq &&
  !g.sched.halted && !g.sched.escalated && !g.sched.finalWait && !g.sched.ended

/-- Is the context inside an instruction: one that only ends its wait, or a TLD.VER between its attempts (R200)? No boundary of R344 lies there. -/
def midway (g : Ctx) : Bool := g.wait.ending || g.sched.tries != 0

/-- The context waits at issue. One that was woken leaves its blocking point by that (R22), unless its instruction has acted already. -/
def holdAtIssue (g : Ctx) : Ctx :=
  let h := g.setStalled true
  if g.able && !g.wait.ending then h.setWait {} else h

/-- Loads outstanding: the LD counter (R249). -/
def ld (g : Ctx) : Nat := (g.pend.filter (·.countLd)).length

/-- A register that every read finds constant (R40, R43, R217). -/
def constReg (r : Reg) : Bool := r == .s 63 || r == .p 7 || r == .c 7 || r == .w 15
/-- Is a write pending to a register (R103)? -/
def marked (g : Ctx) (r : Reg) : Bool := !constReg r && g.pend.any (fun p => p.marks.contains r)
/-- Is a register locked as the source of a logged access (R212)? -/
def locked (g : Ctx) (r : Reg) : Bool := !constReg r && g.log.any (fun e => e.state != 0 && e.locks.contains r)

end Ctx

/-! ### Contexts of the machine -/

namespace State

/-- Apply an update to the issuing context. -/
def modG (s : State) (f : Ctx → Ctx) : State := { s with g := f s.g }

/-- A context by name. -/
def ctx? (s : State) (c : CtxRef) : Option Ctx :=
  if s.g.ids.ref = c then some s.g else s.others.find? (fun x => x.ids.ref == c)

/-- A context by name, resident or as it was saved. -/
def known (s : State) (c : CtxRef) : Option Ctx :=
  (s.ctx? c).orElse fun _ => s.saved.findSome? (fun v => (v.ctxs.find? (fun e => e.1.ids.ref == c)).map (·.1))

/-- Apply an update to a context by name. -/
def modCtx (s : State) (c : CtxRef) (f : Ctx → Ctx) : State :=
  if s.g.ids.ref = c then { s with g := f s.g }
  else { s with others := s.others.map (fun x => if x.ids.ref = c then f x else x) }

/-- Every context. -/
def ctxs (s : State) : List Ctx := s.g :: s.others

/-- Make a context the issuing one. -/
def switch (s : State) (c : CtxRef) : State :=
  match s.others.find? (fun x => x.ids.ref == c) with
  | some x => { s with g := x, others := s.g :: s.others.filter (fun y => y.ids.ref != c) }
  | none => s

/-- Run an update with another context as the issuing one, and put the issuing one back. -/
def via (s : State) (c : CtxRef) (f : State → State) : State :=
  let me := s.g.ids.ref
  (f (s.switch c)).switch me

def fresh (s : State) : State × Nat := ({ s with nextId := s.nextId + 1 }, s.nextId)

/-- The next free value of the model (DESIGN CHOICE, log 12). -/
def free (s : State) (k : Nat) : DWord := Config.freeWord s.freeCtr k
def bump (s : State) : State := { s with freeCtr := s.freeCtr + 1 }

/-- Do two ranges have bytes in common as far as the low 16 bits of their addresses tell? A page is at least 64 KiB, so they are those of the
locations too. -/
def mayMeet (l n r k : Nat) : Bool := decide ((r + 2 ^ 16 - l % 2 ^ 16) % 2 ^ 16 < n ∨ (l + 2 ^ 16 - r % 2 ^ 16) % 2 ^ 16 < k)

/-- Does a store or atomic of a context, older than `id`, wait in its operand log that may be of these bytes of G? -/
def storeLogged (s : State) (c : CtxRef) (id l n : Nat) : Bool :=
  decide (l < 2 ^ 60) && ((s.known c).map (·.log)).any (fun es => es.any (fun e =>
    e.op.kind != .load && e.state != 3 && decide (e.op.pend < id) && e.op.reqs.any (fun r => mayMeet l n r.addr e.op.width.bytes)))

/-- The current tick as a witness holds it (R217). -/
def now (s : State) : Nat := s.clock % 2 ^ 50

def team? (s : State) (g : Ctx) : Option Team := s.teams.find? (fun t => t.grid == g.ids.grid && t.team == g.ids.team)
def gang? (s : State) (g : Ctx) : Option Gang := s.gangs.find? (fun t => t.grid == g.ids.grid && t.gang == g.ids.gang)
def modTeam (s : State) (grid team : Nat) (f : Team → Team) : State :=
  { s with teams := s.teams.map (fun t => if t.grid = grid ∧ t.team = team then f t else t) }

def pref (s : State) (p : Nat) : Prefect := s.prefs.getD p {}
def modPref (s : State) (p : Nat) (f : Prefect → Prefect) : State := { s with prefs := s.prefs.modify p f }

/-! ### Trap records (R333, R334) -/

/-- The fields a record takes from its group. -/
def record (_s : State) (g : Ctx) (typ : Nat) : TrapRec :=
  { handle := g.handle, typ, world := g.ids.world, asn := g.ids.asn, active := g.flow.active, mark := g.mark, pc := g.flow.pc,
    core := g.ids.core }

/-- Post a record: into the queue when there is room and nothing waits, else it waits at its source. -/
def post (s : State) (p core slot : Nat) (r : TrapRec) : State :=
  s.modPref p (fun q =>
    if q.trapq.length < 64 ∧ q.posted = [] then { q with trapq := q.trapq ++ [r] }
    else { q with posted := q.posted ++ [{ tick := s.clock, core, slot, rcd := r }] })

/-- Escalation (R343): the context stops for good; a group posts an ESCALATE record, a system core is reported (R339, R446). -/
def escalate (s : State) (c : CtxRef) (cause pc : Nat) (value : DWord) : State :=
  match s.ctx? c with
  | none => s
  | some g =>
    if g.sched.killed then s else
    let s := s.modCtx c (fun g => { g with sched := { g.sched with escalated := true } })
    if g.isSys then { s with out := s.out ++ [{ kind := 0, port := 2, bytes := [BitVec.ofNat 8 (match c with | .prefect p => p | _ => 0xFF)] }] }
    else
      let t := g.traps
      s.post g.cluster g.ids.core g.ids.slot
        { s.record g 2 with cause, pc, value,
                            body := [t.epc1, t.ecause1.setWidth 64, t.eval1, t.epc2, t.ecause2.setWidth 64, t.eval2] }

/-! ### Fetch lines -/

end State

/-- Is an address one a slot starts at (R31)? -/
def slotAddr (a : Nat) : Bool := a % 64 == 4 || a % 64 == 16 || a % 64 == 28 || a % 64 == 40 || a % 64 == 52

/-- next(a) of R114. -/
def nextPc (a : Nat) : Nat := (if a % 64 = 52 then a / 64 * 64 + 68 else a + 12) % 2 ^ 56

/-- The slot index of an address. -/
def slotIx (a : Nat) : Nat := (a % 64 - 4) / 12

/-- The instruction in slot k of a line (R31). -/
def lineSlot (d : BitVec 512) (k : Nat) : Slot := d.extractLsb' (32 + 96 * k) 96

/-- T bit k of a line (R33). -/
def lineT (d : BitVec 512) (k : Nat) : Bool := d.getLsbD k

/-- The parity of the low 32 bits of a number. -/
def parity (x : Nat) : Nat :=
  let x := x ^^^ (x >>> 16)
  let x := x ^^^ (x >>> 8)
  let x := x ^^^ (x >>> 4)
  let x := x ^^^ (x >>> 2)
  (x ^^^ (x >>> 1)) % 2

/-- The parity bits of a line agree with its instruction area (R34). -/
def parityOk (d : BitVec 512) : Bool :=
  (List.range 16).all (fun j => parity (bitsAt d.toNat (32 + 30 * j) 30) == bitsAt d.toNat (16 + j) 1)

namespace State

/-- Fetch the line of an address for a context (R12, R104): its cache, else memory through translation with X (a system core's code
lies in ASN 0). Answers the state and the line with its soundness, or the cause. A line in a poisoned unit, or one that fails its MAC, is
unsound as one is whose parity fails twice (DESIGN CHOICE, log 100). -/
def fetchLine (s : State) (g : Ctx) (a : Nat) : Except Nat (State × BitVec 512 × Bool) :=
  let asn := if g.isSys then 0 else g.ids.asn
  let world := if g.isSys then 0 else g.ids.world
  let core := match g.ids.ref.sysIndex with | some i => Config.nCores + i | none => g.ids.core
  match s.lookup [] 0 g.cluster asn a with
  | none => .error 0x10
  | some t =>
    if bitsAt t.entry.toNat 4 1 = 0 then .error 0x11
    else match s.grants world { t with entry := t.entry ||| 4 } a .load with
      | some c => .error c
      | none =>
        let s := s.remember g.cluster t
        let l := t.loc (a / 64 * 64)
        match s.icache.find? (fun e => e.core == core && e.loc == l) with
        | some e => .ok (s, e.data, true)
        | none =>
          let (s, d, bad) := s.peek t.crypt l 64
          let d := BitVec.ofNat 512 d
          if parityOk d && bad.isNone && !((List.range 8).any (fun i => s.poisoned (l + 8 * i))) then
            .ok ({ s with icache := { core, loc := l, data := d } :: s.icache }, d, true)
          else .ok (s, d, false)

/-- The checks of a transfer's target (R32, R104, R36): alignment, then the line's fetch, then its T bit. Answers the state with the
line in the cache, or the cause. Of a line that fails parity twice the T bit is read as it stands, and the uncorrectable fetch arises at the
target when the transfer goes there (DESIGN CHOICE, log 100). -/
def target (s : State) (a : Nat) : Except Nat (State × BitVec 512 × Bool) :=
  if !slotAddr a then .error 0x04
  else match s.fetchLine s.g a with
    | .error c => .error c
    | .ok (s, d, good) => if lineT d (slotIx a) then .ok (s, d, good) else .error 0x03

/-- The line in hand after a transfer to `a`: the one just fetched, if it is sound. -/
def keepLine (s : State) (a : Nat) (d : BitVec 512) (good : Bool) : State :=
  s.modG (fun g => { g with flow := { g.flow with line := if good then some (a / 64 * 64, d) else none } })

/-! ### Taking a fault (R340) and coming back (R342) -/

/-- The bank registers of a level. -/
def enterBank (t : Traps) (epc : Nat) (ecause : Word) (value : DWord) : Traps :=
  if t.level = 0 then { t with level := 1, epcw1 := false, epc1 := BitVec.ofNat 64 epc, ecause1 := ecause, eval1 := value }
  else { t with level := 2, epcw2 := false, epc2 := BitVec.ofNat 64 epc, ecause2 := ecause, eval2 := value }

/-- TVEC of the level a fault would enter. -/
def vector (t : Traps) : DWord := if t.level = 0 then t.tvec1 else t.tvec2

/-- The handler address of a vector (R341). -/
def vectorAddr (v : DWord) : Nat := bitsAt v.toNat 1 55 * 2

/-- Take a fault of the issuing context: `async` marks a delivered cause (R344). A missing vector or a fault at TL2 escalates. -/
def raise (s : State) (cause epc : Nat) (value : DWord) (async : Bool := false) : State :=
  let t := s.g.traps
  let v := vector t
  if t.level = 2 ∨ v.getLsbD 0 = false then s.escalate s.g.ids.ref cause epc value
  else match s.target (vectorAddr v) with
    | .error _ => s.escalate s.g.ids.ref cause epc value
    | .ok (s, d, good) =>
      (s.modG (fun g =>
        { g with
          flow := { g.flow with stack := { kind := .trap, addr := epc, mask := g.flow.active } :: g.flow.stack, pc := vectorAddr v }
          traps := enterBank g.traps epc (BitVec.ofNat 32 (cause + if async then 256 else 0)) value
          wait := {}
          sched := { g.sched with watch := none, recheck := false, tries := 0, pushes := none, shut := false } })).keepLine (vectorAddr v) d good

/-- A delivered cause may be taken now (R344): the first one whose level is not below the current one. -/
def deliverable (g : Ctx) : Option Delivered := g.traps.delivered.find? (fun d => g.traps.level ≤ d.level)

/-- Take the first deliverable cause at the boundary before the instruction at the pc. -/
def takeDelivered (s : State) (d : Delivered) : State :=
  let s := s.modG (fun g => { g with
    traps := { g.traps with delivered := g.traps.delivered.erase d }
    log := g.log.map (fun e => if some e.seq = d.log then { e with state := 3, deliveredAt := g.traps.level + 1 } else e) })
  s.raise d.cause s.g.flow.pc (BitVec.ofNat 64 d.value) true

/-- A cause is delivered to a context; in the final wait of R27 it escalates instead (R213), and a killed group's are discarded (R348). A saved context takes it after its
restore. -/
def deliver (s : State) (c : CtxRef) (d : Delivered) : State :=
  match s.ctx? c with
  | none => if s.saved.any (fun v => v.ctxs.any (fun e => e.1.ids.ref == c)) then { s with late := s.late ++ [(c, d)] } else s
  | some g =>
    if g.sched.killed then s
    else if g.sched.finalWait then s.escalate c d.cause g.flow.pc (BitVec.ofNat 64 d.value)
    else s.modCtx c (fun g => { g with traps := { g.traps with delivered := g.traps.delivered ++ [d] } })

/-- The lanes of a context that an instruction of level `level` kills die, and one UNCORRECTABLE is delivered for them and for the lanes `also`
that it has killed before (R185, R430). A system core halts instead (R431); `va` is the address read, 0 for a register. -/
def killLanes (s : State) (c : CtxRef) (m also : Word) (src level loc va : Nat) : State :=
  if m = 0 ∧ also = 0 then s
  else
    let h := ((s.ctx? c).map (·.handle)).getD 0
    let s := if m = 0 then s else (s.modCtx c (·.kill m)).logError src 2 loc h
    if c.isSys then s.escalate c 0x40 (((s.ctx? c).map (·.flow.pc)).getD 0) (BitVec.ofNat 64 va)
    else s.deliver c { cause := 0x40, value := (m ||| also).toNat + src * 2 ^ 32, level }

end State

/-! ### Retiring (R124, R125) -/

/-- The record hashed for an instruction (R124). -/
def sigRecord (op : Nat) (f : Flow) : Nat :=
  op * 2 ^ 56 + f.active.toNat * 2 ^ 24 + f.lResume.toNat * 2 ^ 19 + (if op = 0xB0 then 2 ^ 18 else 0) + f.lJoin.toNat * 2 ^ 17 +
    f.lSplit.toNat * 2 ^ 16

/-- Hash an instruction that issued with flow `f0`: the latch as it stood at issue is folded in and cleared; EXIT has cleared it and leaves in
it what it has set itself (`Ctx.leave`). -/
def hashInto (op : Nat) (f0 f : Flow) : Flow :=
  if hashedOp op then
    let f := { f with sig := Crypto.crcBits 64 f.sig (sigRecord op f0) }
    if op = 0x09 then f else { f with lSplit := false, lJoin := false, lResume := false }
  else f

/-- How a meaning ends. -/
inductive Eff where
  /-- The instruction completes; the next one follows. -/
  | done (s : State)
  /-- It completes and control goes on at an address. -/
  | goto (s : State) (pc : Nat)
  /-- It raises a precise fault with a value and has no effect. -/
  | trap (cause : Nat) (value : DWord)
  /-- It completes, then a fault is raised with the address after it. -/
  | after (s : State) (cause : Nat) (value : DWord)
  /-- It parks at a blocking point. -/
  | park (s : State) (w : Wait)
  /-- It completes and the group parks at it: a peer load, CPY .YC. -/
  | rest (s : State) (w : Wait)
  /-- It waits at issue; the state may have changed on the way. -/
  | stall (s : State)
  /-- It escalates with a cause and value (R431). -/
  | lost (s : State) (cause : Nat) (value : DWord)

/-- An instruction that issued in `s0` retires in `s` and goes on at `pc`. -/
def retire (op : Nat) (s0 s : State) (pc : Nat) : State :=
  s.modG (fun g => { g with flow := { hashInto op s0.g.flow g.flow with pc := pc }, wait := {}
                            sched := { g.sched with tries := 0, stalled := false, promoted := false, waited := 0
                                                    watch := none, recheck := false, pushes := none, shut := false } })

/-- A group with a pending slice expiry that reaches a blocking point is held, and a SLICE record is posted (R354). -/
def blockPoint (s : State) : State :=
  if s.g.sched.expiry then
    (s.modG (fun g => { g with sched := { g.sched with expiry := false, held := true } })).post s.g.cluster s.g.ids.core s.g.ids.slot
      (s.record s.g 5)
  else s

/-- The state after a meaning has ended. -/
def finish (op : Nat) (s0 : State) : Eff → State
  | .done s => retire op s0 s (nextPc s0.g.flow.pc)
  | .goto s pc => retire op s0 s pc
  | .trap c v => s0.raise c s0.g.flow.pc v
  | .after s c v =>
    let t := retire op s0 s (nextPc s0.g.flow.pc)
    t.raise c t.g.flow.pc v
  | .park s w => blockPoint (s.modG (fun g => { g.setWait w with sched := { g.sched with promoted := false, parkedAt := s.clock } }))
  | .rest s w => blockPoint ((retire op s0 s (nextPc s0.g.flow.pc)).modG (fun g => { g.setWait w with sched := { g.sched with parkedAt := s.clock } }))
  | .stall s => s.modG Ctx.holdAtIssue
  | .lost s c v => s.escalate s0.g.ids.ref c s0.g.flow.pc v

/-! ### Issue (R62, R103, R344) -/

/-- What is decided about an instruction that is about to issue. -/
inductive Verdict where
  | stall
  | trap (cause : Nat) (value : DWord)
  | take (d : Delivered)
  | go (s : State)

/-- EVAL of checks 2 to 5: instruction bits [95:32] (R62). -/
def evalBits (w : Slot) : DWord := w.extractLsb' 32 64

/-- A branch's target (R50). -/
def branchTarget (pc : Nat) (f : FB) : Nat :=
  wrapTo 56 ((pc / 64 * 64 : Nat) + 64 * f.ofs.toInt + 4 + 12 * (f.slot.toNat : Int))

/-- The address JMPI and CALLI compute (R115). -/
def jumpTarget (g : Ctx) (f : F3) : Nat := wrapTo 56 ((g.rdS64 f.a.toNat).toNat + f.imm.toInt)

/-- The continuation of CPY .YC (R52). -/
def contTarget (pc : Nat) (f : FC) : Nat :=
  wrapTo 56 ((pc / 64 * 64 : Nat) + 64 * (f.imm.extractLsb' 24 24).toInt + 4 + 12 * ((f.imm.extractLsb' 21 3).toNat : Int))

/-- The transfers checked at issue (R62 checks 7 to 9), each with whether R36 governs it. -/
def targetsOf (i : Instr) (g : Ctx) : List (Nat × Bool) :=
  match i with
  | .jmpi f | .calli f => [(jumpTarget g f, true)]
  | .trap _ => [(nextPc g.flow.pc, true)]
  | _ =>
    match i.shape with
    | .fb _ _ f _ => [(branchTarget g.flow.pc f, true)]
    | .fc f _ => if f.yc then [(contTarget g.flow.pc f, true)] else []
    | .fs _ p => g.stackTargets p.op
    | _ => []

/-- A 32-bit B, whatever the type (the counts of shifts, BFX and BFI, B of LEA, SHFL, LANERD and FSCL). -/
def Ctx.bWord (g : Ctx) (f : F3) (l : Nat) : Nat := if f.ib then f.imm.toNat else g.rd (f.h.y || f.ub) f.b.toNat l 1

/-- The source lane of SHFL, none when .SLIDE leaves the segment (R179). -/
def shflSource (f : F3) (g : Ctx) (l : Nat) : Option Nat :=
  let seg := 2 ^ (f.var.toNat / 4)
  let base := l - l % seg
  let r := l % seg
  let b := g.bWord f l
  match f.var.toNat % 4 with
  | 0 => some (base + b % seg)
  | 1 => some (base + (r + b) % seg)
  | 2 =>
    let t : Int := l + signedOf 32 b
    if t < base ∨ base + seg ≤ t then none else some t.toNat
  | _ => some (base + (seg - 1 - r + b) % seg)

/-- SHFL (R179): the lane's value and whether a live source gave it; `none` for a dead source. -/
def shflPick (f : F3) (g : Ctx) (l : Nat) : Option (Nat × Bool) :=
  match shflSource f g l with
  | none => some (l, false)
  | some t => if !bit g.flow.active t then some (l, false) else if bit g.flow.dead t then none else some (t, true)

/-- The lane LANERD reads, if it is one that gives a value (R180). -/
def lanerdLane (f : F3) (g : Ctx) : Option Nat := (some (g.bWord f 0)).filter (fun t => decide (t < 32) && !bit g.flow.dead t)

/-- The index a lane of IXRD or IXWR computes, without wrap (R152). -/
def ixIndex (f : F3) (g : Ctx) (l : Nat) : Nat := f.imm.toNat + (g.rdV f.a.toNat l).toNat

/-- Is an element of `n` registers from `r` poisoned in a lane? -/
def poisonedOp (g : Ctx) (r n l : Nat) : Bool := (List.range n).any (fun i => g.vpois (r + i) l)

/-- The registers an instruction reads, its guard among them. -/
def readsOf (i : Instr) : List Reg := i.shape.guard ++ i.shape.sources

/-- Does a lane of EXEC consume a poisoned vector element (R430)? SHFL, LANERD and IXRD consume the element they write (R185). A lane of MATCH consumes its own element alone (DESIGN CHOICE, log 94). -/
def consumes (i : Instr) (g : Ctx) (l : Nat) : Bool :=
  match i with
  | .shfl f => (!f.ib && !f.ub && g.vpois f.b.toNat l) || (shflPick f g l).any (fun e => poisonedOp g f.a.toNat f.ty.regs e.1)
  | .lanerd f => (lanerdLane f g).any (poisonedOp g f.a.toNat f.ty.regs)
  | .ixrd f => g.vpois f.a.toNat l || g.vpois (ixIndex f g l) l
  | _ => i.shape.vreads.any (fun r => g.vpois r l)

/-- Does the instruction read a poisoned S, P, C or W register? -/
def readsBad (i : Instr) (g : Ctx) : Bool := g.regs.up != [] && (readsOf i).any g.upois

/-- The lanes that die at issue: lanes of EXEC that read a poisoned element, each of them when it is a register that all read (R430); those of
RSMP die when it arrives (R318). -/
def deathsOf (i : Instr) (g : Ctx) : Word :=
  if i.shape.hdr.y ∨ i.shape.op = 0x98 ∨ (g.regs.vp = [] ∧ g.regs.up = []) then 0
  else
    let all := readsBad i g
    maskWhere (fun l => bit (g.exec i.shape.hdr) l && (all || consumes i g l))

/-- Is the instruction guarded off as a whole: Y = 1 and its C guard false (R107)? LDW checks its witness and its address first (R225). -/
def guardedOff (i : Instr) (g : Ctx) : Bool := i.shape.hdr.y && !g.guardC i.shape.hdr && i.shape.op != 0x62

/-- A uniform instruction consumes poison (R431): its guard's, or, when the guard lets it act, an operand's (R107). -/
def lostUniform (i : Instr) (g : Ctx) : Bool :=
  i.shape.hdr.y && (i.shape.guard.any g.upois || (!guardedOff i g && readsBad i g))

/-- Generator outputs consumed (R101): 32 per rounded element of a lane instruction, 1 of a uniform one. -/
def drawsOf (i : Instr) : Nat :=
  match i with
  | .fpack f => if f.rnd = .rs then 32 * f.ty.blockElems else 0
  | .rng f => if f.h.y then 1 else 32
  | _ =>
    match i.shape with
    | .f3 f _ => if f.rnd = .rs then (if f.h.y then 1 else 32) else 0
    | _ => 0

/-- Checks 2 to 6 of R62 and the differences of a system core (R362, R365). With several V fields past the bound (R44, R173) EVAL1 holds the first
of D, A, B, X (DESIGN CHOICE, log 100). -/
def staticCheck (i : Instr) (g : Ctx) : Option (Nat × DWord) :=
  let op := i.shape.op
  let bits := evalBits (encode i)
  if op = 0xFF ∨ (g.isSys ∧ noSysOp op) then some (0x01, bits)
  else if !i.wf then some (0x02, bits)
  else
    let sysEnc : Bool := match i with
      | .cpyMove f | .cpyGath f | .cpyScat f | .cpyFill f => g.isSys && f.yc
      | .srget f | .srset f | .srgetHubdata f | .srsetHubdata f =>
        (f.sel == 0x10C || f.sel == 0x10D) && g.isSys && !(match g.ids.ref with | .prefect _ => true | _ => false)
      | _ => false
    let priv : Bool := match i with
      | .srget f | .srset f | .srgetHubdata f | .srsetHubdata f | .srsetRmapent f | .srsetAsnroot f => f.sel.toNat / 256 == 1 && !g.isSys
      | _ => (privOp op && !g.isSys) || (op == 0xBF && decide (g.ids.ref ≠ .secure))
    if sysEnc then some (0x02, bits)
    else if priv then some (0x05, bits)
    else if !g.ids.role.may (classOf op i.shape.hdr.y) then some (0x06, bits)
    else match i.shape.vfields.find? (fun r => g.bound ≤ r) with
      | some r => some (0x07, BitVec.ofNat 64 r)
      | none => none

/-- Checks 7 to 9 for one transfer after another: all three where R36 governs it, else check 7. -/
def targetsCheck (s : State) : List (Nat × Bool) → Except (Nat × DWord) State
  | [] => .ok s
  | (a, false) :: as => if slotAddr a then targetsCheck s as else .error (0x04, BitVec.ofNat 64 a)
  | (a, true) :: as =>
    match s.target a with
    | .error c => .error (c, BitVec.ofNat 64 a)
    | .ok (s, _, _) => targetsCheck s as

/-- The tile a matrix instruction names; MACQ, MREL, MTAB and MCLS name none (R259, R288). -/
def tileOf? (i : Instr) : Option Nat :=
  match i.shape with
  | .fx f p => if (0x82 ≤ p.op ∧ p.op ≤ 0x86) ∨ 0x89 ≤ p.op then some f.tile.toNat else none
  | _ => none

/-- The handle of a tile that the team does not hold (R258). -/
def tileFault (i : Instr) (s : State) : Option Nat :=
  (tileOf? i).filter (fun t => decide (((s.team? s.g).map (·.tiles.length)).getD 0 ≤ t))

/-- Decide about an instruction of the issuing context. -/
def verdict (i : Instr) (s : State) : Verdict :=
  let g := s.g
  if !g.able then .stall
  else match staticCheck i g with
    | some (c, v) => .trap c v
    | none =>
      if i.shape.regs.any g.marked || i.shape.writes.any g.locked then .stall
      else match targetsCheck s (targetsOf i g) with
        | .error (c, v) => .trap c v
        | .ok t =>
        match tileFault i s with
        | some h => .trap 0x20 (BitVec.ofNat 64 h)
        | none =>
          match State.deliverable g with
          | some d => if g.midway then .go t else .take d
          | none => .go t

/-- Lanes that consumed register poison at issue are logged, and delivered with the result that the instruction has left pending, if it has
(R430). -/
def buried (s0 : State) (dead : Word) (s : State) : State :=
  if dead = 0 then s
  else
    let s := s.logError 0 2 s.g.regLoc s.g.handle
    match s.g.pend.find? (fun p => decide (s0.nextId ≤ p.id) && p.kind != .witness) with
    | some p => s.modG (fun g => { g with pend := g.pend.map (fun q => if q.id = p.id then { q with killed := dead } else q) })
    | none => s.deliver s.g.ids.ref { cause := 0x40, value := dead.toNat, level := s0.g.traps.level }

/-- An instruction that waits or parks before it has acted has killed no lane. -/
def unburied (s0 s : State) : State :=
  s.modG (fun g => { g with flow := { g.flow with dead := s0.g.flow.dead }, regs := { g.regs with vp := s0.g.regs.vp } })

/-- How an effect ends when lanes have died at issue. -/
def Eff.burying (s0 : State) (dead : Word) : Eff → Eff
  | .done s => .done (buried s0 dead s)
  | .goto s pc => .goto (buried s0 dead s) pc
  | .after s c v => .after (buried s0 dead s) c v
  | .rest s w => .rest (buried s0 dead s) w
  | .park s w => .park (unburied s0 s) w
  | .stall s => .stall (unburied s0 s)
  | e => e

/-- A program instruction retires and the draw counter advances (R101). -/
def Eff.drawing (i : Instr) : Eff → Eff
  | .done s => .done (s.modG (fun g => { g with ns := g.ns + BitVec.ofNat 64 (drawsOf i) }))
  | e => e

/-- The effect of an instruction that passed every check: a uniform instruction or a system core that consumes poison escalates (R431), lanes
that do die, the guard is applied, the meaning runs, and the draw counter advances (R101). -/
def effect (i : Instr) (s : State) (body : State → Eff) : State :=
  let dead := deathsOf i s.g
  if lostUniform i s.g ∨ (dead ≠ 0 ∧ s.g.isSys) then
    (s.logError 0 2 s.g.regLoc s.g.handle).escalate s.g.ids.ref 0x40 s.g.flow.pc 0
  else if guardedOff i s.g then
    finish i.shape.op s (.done (s.modG (fun g =>
      let g := if i.shape.op = 0x09 then g.unlatch else g
      { g with ns := g.ns + BitVec.ofNat 64 (drawsOf i) })))
  else if dead = 0 then finish i.shape.op s ((body s).drawing i)
  else finish i.shape.op s (((body (s.modG (·.kill dead))).burying s dead).drawing i)

/-- Issue an instruction of the issuing context (R62): the one frame around every program instruction's meaning. -/
def issue (i : Instr) (s : State) (body : State → Eff) : Res :=
  match verdict i s with
  | .stall => .next (s.modG Ctx.holdAtIssue)
  | .trap c v => .next (s.raise c s.g.flow.pc v)
  | .take d => .next (s.takeDelivered d)
  | .go t => .next (effect i t body)

/-- A step of the machine's own: it happens when it is due, and otherwise nothing does. -/
def event (s : State) (due : Bool) (f : State → State) : Res := .next (if due then f s else s)

end Machine

end Sys2Proof
end

