-- ==== Sys2Proof/Machine/Operands.lean ====
section
/-! DEFINITION. Operands of the F3 instructions: registers, S registers in lane instructions, immediates (R46, R47, R131), and the
writing of results in the lanes of EXEC (R106) or once for the group (R107). -/

namespace Sys2Proof.Machine

/-- A binary32 pattern widened exactly to binary64 (R47). -/
def widenF32 (x : Nat) : Nat :=
  let sgn := x / 2 ^ 31 % 2
  let e := x / 2 ^ 23 % 256
  let m := x % 2 ^ 23
  let mag :=
    if e = 255 then 2047 * 2 ^ 52 + m * 2 ^ 29
    else if e ≠ 0 then (e + 896) * 2 ^ 52 + m * 2 ^ 29
    else if m = 0 then 0
    else
      let k := log2Aux 23 m
      (k + 874) * 2 ^ 52 + (m * 2 ^ (52 - k)) % 2 ^ 52
  sgn * 2 ^ 63 + mag

/-- The immediate B operand of a type (R47), as the bits of the operand. -/
def immB (t : Ty) (imm : Word) : Nat :=
  match t with
  | .i64 => wrapTo 64 imm.toInt
  | .f64 => widenF32 imm.toNat
  | .n64 | .b64 => imm.toNat
  | t => imm.toNat % 2 ^ t.bits

namespace Ctx

/-- A of `n` registers in a lane. -/
def aVal (g : Ctx) (f : F3) (n l : Nat) : Nat := g.rd f.h.y f.a.toNat l n
/-- B of `n` registers in a lane, of type `t` when immediate. -/
def bVal (g : Ctx) (f : F3) (t : Ty) (n l : Nat) : Nat :=
  if f.ib then immB t f.imm else g.rd (f.h.y || f.ub) f.b.toNat l n
/-- X of `n` registers in a lane. -/
def xVal (g : Ctx) (f : F3) (n l : Nat) : Nat := g.rd (f.h.y || f.ux) f.x.toNat l n

end Ctx

/-- A predicate: a lane of P, or C in a uniform form (R131). -/
def rdPred (g : Ctx) (y : Bool) (i l : Nat) : Bool := if y then g.rdC i else bit (g.rdP i) l

/-- The lanes a form acts in: EXEC, or one for a uniform form. -/
def actLanes (g : Ctx) (h : Hdr) : List Nat := if h.y then [0] else lanes (g.exec h)

/-- Write `n` registers from `d` in each acting lane; the values are computed from the old registers (R106). -/
def putRegs (h : Hdr) (d n : Nat) (val : Nat → Nat) (s : State) : State :=
  s.modG (fun g => (actLanes g h).foldl (fun acc l => acc.wr h.y d l n (val l)) g)

/-- Write a predicate in each acting lane. -/
def putPred (h : Hdr) (d : Nat) (val : Nat → Bool) (s : State) : State :=
  s.modG (fun g => if h.y then g.wrC d (val 0) else g.wrP d (g.exec h) (maskWhere val))

/-- D of a type's registers. -/
def putD (f : F3) (n : Nat) (val : Ctx → Nat → Nat) (s : State) : Eff := .done (putRegs f.h f.d.toNat n (val s.g) s)

end Sys2Proof.Machine
end

