-- ==== Sys2Proof/Machine/Flags.lean ====
section
/-! DEFINITION. Number formats, rounding and the exception flags (R71 to R90, R98 to R101, R157). Values are exact: an integer significand
times a power of two, rounded once (R77). An inexact quotient, root or function value is given by more than 200 bits and a last
bit that stands for the rest. -/

namespace Sys2Proof.Machine

/-! ### The device generator (R98 to R101) -/

def mix (z : DWord) : DWord :=
  let z := (z ^^^ (z >>> 30)) * 0xBF58476D1CE4E5B9
  let z := (z ^^^ (z >>> 27)) * 0x94D049BB133111EB
  z ^^^ (z >>> 31)

def gen (k n : DWord) : DWord := mix (k ^^^ (n * 0x9E3779B97F4A7C15))

/-- The output assigned to element j of a lane (R101). -/
def draw (g : Ctx) (y : Bool) (j l : Nat) : DWord := gen g.ks (g.ns + BitVec.ofNat 64 (if y then j else 32 * j + l))

/-! ### Flags (R157) -/

def fIV : Nat := 1
def fDZ : Nat := 2
def fOF : Nat := 4
def fUF : Nat := 8
def fNX : Nat := 16

/-! ### Formats (R73) -/

/-- A floating-point format: exponent bits, bias, fraction bits; whether exponents of all ones hold infinities and NaNs as in
IEEE 754, or only the one NaN of E4M3, or neither. -/
structure Fmt where
  eb : Nat
  bias : Nat
  fb : Nat
  ieee : Bool := true
  e4m3 : Bool := false
  deriving DecidableEq, Repr

def Fmt.f64 : Fmt := { eb := 11, bias := 1023, fb := 52 }
def Fmt.f32 : Fmt := { eb := 8, bias := 127, fb := 23 }
def Fmt.f16 : Fmt := { eb := 5, bias := 15, fb := 10 }
def Fmt.bf16 : Fmt := { eb := 8, bias := 127, fb := 7 }
def Fmt.e4m3' : Fmt := { eb := 4, bias := 7, fb := 3, ieee := false, e4m3 := true }
def Fmt.e5m2 : Fmt := { eb := 5, bias := 15, fb := 2 }
def Fmt.e3m2 : Fmt := { eb := 3, bias := 3, fb := 2, ieee := false }
def Fmt.e2m3 : Fmt := { eb := 2, bias := 1, fb := 3, ieee := false }
def Fmt.e2m1 : Fmt := { eb := 2, bias := 1, fb := 1, ieee := false }

/-- The format of a type; block types name their element format. -/
def fmtOf : Ty → Fmt
  | .f64 => .f64
  | .f16 => .f16
  | .bf16 => .bf16
  | .e4m3 | .mxe4m3 => .e4m3'
  | .e5m2 | .mxe5m2 => .e5m2
  | .mxe3m2 => .e3m2
  | .mxe2m3 => .e2m3
  | .mxe2m1 => .e2m1
  | _ => .f32

namespace Fmt
/-- The sign bit's place. -/
def signBit (f : Fmt) : Nat := f.eb + f.fb
/-- The smallest normal exponent. -/
def emin (f : Fmt) : Int := 1 - (f.bias : Int)
/-- The encoding of the largest finite magnitude. -/
def maxBits (f : Fmt) : Nat :=
  if f.ieee then (2 ^ f.eb - 1) * 2 ^ f.fb - 1 else if f.e4m3 then 0x7E else 2 ^ (f.eb + f.fb) - 1
/-- The encoding of +∞. -/
def infBits (f : Fmt) : Nat := (2 ^ f.eb - 1) * 2 ^ f.fb
/-- The canonical NaN (R74). -/
def nanBits (f : Fmt) : Nat := if f.ieee then f.infBits + 2 ^ (f.fb - 1) else 0x7F
end Fmt

/-- A value: a NaN (signalling or not), an infinity, or (−1)^neg × m × 2^e. -/
inductive FV where
  | nan (sig : Bool)
  | inf (neg : Bool)
  | fin (neg : Bool) (m : Nat) (e : Int)
  deriving DecidableEq, Repr

/-- Read an encoding (R73, R74). -/
def FV.read (f : Fmt) (x : Nat) : FV :=
  let neg := x.testBit f.signBit
  let e := x / 2 ^ f.fb % 2 ^ f.eb
  let m := x % 2 ^ f.fb
  if f.ieee ∧ e = 2 ^ f.eb - 1 then (if m = 0 then .inf neg else .nan (m < 2 ^ (f.fb - 1)))
  else if f.e4m3 ∧ e = 15 ∧ m = 7 then .nan false
  else if e = 0 then .fin neg m (f.emin - f.fb)
  else .fin neg (2 ^ f.fb + m) (f.emin - f.fb + (e - 1 : Nat))

/-- floor(log2 m) for m > 0. -/
def ilog2 (m : Nat) : Nat := Nat.log2 m

/-- Inputs under FTZ: a subnormal reads as zero of its sign (R75). -/
def FV.flush (f : Fmt) (v : FV) : FV :=
  match v with
  | .fin neg m e => if m < 2 ^ f.fb ∧ e = f.emin - f.fb then .fin neg 0 e else v
  | v => v

def FV.isNan : FV → Bool
  | .nan _ => true
  | _ => false
def FV.isSig : FV → Bool
  | .nan b => b
  | _ => false
def FV.neg : FV → FV
  | .nan b => .nan b
  | .inf n => .inf !n
  | .fin n m e => .fin (!n) m e
def FV.isNeg : FV → Bool
  | .nan _ => false
  | .inf n => n
  | .fin n _ _ => n
def FV.isZero : FV → Bool
  | .fin _ m _ => m == 0
  | _ => false

/-! ### Rounding (R77 to R80) -/

/-- Step away from zero? `n` is the truncated significand, `r` of `2^sh` the discarded part, `x` the draw. -/
def stepAway (mode : Rnd) (x : DWord) (neg : Bool) (n r sh : Nat) : Bool :=
  if r = 0 then false
  else match mode with
    | .rn => 2 ^ sh < 2 * r || (2 * r == 2 ^ sh && n % 2 == 1)
    | .rz => false
    | .rd => neg
    | .rp => !neg
    | .rs => x.toNat / 2 ^ 32 < r * 2 ^ 32 / 2 ^ sh

/-- m × 2^e rounded to a multiple of 2^k: the multiple and whether it is exact. -/
def roundAt (mode : Rnd) (x : DWord) (neg : Bool) (m : Nat) (e k : Int) : Nat × Bool :=
  if k ≤ e then (m * 2 ^ (e - k).toNat, true)
  else
    let sh := (k - e).toNat
    let n := m / 2 ^ sh
    let r := m % 2 ^ sh
    (n + (stepAway mode x neg n r sh).toNat, r == 0)

/-- Round a nonzero exact magnitude into a format: encoding and flags. Whether it is tiny is judged after rounding with the exponent unbounded, under .RS
with the element's own draw (R80; DESIGN CHOICE, log 100). `sat` makes overflow saturate (R79, FCVT.SAT), `ftz` flushes a
tiny result (R75). -/
def roundMag (f : Fmt) (mode : Rnd) (x : DWord) (sat ftz neg : Bool) (m : Nat) (e : Int) : Nat × Nat :=
  let low := f.emin - f.fb - 40
  let (m, e) := if (ilog2 m : Int) + e < low then (1, low - 1) else (m, e)
  let top := (ilog2 m : Int) + e
  let k := max top f.emin - f.fb
  let (n, exact) := roundAt mode x neg m e k
  let bits := (k - (f.emin - f.fb)).toNat * 2 ^ f.fb + n
  let tiny := top < f.emin && (
    let k0 := top - f.fb
    let n0 := (roundAt mode x neg m e k0).1
    decide ((n0 : Int) * 2 ^ (k0 - (f.emin - f.fb - f.fb - 60)).toNat < 2 ^ (f.fb + f.fb + 60)))
  if f.maxBits < bits then
    let toInf := match mode with
      | .rn => true
      | .rz => false
      | .rd => neg
      | .rp => !neg
      | .rs => true
    ((if f.ieee && !sat && toInf then f.infBits else f.maxBits), fOF + fNX)
  else if tiny && ftz then (0, fUF + fNX)
  else (bits, (if exact then 0 else fNX) + (if tiny && !exact then fUF else 0))

/-- Put a sign on an encoding. -/
def withSign (f : Fmt) (neg : Bool) (mag : Nat) : Nat := (if neg then 2 ^ f.signBit else 0) + mag

/-- How a result is produced: its format, mode, draw, saturation and flushing. -/
structure RoundCtl where
  f : Fmt
  mode : Rnd := .rn
  x : DWord := 0
  sat : Bool := false
  ftz : Bool := false

/-- Round an exact value. -/
def RoundCtl.exact (c : RoundCtl) (neg : Bool) (m : Nat) (e : Int) : Nat × Nat :=
  if m = 0 then (withSign c.f neg 0, 0)
  else
    let (b, fl) := roundMag c.f c.mode c.x c.sat c.ftz neg m e
    (withSign c.f neg b, fl)

/-- A NaN result with IV when asked. -/
def RoundCtl.nan (c : RoundCtl) (iv : Bool) : Nat × Nat := (c.f.nanBits, if iv then fIV else 0)

/-- An infinite result; saturating formats give the largest finite value (R79). -/
def RoundCtl.inf (c : RoundCtl) (neg : Bool) (fl : Nat := 0) : Nat × Nat :=
  (withSign c.f neg (if c.f.ieee && !c.sat then c.f.infBits else c.f.maxBits), fl)

/-! ### Exact arithmetic -/

/-- The signed integer of a finite value at exponent `k ≤ e`. -/
def alignTo (neg : Bool) (m : Nat) (e k : Int) : Int :=
  let a : Int := m * 2 ^ (e - k).toNat
  if neg then -a else a

/-- The sign of an exact zero sum of two addends (R161): both zeros of one sign keep it, else minus only under .RD. -/
def zeroSign (mode : Rnd) (sameZero : Option Bool) : Bool :=
  match sameZero with
  | some n => n
  | none => mode == .rd

/-- The sum of two values, rounded once (R161). -/
def fvAdd (c : RoundCtl) (a b : FV) : Nat × Nat :=
  match a, b with
  | .nan s, b => c.nan (s || b.isSig)
  | a, .nan s => c.nan (s || a.isSig)
  | .inf n, .inf n' => if n = n' then c.inf n else c.nan true
  | .inf n, _ => c.inf n
  | _, .inf n => c.inf n
  | .fin n m e, .fin n' m' e' =>
    let k := min e e'
    let t := alignTo n m e k + alignTo n' m' e' k
    if t = 0 then (withSign c.f (zeroSign c.mode (if m = 0 ∧ m' = 0 ∧ n = n' then some n else none)) 0, 0)
    else c.exact (t < 0) t.natAbs k

/-- The exact product; `none` for 0 × ∞. NaNs are looked at first by the callers. -/
def fvMul (a b : FV) : Option FV :=
  match a, b with
  | .nan s, b => some (.nan (s || b.isSig))
  | a, .nan s => some (.nan (s || a.isSig))
  | .inf n, b => if b.isZero then none else some (.inf (n != b.isNeg))
  | a, .inf n => if a.isZero then none else some (.inf (n != a.isNeg))
  | .fin n m e, .fin n' m' e' => some (.fin (n != n') (m * m') (e + e'))

/-- A value that is already exact, rounded. -/
def RoundCtl.of (c : RoundCtl) (v : FV) : Nat × Nat :=
  match v with
  | .nan s => c.nan s
  | .inf n => c.inf n
  | .fin n m e => c.exact n m e

/-- A × B + X (R161): 0 × ∞ raises IV even beside a NaN addend. -/
def fvFma (c : RoundCtl) (a b x : FV) : Nat × Nat :=
  match fvMul a b with
  | none => c.nan true
  | some p => fvAdd c p x

/-- The quotient bits of p / q × 2^e with a last bit for the rest. -/
def quotient (p q : Nat) (e : Int) : Nat × Int :=
  let sh := 240 + ilog2 q
  let n := p * 2 ^ sh / q
  (2 * n + (if p * 2 ^ sh % q = 0 then 0 else 1), e - sh - 1)

/-- FDIV (R162). -/
def fvDiv (c : RoundCtl) (a b : FV) : Nat × Nat :=
  match a, b with
  | .nan s, b => c.nan (s || b.isSig)
  | a, .nan s => c.nan (s || a.isSig)
  | .inf _, .inf _ => c.nan true
  | .inf n, b => c.inf (n != b.isNeg)
  | .fin n _ _, .inf n' => (withSign c.f (n != n') 0, 0)
  | .fin n m e, .fin n' m' e' =>
    if m' = 0 then (if m = 0 then c.nan true else c.inf (n != n') fDZ)
    else if m = 0 then (withSign c.f (n != n') 0, 0)
    else
      let (q, k) := quotient m m' (e - e')
      c.exact (n != n') q k

/-- Integer square root by bits from the top. -/
def isqrtAux : Nat → Nat → Nat → Nat
  | 0, _, r => r
  | k + 1, n, r => let t := r + 2 ^ k; isqrtAux k n (if t * t ≤ n then t else r)

def isqrt (n : Nat) : Nat := isqrtAux (ilog2 n / 2 + 1) n 0

/-- FSQRT (R162). -/
def fvSqrt (c : RoundCtl) (a : FV) : Nat × Nat :=
  match a with
  | .nan s => c.nan s
  | .inf n => if n then c.nan true else c.inf false
  | .fin n m e =>
    if m = 0 then (withSign c.f n 0, 0)
    else if n then c.nan true
    else
      let e2 : Int := e / 2 * 2
      let m := m * 2 ^ (e - e2).toNat * 2 ^ 400
      let r := isqrt m
      c.exact false (2 * r + (if r * r = m then 0 else 1)) (e2 / 2 - 200 - 1)

/-! ### Comparison, minimum, maximum (R165, R166) -/

/-- a < b for ordered values, −0 equal to +0. -/
def fvLt (a b : FV) : Bool :=
  match a, b with
  | .nan _, _ | _, .nan _ => false
  | .inf n, .inf n' => n && !n'
  | .inf n, _ => n
  | _, .inf n => !n
  | .fin n m e, .fin n' m' e' => let k := min e e'; alignTo n m e k < alignTo n' m' e' k

def fvEq (a b : FV) : Bool := !a.isNan && !b.isNan && !fvLt a b && !fvLt b a

/-- The order of FMIN and FMAX, −0 below +0. -/
def fvBelow (a b : FV) : Bool := fvLt a b || (fvEq a b && a.isNeg && !b.isNeg)

/-- FMIN (`lo`) or FMAX by the default rules or .NAN, on encodings with their values (R165). -/
def fvMinMax (f : Fmt) (lo nanForm : Bool) (a b : Nat × FV) : Nat × Nat :=
  let iv := if a.2.isSig || b.2.isSig then fIV else 0
  if a.2.isNan && b.2.isNan then (f.nanBits, iv)
  else if a.2.isNan then (if nanForm then f.nanBits else b.1, iv)
  else if b.2.isNan then (if nanForm then f.nanBits else a.1, iv)
  else if fvBelow a.2 b.2 then (if lo then a.1 else b.1, iv) else (if lo then b.1 else a.1, iv)

/-! ### To integers (R167, R172) -/

/-- A finite value rounded to an integer: the magnitude and whether it is exact. -/
def toIntegral (mode : Rnd) (neg : Bool) (m : Nat) (e : Int) : Nat × Bool :=
  if m ≠ 0 ∧ (ilog2 m : Int) + e < -2 then ((if (mode = .rd ∧ neg) ∨ (mode = .rp ∧ !neg) then 1 else 0), false)
  else roundAt mode 0 neg m e 0

/-! ### Functions (R163): fixed point with `P` fraction bits -/

/-- Fraction bits of the working precision. -/
def fxP : Nat := 640

def fxOne : Nat := 2 ^ fxP

/-- Sum of a Taylor series: `t` is the current term, `step k t` the next one; the sum of `n` terms. -/
def series (step : Nat → Nat → Nat) : Nat → Nat → Nat → Nat
  | 0, _, _ => 0
  | n + 1, k, t => t + series step n (k + 1) (step k t)

/-- Even and odd terms of a series apart: their difference is an alternating sum. -/
def altSeries (step : Nat → Nat → Nat) (n k t : Nat) : Nat × Nat :=
  match n with
  | 0 => (0, 0)
  | n + 1 => let (a, b) := altSeries step n (k + 1) (step k t); (t + b, a)

/-- ln 2 = Σ 1 / (k 2^k). -/
def fxLn2 : Nat := series (fun k t => t * k / (2 * (k + 1))) 640 1 (fxOne / 2)

/-- atan(1/q). -/
def fxAtanInv (q : Nat) : Nat :=
  let (a, b) := altSeries (fun k t => t * (2 * k + 1) / ((2 * k + 3) * q * q)) 300 0 (fxOne / q)
  a - b

/-- π by Machin's formula. -/
def fxPi : Nat := 16 * fxAtanInv 5 - 4 * fxAtanInv 239

/-- e^r for 0 ≤ r < 1. -/
def fxExp (r : Nat) : Nat := series (fun k t => t * r / (fxOne * (k + 1))) 130 0 fxOne

/-- sin r and cos r for 0 ≤ r < 1. -/
def fxSin (r : Nat) : Nat :=
  let (a, b) := altSeries (fun k t => t * r / fxOne * r / (fxOne * ((2 * k + 2) * (2 * k + 3)))) 70 0 r
  a - b
def fxCos (r : Nat) : Nat :=
  let (a, b) := altSeries (fun k t => t * r / fxOne * r / (fxOne * ((2 * k + 1) * (2 * k + 2)))) 70 0 fxOne
  a - b

/-- A positive finite value in fixed point; it is below 2^129. -/
def fxOf (m : Nat) (e : Int) : Nat := if 0 ≤ e + fxP then m * 2 ^ (e + fxP).toNat else m / 2 ^ (-(e + fxP)).toNat

/-- A positive fixed-point value that is not exact, as a significand with its last bit for the rest. -/
def fxRes (x : Nat) : Nat × Int := (2 * (x / 2 ^ 200) + 1, -(fxP : Int) + 200 - 1)

/-- One more or less than a value by less than any rounding sees. -/
def nearly (m : Nat) (e : Int) (above : Bool) : Nat × Int := (if above then m * 2 ^ 200 + 1 else m * 2 ^ 200 - 1, e - 200)

/-- Bits of log2 y for 1 ≤ y < 2 by squaring. -/
def log2Bits : Nat → Nat → Nat → Nat
  | 0, _, acc => acc
  | n + 1, y, acc =>
    let z := y * y / fxOne
    if 2 * fxOne ≤ z then log2Bits n (z / 2) (2 * acc + 1) else log2Bits n z (2 * acc)

/-- Strip factors of two. -/
def oddPart : Nat → Nat → Int → Nat × Int
  | 0, m, e => (m, e)
  | k + 1, m, e => if m % 2 = 0 then oddPart k (m / 2) (e + 1) else (m, e)

/-- 1/√x (R163). -/
def fvRsqrt (c : RoundCtl) (a : FV) : Nat × Nat :=
  match a with
  | .nan s => c.nan s
  | .inf n => if n then c.nan true else (0, 0)
  | .fin n m e =>
    if m = 0 then c.inf n fDZ
    else if n then c.nan true
    else
      let (o, k) := oddPart 60 m e
      if o = 1 ∧ k % 2 = 0 then c.exact false 1 (-(k / 2))
      else
        let k2 : Int := k / 2 * 2
        let r := isqrt (2 ^ 600 / (o * 2 ^ (k - k2).toNat))
        c.exact false (2 * r + 1) (-300 - k2 / 2 - 1)

/-- 2^x (R163). -/
def fvExp2 (c : RoundCtl) (a : FV) : Nat × Nat :=
  match a with
  | .nan s => c.nan s
  | .inf n => if n then (0, 0) else c.inf false
  | .fin n m e =>
    if m = 0 then c.exact false 1 0
    else if 0 ≤ e then c.exact false 1 (if n then -(m * 2 ^ e.toNat : Nat) else (m * 2 ^ e.toNat : Nat))
    else if (ilog2 m : Int) + e < -40 then let (q, k) := nearly 1 0 (!n); c.exact false q k
    else
      let x := fxOf m e
      let whole := x / fxOne
      let frac := x % fxOne
      if frac = 0 then c.exact false 1 (if n then -(whole : Int) else whole)
      else
        let fl : Int := if n then -(whole : Int) - 1 else whole
        let fr := if n then fxOne - frac else frac
        let (q, k) := fxRes (fxExp (fr * fxLn2 / fxOne))
        c.exact false q (k + fl)

/-- log2 x (R163). -/
def fvLog2 (c : RoundCtl) (a : FV) : Nat × Nat :=
  match a with
  | .nan s => c.nan s
  | .inf n => if n then c.nan true else c.inf false
  | .fin n m e =>
    if m = 0 then c.inf true fDZ
    else if n then c.nan true
    else
      let top : Int := ilog2 m + e
      let y := m * 2 ^ (fxP - ilog2 m)
      if y = fxOne then c.exact (top < 0) top.natAbs 0
      else
        let fl : Int := top * 2 ^ 240 + log2Bits 240 y 0
        let t := 2 * fl + 1
        c.exact (t < 0) t.natAbs (-241)

/-- tanh x (R163). -/
def fvTanh (c : RoundCtl) (a : FV) : Nat × Nat :=
  match a with
  | .nan s => c.nan s
  | .inf n => c.exact n 1 0
  | .fin n m e =>
    if m = 0 then (withSign c.f n 0, 0)
    else if (ilog2 m : Int) + e < -40 then let (q, k) := nearly m e false; c.exact n q k
    else if 6 < (ilog2 m : Int) + e then let (q, k) := nearly 1 0 false; c.exact n q k
    else
      let y := 2 * fxOf m e
      let w := y / fxLn2
      let t := fxOne * fxOne / fxExp (y - w * fxLn2) / 2 ^ w
      let (q, k) := fxRes ((fxOne - t) * fxOne / (fxOne + t))
      c.exact n q k

/-- sin x and cos x of a positive value of at most 2^129 in the first octant's terms: quadrant and remainder. -/
def reduce (m : Nat) (e : Int) : Nat × Nat :=
  let x := fxOf m e
  let h := fxPi / 2
  (x / h % 4, x % h)

/-- sin r or cos r for 0 ≤ r < π/2. -/
def fxTrig (cosine : Bool) (r : Nat) : Nat :=
  let q := fxPi / 4
  if r < q then (if cosine then fxCos r else fxSin r)
  else (if cosine then fxSin (fxPi / 2 - r) else fxCos (fxPi / 2 - r))

/-- sin x or cos x (R163). -/
def fvTrig (c : RoundCtl) (cosine : Bool) (a : FV) : Nat × Nat :=
  match a with
  | .nan s => c.nan s
  | .inf _ => c.nan true
  | .fin n m e =>
    if m = 0 then (if cosine then c.exact false 1 0 else (withSign c.f n 0, 0))
    else if (ilog2 m : Int) + e < -40 then
      if cosine then let (q, k) := nearly 1 0 false; c.exact false q k else let (q, k) := nearly m e false; c.exact n q k
    else
      let (quad, r) := reduce m e
      let useCos := if quad % 2 = 0 then cosine else !cosine
      let neg := if cosine then (quad == 1 || quad == 2) else ((quad == 2 || quad == 3) != n)
      let (q, k) := fxRes (fxTrig useCos r)
      c.exact neg q k

/-! ### Block formats (R81 to R88) -/

/-- Magnitude bits of an SX element. -/
def sxM : Ty → Nat
  | .sx2 => 2
  | .sx4 => 4
  | _ => 7

/-- Element width in bits of a block type. -/
def elemBits : Ty → Nat
  | .mxe2m1 => 4
  | .mxe3m2 | .mxe2m3 => 6
  | .sx2 => 3
  | .sx4 => 5
  | _ => 8

/-- Element `i` of a block's element field with scale bits `sc` (R82, R87). -/
def blockElem (t : Ty) (field sc i : Nat) : FV :=
  let w := elemBits t
  let x := field / 2 ^ (w * i) % 2 ^ w
  if t.isSX then
    let e := sc / 256 % 256
    let mj := sc / 2 ^ (i / 2) % 2
    if e = 255 then .nan false
    else .fin (x.testBit (w - 1)) (x % 2 ^ (w - 1)) ((e : Int) - 127 - mj - (sxM t - 1))
  else
    let s := sc % 256
    if s = 255 then .nan false
    else if t = .mxi8 then let i := signedOf 8 x; .fin (i < 0) i.natAbs ((s : Int) - 133)
    else match FV.read (fmtOf t) x with
      | .fin n m e => .fin n m (e + s - 127)
      | v => v

/-- The largest magnitude's floor(log2), none when every value is zero. -/
def maxLog : List FV → Option Int
  | [] => none
  | v :: vs =>
    let r := maxLog vs
    match v with
    | .fin _ m e => if m = 0 then r else match r with
      | some x => some (max x (ilog2 m + e))
      | none => some (ilog2 m + e)
    | _ => r

def emaxOf : Ty → Int
  | .mxe4m3 => 8
  | .mxe5m2 => 15
  | .mxe3m2 => 4
  | .mxe2m3 => 2
  | .mxe2m1 => 2
  | _ => 0

/-- The bit field of a list of element codes. -/
def packCodes (w : Nat) : List Nat → Nat
  | [] => 0
  | c :: cs => c + 2 ^ w * packCodes w cs

/-- Round |v| × 2^k to an integer with a limit: code and flags, OF and NX when it saturates. -/
def roundLimit (mode : Rnd) (x : DWord) (neg : Bool) (m : Nat) (e : Int) (lim : Nat) : Nat × Nat :=
  if m = 0 then (0, 0)
  else
    let (m, e) := if (ilog2 m : Int) + e < -40 then (1, (-41 : Int)) else (m, e)
    let (n, exact) := roundAt mode x neg m e 0
    if lim < n then (lim, fOF + fNX) else (n, if exact then 0 else fNX)

/-- One element of an MX block, divided by 2^e (R84 step 4). -/
def mxCode (t : Ty) (mode : Rnd) (x : DWord) (e : Int) (v : FV) : Nat × Nat :=
  match v with
  | .fin n m k =>
    if t = .mxi8 then
      let (i, fl) := roundLimit mode x n m (k + 6 - e) (if n then 128 else 127)
      (if n then (256 - i) % 256 else i, fl)
    else
      let f := fmtOf t
      if m = 0 then (withSign f n 0, 0)
      else
        let (b, fl) := roundMag f mode x true false n m (k - e)
        (withSign f n b, fl % 8 + (fl / 16 * 16))
  | _ => (0, 0)

/-- Convert values into a block (R84, R88): the element field, the scale, the flags. `dr j` is the draw of element j. Under .RD and .RP an element
rounds by its sign, as R77 rounds the signed value (DESIGN CHOICE, log 100). -/
def packBlock (t : Ty) (mode : Rnd) (dr : Nat → DWord) (vs : List FV) : Nat × Nat × Nat :=
  let bad := vs.any (fun v => match v with | .fin _ _ _ => false | _ => true)
  let w := elemBits t
  if t.isSX then
    let mm := sxM t
    if bad then (0, 0xFF00, fIV)
    else match maxLog vs with
      | none => (packCodes w (vs.map (fun v => if v.isNeg then 2 ^ mm else 0)), 0x00FF, 0)
      | some lg =>
        let ex : Int := max 0 (min 254 (lg + 127))
        let mj (j : Nat) : Nat :=
          match maxLog ((vs.drop (2 * j)).take 2) with
          | none => 1
          | some p => if p < ex - 127 then 1 else 0
        let cs := vs.zipIdx.map (fun (v, i) =>
          match v with
          | .fin n m k =>
            let (c, fl) := roundLimit mode (dr i) n m (k + (mm - 1 : Nat) + 127 - ex + mj (i / 2)) (2 ^ mm - 1)
            (c + (if n then 2 ^ mm else 0), fl)
          | _ => (0, 0))
        (packCodes w (cs.map (·.1)), ex.toNat * 256 + (List.range 8).foldl (fun a j => a + mj j * 2 ^ j) 0,
          cs.foldl (fun a c => a ||| c.2) 0)
  else if bad then (0, 0xFF, fIV)
  else match maxLog vs with
    | none => (packCodes w (vs.map (fun v => if t = .mxi8 then 0 else if v.isNeg then 2 ^ (w - 1) else 0)), 0, 0)
    | some lg =>
      let e : Int := max (-127) (min 127 (lg - emaxOf t))
      let cs := vs.zipIdx.map (fun (v, i) => mxCode t mode (dr i) e v)
      (packCodes w (cs.map (·.1)), (e + 127).toNat, cs.foldl (fun a c => a ||| c.2) 0)

end Sys2Proof.Machine
end

