-- ==== Sys2Proof/Machine/Integer.lean ====
section
/-! DEFINITION. Integer, address and register-block instructions (R129 to R153). -/

namespace Sys2Proof.Machine

/-- A value as its type reads it: signed for I types, else natural (R133). -/
def valOf (t : Ty) (x : Nat) : Int := if t.signed then signedOf t.bits x else ((x % 2 ^ t.bits : Nat) : Int)

/-- The type minimum and maximum. -/
def tyMin (t : Ty) : Int := if t.signed then -((2 ^ (t.bits - 1) : Nat) : Int) else 0
def tyMax (t : Ty) : Int := if t.signed then ((2 ^ (t.bits - 1) - 1 : Nat) : Int) else ((2 ^ t.bits - 1 : Nat) : Int)

def clampInt (lo hi x : Int) : Int := if x < lo then lo else if hi < x then hi else x

/-- Write modulo the width, or clamped when .SAT asks for it (R133). -/
def narrow (t : Ty) (sat : Bool) (x : Int) : Nat := wrapTo t.bits (if sat then clampInt (tyMin t) (tyMax t) x else x)

/-- A and B of the type as integers. -/
def ab (f : F3) (g : Ctx) (l : Nat) : Int × Int :=
  (valOf f.ty (g.aVal f f.ty.regs l), valOf f.ty (g.bVal f f.ty f.ty.regs l))

/-- An operation on the integer values of A and B. -/
def intOp (f : F3) (op : Int → Int → Int) (sat : Bool) (s : State) : Eff :=
  putD f f.ty.regs (fun g l => narrow f.ty sat (op (ab f g l).1 (ab f g l).2)) s

/-- An operation on the bits of A and B. -/
def bitOp (f : F3) (op : Nat → Nat → Nat) (s : State) : Eff :=
  putD f f.ty.regs (fun g l => op (g.aVal f f.ty.regs l) (g.bVal f f.ty f.ty.regs l)) s

/-- IADD (R133). -/
def execIadd (f : F3) (s : State) : Res := issue (.iadd f) s (intOp f (· + ·) (f.var == 1))
/-- ISUB (R133). -/
def execIsub (f : F3) (s : State) : Res := issue (.isub f) s (intOp f (· - ·) (f.var == 1))
/-- IMUL (R133). -/
def execImul (f : F3) (s : State) : Res := issue (.imul f) s (intOp f (· * ·) false)
/-- IMULH (R133): the high half of the product. -/
def execImulh (f : F3) (s : State) : Res := issue (.imulh f) s (intOp f (fun a b => a * b / (2 ^ f.ty.bits : Nat)) false)

/-- IMAD (R133). -/
def execImad (f : F3) (s : State) : Res :=
  issue (.imad f) s (putD f f.ty.regs (fun g l =>
    narrow f.ty false ((ab f g l).1 * (ab f g l).2 + valOf f.ty (g.xVal f f.ty.regs l))))

/-- IMAD.WIDE (R133). -/
def execImadWide (f : F3) (s : State) : Res :=
  issue (.imadWide f) s (putD f 2 (fun g l => wrapTo 64 ((ab f g l).1 * (ab f g l).2 + (g.xVal f 2 l : Int))))

/-- Quotient and remainder with truncation toward zero and the results for a zero divisor (R134). -/
def divide (t : Ty) (a b : Int) : Int :=
  if b = 0 then (if t.signed then (if 0 ≤ a then tyMax t else tyMin t) else tyMax t) else a.tdiv b
def remainder (a b : Int) : Int := if b = 0 then a else a.tmod b

/-- The lanes whose divisor is zero (R135). -/
def zeroDivisors (f : F3) (g : Ctx) : Word := maskOf ((actLanes g f.h).filter (fun l => (ab f g l).2 == 0))

/-- IDIV and IREM with the trap of GMODE.IDZ (R135). -/
def divOp (f : F3) (op : Int → Int → Int) (s : State) : Eff :=
  let z := zeroDivisors f s.g
  if s.g.gmode.getLsbD 1 ∧ z ≠ 0 then .trap 0x08 (z.setWidth 64) else intOp f op false s

/-- IDIV (R134, R135). -/
def execIdiv (f : F3) (s : State) : Res := issue (.idiv f) s (divOp f (divide f.ty))
/-- IREM (R134, R135). -/
def execIrem (f : F3) (s : State) : Res := issue (.irem f) s (divOp f remainder)
/-- IMIN (R136). -/
def execImin (f : F3) (s : State) : Res := issue (.imin f) s (intOp f min false)
/-- IMAX (R136). -/
def execImax (f : F3) (s : State) : Res := issue (.imax f) s (intOp f max false)

/-- IABS (R136). -/
def execIabs (f : F3) (s : State) : Res :=
  issue (.iabs f) s (putD f f.ty.regs (fun g l => narrow f.ty (f.var == 1) (valOf f.ty (g.aVal f f.ty.regs l)).natAbs))

/-- The combine field of ICMP and FCMP (R137, R166). -/
def combine (f : F3) (g : Ctx) (l : Nat) (c : Bool) : Bool :=
  let x := rdPred g f.h.y f.x.toNat l
  match f.var.toNat / 8 with
  | 0 => c
  | 1 => c && x
  | 2 => c || x
  | _ => c ^^ x

/-- The conditions of ICMP (R137). -/
def intCond (k : Nat) (a b : Int) : Bool :=
  match k with
  | 0 => a == b
  | 1 => a != b
  | 2 => a < b
  | 3 => a ≤ b
  | 4 => b < a
  | _ => b ≤ a

/-- ICMP (R137). -/
def execIcmp (f : F3) (s : State) : Res :=
  issue (.icmp f) s fun s =>
    .done (putPred f.h f.d.toNat (fun l => combine f s.g l (intCond (f.var.toNat % 8) (ab f s.g l).1 (ab f s.g l).2)) s)

/-- AND (R138). -/
def execAnd (f : F3) (s : State) : Res := issue (.andB f) s (bitOp f (· &&& ·))
/-- OR (R138). -/
def execOr (f : F3) (s : State) : Res := issue (.orB f) s (bitOp f (· ||| ·))
/-- XOR (R138). -/
def execXor (f : F3) (s : State) : Res := issue (.xor f) s (bitOp f (· ^^^ ·))
/-- ANDN (R138). -/
def execAndn (f : F3) (s : State) : Res := issue (.andn f) s (bitOp f (fun a b => a ^^^ (a &&& b)))

/-- The shifts of R139, on w-bit values. -/
def shlBits (w a c : Nat) : Nat := if c < w then a * 2 ^ c % 2 ^ w else 0
def shrBits (w a c : Nat) : Nat := if c < w then a / 2 ^ c else 0
def sarBits (w a c : Nat) : Nat := wrapTo w (signedOf w a / (2 ^ min c w : Nat))
def rotlBits (w a c : Nat) : Nat := a * 2 ^ (c % w) % 2 ^ w + a / 2 ^ (w - c % w)

/-- A shift by the 32-bit count in B. -/
def shiftOp (f : F3) (op : Nat → Nat → Nat → Nat) (s : State) : Eff :=
  putD f f.ty.regs (fun g l => op f.ty.bits (g.aVal f f.ty.regs l) (g.bWord f l)) s

/-- SHL (R139). -/
def execShl (f : F3) (s : State) : Res := issue (.shl f) s (shiftOp f shlBits)
/-- SHR (R139). -/
def execShr (f : F3) (s : State) : Res := issue (.shr f) s (shiftOp f shrBits)
/-- SAR (R139). -/
def execSar (f : F3) (s : State) : Res := issue (.sar f) s (shiftOp f sarBits)
/-- ROTL (R139). -/
def execRotl (f : F3) (s : State) : Res := issue (.rotl f) s (shiftOp f rotlBits)

/-- The bits of a number below `w` that are one. -/
def ones (w a : Nat) : List Nat := (List.range w).filter (fun i => a.testBit i)

/-- POPC (R140). -/
def execPopc (f : F3) (s : State) : Res :=
  issue (.popc f) s (putD f 1 (fun g l => (ones f.ty.bits (g.aVal f f.ty.regs l)).length))
/-- CLZ (R140). -/
def execClz (f : F3) (s : State) : Res :=
  issue (.clz f) s (putD f 1 (fun g l =>
    match (ones f.ty.bits (g.aVal f f.ty.regs l)).getLast? with
    | some i => f.ty.bits - 1 - i
    | none => f.ty.bits))
/-- BREV (R140). -/
def execBrev (f : F3) (s : State) : Res :=
  issue (.brev f) s (putD f f.ty.regs (fun g l =>
    (ones f.ty.bits (g.aVal f f.ty.regs l)).foldl (fun x i => x + 2 ^ (f.ty.bits - 1 - i)) 0))

/-- Position and length of a bit field, limited to the width (R141). -/
def fieldOf (w b : Nat) : Nat × Nat :=
  let p := min (b % 256) w
  (p, min (b / 256 % 256) (w - p))

/-- BFX (R141). -/
def execBfx (f : F3) (s : State) : Res :=
  issue (.bfx f) s (putD f f.ty.regs (fun g l =>
    let (p, n) := fieldOf f.ty.bits (g.bWord f l)
    let x := g.aVal f f.ty.regs l / 2 ^ p % 2 ^ n
    if f.ty.signed ∧ n ≠ 0 then wrapTo f.ty.bits (signedOf n x) else x))

/-- BFI (R141). -/
def execBfi (f : F3) (s : State) : Res :=
  issue (.bfi f) s (putD f f.ty.regs (fun g l =>
    let (p, n) := fieldOf f.ty.bits (g.bWord f l)
    let x := g.xVal f f.ty.regs l
    x - x / 2 ^ p % 2 ^ n * 2 ^ p + g.aVal f f.ty.regs l % 2 ^ n * 2 ^ p))

/-- SEL (R142). -/
def execSel (f : F3) (s : State) : Res :=
  issue (.sel f) s (putD f f.ty.regs (fun g l =>
    if rdPred g f.h.y f.x.toNat l then g.aVal f f.ty.regs l else g.bVal f f.ty f.ty.regs l))

/-- MOV (R142). -/
def execMov (f : F3) (s : State) : Res := issue (.mov f) s (putD f f.ty.regs (fun g l => g.bVal f f.ty f.ty.regs l))

/-- MOVI (R143). -/
def execMovi (f : FI) (s : State) : Res :=
  issue (.movi f) s fun s => .done (putRegs f.h f.d.toNat f.ty.regs (fun _ => f.imm.toNat) s)

/-- LEA (R144). -/
def execLea (f : F3) (s : State) : Res :=
  issue (.lea f) s (putD f 2 (fun g l =>
    let b := g.rd (f.h.y || f.ub) f.b.toNat l 1
    let b : Int := if f.var.getLsbD 2 then b else signedOf 32 b
    wrapTo 64 ((g.aVal f 2 l : Int) + b * (2 ^ (f.var.toNat % 4) : Nat) + f.imm.toInt)))

/-- The sum or difference of IADDC before it is narrowed (R145). -/
def carrySum (f : F3) (g : Ctx) (l : Nat) : Int :=
  let a : Int := g.aVal f f.ty.regs l
  let b : Int := g.bVal f f.ty f.ty.regs l
  let x : Int := if rdPred g f.h.y f.x.toNat l then 1 else 0
  if f.var = 1 then a - b - x else a + b + x

/-- IADDC (R145). -/
def execIaddc (f : F3) (s : State) : Res :=
  issue (.iaddc f) s fun s =>
    let sum := carrySum f s.g
    let carry (l : Nat) : Bool := if f.var = 1 then sum l < 0 else (2 ^ f.ty.bits : Nat) ≤ sum l
    .done (putPred f.h f.x.toNat carry (putRegs f.h f.d.toNat f.ty.regs (fun l => wrapTo f.ty.bits (sum l)) s))

/-- PSET (R146). -/
def execPset (f : F3) (s : State) : Res :=
  issue (.pset f) s fun s =>
    let look (l : Nat) : Bool :=
      f.var.getLsbD (2 * (rdPred s.g f.h.y f.a.toNat l).toNat + (rdPred s.g f.h.y f.b.toNat l).toNat)
    .done (putPred f.h f.d.toNat look s)

/-- IEXT (R147). -/
def execIext (f : F3) (s : State) : Res :=
  issue (.iext f) s (putD f f.ty.regs (fun g l =>
    let src := f.src.getD .i32
    narrow f.ty (f.imm == 1) (valOf src (g.aVal f src.regs l))))

/-! ### E-blocks (R148 to R151) -/

/-- The position of a tick relative to now, for comparing ages (R221). -/
def pos (now t : Nat) : Nat := (t + 2 ^ 50 + 2 ^ 49 - now) % 2 ^ 50

/-- The count t and the age in the comparand of a waiting XACQ or MACQ (R253). -/
def Wait.count (w : Wait) : Nat := w.comparand / 2 ^ 58
def Wait.age (w : Wait) : Nat := w.comparand % 2 ^ 50
/-- The wait condition of XACQ (0) or MACQ (1). -/
def acqWait (which t age : Nat) : Wait := { kind := 7, addr := which, comparand := t * 2 ^ 58 + age }

/-- Granules a group keeps from the pool: those it holds, and those reserved for it (R148, R149). -/
def Ctx.granules (g : Ctx) : Nat := max (ceilDiv g.n 2) (ceilDiv g.rho 2)

/-- The groups on a core. -/
def State.onCore (s : State) (k : Nat) : List Ctx := s.ctxs.filter (fun g => !g.isSys && g.ids.core == k)

/-- Free granules of a core. -/
def State.freeGranules (s : State) (k : Nat) : Nat := Config.nGranules - ((s.onCore k).map Ctx.granules).sum

/-- Is `a` older than `b`: by age, then by the lower handle (R150)? -/
def older (now : Nat) (a b : Ctx) : Bool :=
  let x := pos now a.wait.age
  let y := pos now b.wait.age
  x < y || (x == y && a.handle.toNat < b.handle.toNat)

/-- The contexts waiting on a core in XACQ (0) or MACQ (1), not yet granted. -/
def State.waiters (s : State) (k which : Nat) : List Ctx :=
  (s.onCore k).filter (fun g => g.wait.kind == 7 && g.wait.addr == which && !g.wait.sat)

/-- The oldest of a list of waiters. -/
def oldest (now : Nat) : List Ctx → Option Ctx
  | [] => none
  | g :: gs =>
    match oldest now gs with
    | some h => if older now h g then some h else some g
    | none => some g

/-- Granules that a rise to t needs from the pool. -/
def Ctx.needs (g : Ctx) (t : Nat) : Nat := ceilDiv t 2 - g.granules

def Ctx.setN (g : Ctx) (t : Nat) : Ctx := { g with n := t }

/-- Can a rise to t be granted at once: from the reservation, or from the pool with nobody waiting (R149, R150)? -/
def canGrant (s : State) (t : Nat) : Bool :=
  let need := s.g.needs t
  need == 0 || ((s.waiters s.g.ids.core 0).isEmpty && need ≤ s.freeGranules s.g.ids.core)

/-- XACQ (R149, R150). -/
def execXacq (f : FS) (s : State) : Res :=
  issue (.xacq f) s fun s =>
    let t := f.imm.toNat
    if t ≤ s.g.n then .done s
    else if canGrant s t then .done (s.modG (·.setN t))
    else .park s (acqWait 0 t s.now)

/-- XACQ.TRY (R149, R150): whatever it asks for, it succeeds only when no XACQ waits on the core. -/
def execXacqTry (f : FS) (s : State) : Res :=
  issue (.xacqTry f) s fun s =>
    let t := f.imm.toNat
    if (s.waiters s.g.ids.core 0).isEmpty && (decide (t ≤ s.g.n) || canGrant s t) then
      .done (s.modG (fun g => (g.setN (max g.n t)).wrC f.d.toNat true))
    else .done (s.modG (·.wrC f.d.toNat false))

/-- Registers at or above a bound are cleared (R151). -/
def Ctx.clearFrom (g : Ctx) (b : Nat) : Ctx :=
  { g with regs := { g.regs with v := g.regs.v.keep (· < 32 * b), vp := g.regs.vp.keep (· < 32 * b) } }

/-- XREL (R149, R151): it waits for writes pending to the registers it gives up, and while one of them is locked (R212). -/
def execXrel (f : FS) (s : State) : Res :=
  issue (.xrel f) s fun s =>
    let t := f.imm.toNat
    if s.g.n ≤ t then .done s
    else
      let b := 64 + 32 * t
      let given (r : Reg) : Bool := match r with | .v i => b ≤ i | _ => false
      if s.g.pend.any (fun p => p.marks.any given) || s.g.log.any (fun e => e.state != 0 && e.locks.any given) then .stall s
      else .done (s.modG (fun g => (g.clearFrom b).setN t))

/-- The oldest waiting XACQ of a core is granted and wakes (R150). -/
def execXacqGrant (s : State) : Res :=
  let k := s.arg.id
  match oldest s.now (s.waiters k 0) with
  | none => .next s
  | some g =>
    event s (g.needs g.wait.count ≤ s.freeGranules k) fun s =>
      s.modCtx g.ids.ref (fun g => (g.setN g.wait.count).setWait { g.wait with sat := true })

/-! ### Computed register access (R152, R153) -/

/-- The check of R152 over the lanes of EXEC: the value of EVAL1 for the lowest lane that fails. -/
def ixFails (f : F3) (g : Ctx) : Option DWord :=
  ((lanes (g.exec f.h)).find? (fun l => g.bound ≤ ixIndex f g l)).map (fun l =>
    BitVec.ofNat 64 (l * 2 ^ 32 + min (ixIndex f g l) 0xFFFFFFFF))

/-- Is a write pending to any V register (R153)? -/
def Ctx.vPending (g : Ctx) : Bool := g.pend.any (fun p => p.marks.any (fun r => match r with | .v _ => true | _ => false))

/-- IXRD (R152, R153). -/
def execIxrd (f : F3) (s : State) : Res :=
  issue (.ixrd f) s fun s =>
    if s.g.vPending then .stall s
    else match ixFails f s.g with
      | some v => .trap 0x07 v
      | none => .done (putRegs f.h f.d.toNat 1 (fun l => (s.g.rdV (ixIndex f s.g l) l).toNat) s)

/-- IXWR (R152): it waits while a register that it writes is locked (R212). -/
def execIxwr (f : F3) (s : State) : Res :=
  issue (.ixwr f) s fun s =>
    match ixFails f s.g with
    | some v => .trap 0x07 v
    | none =>
      if s.g.vPending || (lanes (s.g.exec f.h)).any (fun l => s.g.locked (.v (ixIndex f s.g l))) then .stall s
      else .done (s.modG (fun g => (lanes (g.exec f.h)).foldl (fun acc l =>
        acc.wrV (ixIndex f g l) l (BitVec.ofNat 32 (g.rd f.ub f.b.toNat l 1))) g))

end Sys2Proof.Machine
end

