-- ==== Sys2Proof/Machine/Witness.lean ====
section
/-! DEFINITION. Witnesses, domains and horizons (R217 to R234) and the witness instructions (R224 to R231). -/

namespace Sys2Proof.Machine

/-! ### Domains (R218) -/

namespace Dom
/-- The domain one level out. -/
def up (d : Dom) : Dom :=
  match d.scope with
  | 1 => { scope := 2, id := d.id / 16 }
  | 2 => { scope := 3, id := d.id / 10 }
  | 3 => { scope := 4, id := 0 }
  | _ => { scope := 5, id := 0 }

/-- The domain at a scope not narrower. -/
def atScope (d : Dom) (sc : Nat) : Nat → Dom
  | 0 => d
  | n + 1 => if sc ≤ d.scope then d else atScope d.up sc n

/-- Does D contain d? -/
def contains (D d : Dom) : Bool := d.scope ≤ D.scope && d.atScope D.scope 5 == D

/-- The smallest domain that contains both. -/
def joinAux (a b : Dom) : Nat → Dom
  | 0 => { scope := 5, id := 0 }
  | n + 1 => if a.contains b then a else joinAux a.up b n

def join (a b : Dom) : Dom := joinAux a b 5
end Dom

/-! ### Witness values (R217) -/

def wScope (w : DWord) : Nat := bitsAt w.toNat 61 3
def wDom (w : DWord) : Dom := { scope := wScope w, id := bitsAt w.toNat 50 11 }
def wTick (w : DWord) : Nat := bitsAt w.toNat 0 50

def mkWit (d : Dom) (tick : Nat) : DWord := BitVec.ofNat 64 (d.scope * 2 ^ 61 + d.id * 2 ^ 50 + tick % 2 ^ 50)

/-- A valid witness: its domain id lies in its scope's range. -/
def wValid (w : DWord) : Bool :=
  match wScope w with
  | 0 => true
  | 1 => (wDom w).id < Config.nCores
  | 2 => (wDom w).id < Config.nClusters
  | 3 => (wDom w).id < Config.nDies
  | 4 | 5 => (wDom w).id == 0
  | _ => false

/-- Expired (R221). -/
def expired (now t : Nat) : Bool := 2 ^ 49 + 2 ^ 20 < pos now t

/-- MERGE (R226). -/
def mergeWit (now : Nat) (x y : DWord) : DWord :=
  let x := if wScope x ≠ 0 ∧ expired now (wTick x) then 0 else x
  let y := if wScope y ≠ 0 ∧ expired now (wTick y) then 0 else y
  if wScope x = 0 then y
  else if wScope y = 0 then x
  else mkWit ((wDom x).join (wDom y)) (if pos now (wTick x) < pos now (wTick y) then wTick y else wTick x)

/-! ### Horizons (R219, R220, R222) -/

def Acc.isWrite (a : Acc) : Bool := match a.op with | .load _ _ => false | _ => true

/-- The ticks of the writes of a domain that were outstanding at tick `t`. -/
def State.outstanding (s : State) (D : Dom) (t : Nat) : List Nat :=
  (s.accs.filter (fun a => a.isWrite && a.tick ≤ t && D.contains a.org && D.contains a.dst)).map (·.tick) ++
  (s.tiles.filter (fun w => w.phase != 2 && w.tick ≤ t && D.contains w.org && D.contains w.dst)).map (·.tick) ++
  (s.done_.filter (fun d => d.tick ≤ t && t < d.at_ && D.contains d.org && D.contains d.dst)).map (·.tick)

/-- The horizon of a domain as it stood at tick `t` (R219). -/
def State.horizonAt (s : State) (D : Dom) (t : Nat) : Nat := (s.outstanding D t).foldl min t

/-- The observed horizon (R220); SYSTEM is what the last exchange gave (R234). -/
def State.observed (s : State) (D : Dom) : Nat :=
  if D.scope = 5 then s.sysSeen else s.horizonAt D (s.clock - Config.lag D.scope)

/-- SATISFIED (R222). -/
def State.satisfied (s : State) (w : DWord) (o : Dom) : Bool :=
  wScope w == 0 || expired s.now (wTick w) ||
    pos s.now (wTick w) < pos s.now (s.observed ((wDom w).join o) % 2 ^ 50)

/-- Check a consumed witness (R217), then wait until it is satisfied (R22, KIND 0x03). -/
def awaitWit (s : State) (w : DWord) (k : State → Eff) : Eff :=
  if !wValid w then .trap 0x18 w
  else if s.satisfied w s.g.dom then k s
  else .park s { kind := 3, witness := w }

/-- Check a witness that is merged, not waited for. -/
def checkWit (w : DWord) (e : Eff) : Eff := if !wValid w then .trap 0x18 w else e

/-- Every earlier store-class instruction has formed its witness (R227). -/
def Ctx.storesFormed (g : Ctx) : Bool := !g.pend.any (·.store)

/-! ### Meanings -/

/-- WMRG (R226). Where both witnesses are invalid, EVAL1 holds the first (R217; DESIGN CHOICE, log 105). -/
def execWmrgMrg (f : F3) (s : State) : Res :=
  issue (.wmrgMrg f) s fun s =>
    let x := s.g.rdW f.a.toNat
    let y := s.g.rdW f.b.toNat
    checkWit x (checkWit y (.done (s.modG (·.wrW f.d.toNat (mergeWit s.now x y)))))
/-- WMRG.GET (R226). -/
def execWmrgGet (f : F3) (s : State) : Res :=
  issue (.wmrgGet f) s fun s => .done (s.modG (fun g => g.wrS64 f.d.toNat (g.rdW f.a.toNat)))
/-- WMRG.PUT (R226). -/
def execWmrgPut (f : F3) (s : State) : Res :=
  issue (.wmrgPut f) s fun s => .done (s.modG (fun g => g.wrW f.d.toNat (g.rdS64 f.a.toNat)))
/-- WMARK (R227). -/
def execWmark (f : F3) (s : State) : Res :=
  issue (.wmark f) s fun s => if s.g.storesFormed then .done (s.modG (fun g => g.wrW f.d.toNat g.mark)) else .stall s
/-- WWAIT (R228). -/
def execWwait (f : F3) (s : State) : Res := issue (.wwait f) s fun s => awaitWit s (s.g.rdW f.a.toNat) .done
/-- WTEST (R229). -/
def execWtest (f : F3) (s : State) : Res :=
  issue (.wtest f) s fun s =>
    let w := s.g.rdW f.a.toNat
    let b := if f.var = 0 then s.satisfied w s.g.dom else wScope w == 0 || expired s.now (wTick w)
    checkWit w (.done (s.modG (·.wrC f.d.toNat b)))
/-- WNOW (R230). -/
def execWnow (f : F3) (s : State) : Res :=
  issue (.wnow f) s fun s => .done (s.modG (fun g => g.wrW f.d.toNat (mkWit (g.dom.atScope f.var.toNat 5) s.now)))

/-- The observed horizon passes a waited witness's tick and the group wakes (R222). -/
def execWitnessSatisfiedWake (s : State) : Res :=
  match s.ctx? s.arg.c with
  | none => .next s
  | some g =>
    event s ((g.wait.kind == 3 || (g.wait.kind == 5 && g.sched.watch.isNone && !g.log.any (fun e => e.op.pend == 0 && e.state != 3))) && !g.wait.sat && s.satisfied g.wait.witness g.dom) fun s =>
      s.modCtx s.arg.c (fun g => g.setWait { g.wait with sat := true })

/-! ### The link's horizon exchange (R234) -/

/-- The value this device sends: over the package's writes and the outstanding SYSTEM-destination writes, less 8. -/
def State.horizonValue (s : State) : Nat :=
  let sys := (s.accs.filter (fun a => a.isWrite && a.dst.scope == 5)).map (·.tick) ++
    (s.tiles.filter (fun w => w.phase != 2 && w.dst.scope == 5)).map (·.tick)
  (sys.foldl min (s.horizonAt { scope := 4, id := 0 } s.clock)) - 8

/-- The SYSTEM horizon from a value of this device and the latest of each linked one; it never decreases. -/
def State.composeSys (s : State) (own : Nat) : Nat :=
  max s.sysSeen (s.peerSeen.foldl (fun m e => match e.2 with | some v => min m v.1 | none => m) own)

/-- Every 256 ticks the link engines send this device's value to every linked peer and take in theirs (R234). -/
def execHorizonExchange (s : State) : Res :=
  event s (s.lastExchange + 256 ≤ s.clock) fun s =>
    let own := s.horizonValue
    let linked := (s.peerSeen.filter (fun e => e.2.isSome && s.peerUp e.1)).map (·.1)
    { s with sysSeen := s.composeSys own, lastExchange := s.clock, sentHorizon := own
             out := s.out ++ linked.map (fun p => { kind := 10, port := p, bytes := toBytes 8 own }) }

/-- A peer's horizon value arrives: arg.id is the peer, arg.x the value (R234). -/
def execHorizonValueReceive (s : State) : Res :=
  event s (s.peerUp s.arg.id) fun s =>
    let s := { s with peerSeen := SMap.set none s.peerSeen s.arg.id (some (s.arg.x, s.clock)) }
    { s with sysSeen := s.composeSys s.sentHorizon }

end Sys2Proof.Machine
end

