-- ==== Sys2Proof/Machine/Memory.lean ====
section
/-! DEFINITION. Memory access instructions (R188 to R213): addresses and their checks, accesses in flight and their performing
(R214, R215), tiles, lock bits, atomics, the operand log, and LDW (R225). -/

namespace Sys2Proof.Machine

/-! ### Addresses (R188) and their checks (R189, R190) -/

/-- The location of an address of a scratchpad space. -/
def State.place (s : State) (g : Ctx) (sp : Space) (a : Nat) : Nat :=
  match sp with
  | .c =>
    match g.ids.ref.sysIndex with
    | some i => Loc.sys i a
    | none => Loc.core g.ids.core (((s.team? g).map (·.cbase)).getD 0 + a)
  | .k => Loc.cluster g.cluster (if g.isSys then a else ((s.gang? g).map (·.kbase)).getD 0 + a)
  | .d => Loc.die a
  | .g => a

/-- The bytes a context may address in a space (R188, R362). -/
def State.limit (s : State) (g : Ctx) (sp : Space) : Nat :=
  match sp, g.ids.ref with
  | .c, .group _ _ => ((s.team? g).map (·.csize)).getD 0
  | .c, _ => Config.sysSpad
  | .k, .group _ _ => ((s.gang? g).map (·.ksize)).getD 0
  | .k, .prefect _ => Config.clusterSpad
  | .k, _ => 0
  | .d, _ => 2 ^ 28
  | .g, _ => 2 ^ 56

/-- The effective address of a lane: exact for C, K and D, modulo 2^64 for G (R188). -/
def fmAddr (g : Ctx) (f : FM) (tile : Bool) (l : Nat) : Int :=
  let b := g.rd (f.h.y || f.ubase) f.base.toNat l (if f.space = .g then 2 else 1)
  let i : Int := if f.ix ∧ !tile then signedOf 32 (g.rd (f.h.y || f.uidx) f.index.toNat l 1) * (2 ^ f.scale.toNat : Nat) else 0
  let a := (b : Int) + i + f.off.toInt
  if f.space = .g then (wrapTo 64 a : Nat) else a

/-- Alignment, then bounds, then the region map for an access at `a` that reaches `n` bytes from `lo` (R189). -/
def State.judge (s : State) (g : Ctx) (sp : Space) (k : AccKind) (al : Nat) (a lo : Int) (n : Nat) : Option Nat :=
  if a % al ≠ 0 then some 0x13
  else if sp = .g then (if a < (2 ^ 56 : Nat) then none else some 0x12)
  else if lo < 0 ∨ (s.limit g sp : Int) < lo + n then some 0x12
  else if sp = .d then s.regionsCheck g.ids.world lo.toNat n k
  else none

/-- The checks of an access of the width in a lane, or of a whole tile with its version word (R189, R198). -/
def State.laneCheck (s : State) (g : Ctx) (f : FM) (k : AccKind) (tile : Bool) (l : Nat) : Option Nat :=
  let a := fmAddr g f tile l
  if tile then
    if f.space = .g ∧ a % 16 = 0 ∧ (a - 8) / (2 ^ 16 : Nat) ≠ (a + f.tileBytes - 1) / (2 ^ 16 : Nat) then some 0x13
    else s.judge g f.space k 16 a (a - 8) (f.tileBytes + 8)
  else s.judge g f.space k f.width.bytes a a f.width.bytes

/-- The value of EVAL for a lane's address (R189): a negative one of C, K or D is shown modulo 2^56 (DESIGN CHOICE, log 97). -/
def laneEval (l : Nat) (a : Int) : DWord := BitVec.ofNat 64 (l * 2 ^ 59 + wrapTo 56 a)

/-- The fault of the lowest failing lane. -/
def State.addrFault (s : State) (f : FM) (k : AccKind) (tile : Bool) : Option (Nat × DWord) :=
  (actLanes s.g f.h).findSome? (fun l => (s.laneCheck s.g f k tile l).map (fun c => (c, laneEval l (fmAddr s.g f tile l))))

/-- Run an access whose addresses pass the checks of R188 to R190. -/
def checked (f : FM) (k : AccKind) (tile : Bool) (s : State) (e : State → Eff) : Eff :=
  match s.addrFault f k tile with
  | some (c, v) => .trap c v
  | none => e s

/-! ### Units of access -/

/-- One lane's access of a width as units. -/
def unitsOf (w : Width) (lane addr reg data : Nat) : List LaneReq :=
  if w = .b128 then [{ lane, addr, reg, data := data % 2 ^ 64 }, { lane, addr := addr + 8, reg := reg + 2, data := data / 2 ^ 64 }]
  else [{ lane, addr, reg, data := data % 2 ^ (8 * w.bytes) }]

/-- The domain a location lies in (R194). -/
def destDom (l : Nat) : Dom :=
  if l < 2 ^ 50 then { scope := 3, id := (Config.hbmDie (l / 2 ^ 16)).val }
  else if l < 2 ^ 60 then { scope := 5, id := 0 }
  else if l < 2 ^ 61 then { scope := 1, id := (l - 2 ^ 60) / 2 ^ 22 }
  else if l < 2 ^ 62 then { scope := 2, id := (l - 2 ^ 61) / 2 ^ 23 }
  else if l < 2 ^ 63 then { scope := 3, id := (l - 2 ^ 62) / 2 ^ 25 }
  else
    let i := (l - 2 ^ 63) / 2 ^ 18
    if i < 80 then { scope := 2, id := i } else { scope := 4, id := 0 }

/-- A location on a peer device, and which. -/
def onPeer (l : Nat) : Bool := 2 ^ 56 ≤ l && l < 2 ^ 60
def peerOf (l : Nat) : Nat := (l - 2 ^ 56) / 2 ^ 48

/-- Is a location one of a peer that is not up (R445)? -/
def State.cut (s : State) (l : Nat) : Bool := onPeer l && !s.peerUp (peerOf l)

def Ctx.modPend (g : Ctx) (id : Nat) (f : Pend → Pend) : Ctx := { g with pend := g.pend.map (fun p => if p.id = id then f p else p) }

/-- Translate an address of the issuing context for one of its lanes (R208, R209): the cause on failure. A hit in the last-page register leaves the
cluster TLB alone. -/
def State.translate (s : State) (lane va : Nat) (k : AccKind) : Except Nat (State × Tr) :=
  match s.lookup s.g.lastPage lane s.g.cluster s.g.ids.asn va with
  | none => .error 0x10
  | some t =>
    match s.grants s.g.ids.world t va k with
    | some c => .error c
    | none =>
      if (s.g.lastPage.get none lane).any (·.covers s.g.ids.asn va) then .ok (s, t)
      else .ok ((s.remember s.g.cluster t).modG (fun g => { g with lastPage := SMap.set none g.lastPage lane (some t) }), t)

/-- A unit of an operation of the issuing context begins its access at a location, which translation `via` has given in G. -/
def State.addUnit (s : State) (op : MemOp) (r : LaneReq) (loc : Nat) (c : Crypt) (via : Option Tr) : State :=
  let (s, id) := s.fresh
  let g := s.g
  let dst := destDom loc
  let n := op.width.bytes
  let p := (g.pend.find? (·.id == op.pend)).getD { id := op.pend, kind := .load, marks := [] }
  let ix := p.units.length
  let what : AccOp := match op.kind with
    | .load => .load op.pend ix
    | .store => .store (toBytes n r.data) false
    | .atomic => .atomic op.pend ix n op.sub r.data r.cmp
  let elem : Elem := { lane := r.lane, addr := r.addr, reg := r.reg, width := op.width, loc }
  let upd (p : Pend) : Pend :=
    { p with units := if op.kind = .store then p.units else p.units ++ [elem]
             wit := if op.kind = .load then p.wit else mkWit ((if p.wit = 0 then g.dom else (wDom p.wit).join g.dom).join dst) s.now
             kind := if op.kind = .load ∧ onPeer loc then .peer else p.kind }
  let tiles := match op.aon with
    | some v => if s.tiles.any (·.id == op.pend) then s.tiles
                else s.tiles ++ [{ id := op.pend, ver := loc - (r.addr - v), owner := some g.ids.ref, tick := s.clock, org := g.dom, dst
                                   crypt := c, pend := op.pend }]
    | none => s.tiles
  let a : Acc := { id, owner := some g.ids.ref, seq := op.pend, op := what, loc, n, crypt := c, tick := s.clock, org := g.dom, dst, via
                   tile := if op.aon.isSome then some op.pend else none }
  { s.modG (·.modPend op.pend upd) with accs := s.accs ++ [a], tiles }

/-- A unit passes translation, or only its bound check outside G, and its access begins; the cause when translation fails. -/
def State.letIn (s : State) (op : MemOp) (r : LaneReq) : Except Nat State :=
  if op.space = .g then
    match s.translate r.lane r.addr op.kind with
    | .error c => .error c
    | .ok (s, t) => .ok (s.addUnit op r (t.loc r.addr) t.crypt (some t))
  else .ok (s.addUnit op r (s.place s.g op.space r.addr) {} none)

/-- Admit units in lane order; the answers are those that fail with their causes. -/
def State.admitAll (op : MemOp) : List LaneReq → State → State × List (LaneReq × Nat)
  | [], s => (s, [])
  | r :: rs, s =>
    match s.letIn op r with
    | .error c =>
      let (s, fs) := admitAll op rs s
      (s, (r, c) :: fs)
    | .ok s => admitAll op rs s

/-! ### Performing (R214, R215) -/

def Acc.overlaps (a : Acc) (l n : Nat) : Bool := a.loc < l + n && l < a.loc + a.n

/-- The number of the lock bit of a scratchpad location (R191): storage, bank and bit. -/
def lockKey (l : Nat) : Nat :=
  let o := Loc.offset l
  let b := ((o >>> 8) ^^^ (o >>> 12) ^^^ (o >>> 16) ^^^ (o >>> 20)) % 16
  (l - o) + o / 4 % 64 * 16 + b

/-- Is a lock bit held by another holder than a context (R191)? -/
def State.lockedFor (s : State) (c : Option CtxRef) (key : Nat) : Bool :=
  match s.locks.get none key with
  | none => false
  | some (.attached h) => some h != c
  | some (.detached _) => true

/-- May a load that waits in the operand log, and that came before result `p`, be of these bytes of G? -/
def Ctx.behindLog (g : Ctx) (p l n : Nat) : Bool :=
  g.log.any (fun e => e.op.kind == .load && e.state != 3 && e.op.pend != 0 && decide (e.op.pend < p) &&
    e.op.reqs.any (fun r => State.mayMeet l n r.addr e.op.width.bytes))

/-- What an access waits for besides the earlier accesses of its context: a peer that is not up (R445), the version word of its tile (R199), an earlier
tile write of its context over the same version word, a load before it that waits in the operand log and may be of the same bytes (R215), and for ATOMC
the lock bit of its location (R204). -/
def State.blocked (s : State) (a : Acc) : Bool :=
  s.cut a.loc ||
  (match a.op, a.owner with
   | .load p _, some c => decide (a.loc < 2 ^ 60) && ((s.known c).map (·.behindLog p a.loc a.n)).getD false
   | _, _ => false) ||
  (match a.tile with | some t => !s.tiles.any (fun w => w.id == t && w.phase == 1) | none => false) ||
  (a.owner.isSome && s.tiles.any (fun w => w.owner == a.owner && w.id < a.seq && some w.id != a.tile && a.overlaps w.ver 8)) ||
  (match a.op with
   | .atomic _ _ _ _ _ _ => (decide (2 ^ 60 ≤ a.loc ∧ a.loc < 2 ^ 61) || decide (2 ^ 63 ≤ a.loc)) && s.lockedFor a.owner (lockKey a.loc)
   | _ => false)

/-- The new value of an atomic (R203); `w` bytes. -/
def atomNew (w sub old op cmp : Nat) : Nat :=
  let b := 8 * w
  let o := signedOf b old
  let x := signedOf b op
  match sub with
  | 0 => (old + op) % 2 ^ b
  | 1 => if x < o then op else old
  | 2 => if o < x then op else old
  | 3 => min old op
  | 4 => max old op
  | 5 => old &&& op
  | 6 => old ||| op
  | 7 => old ^^^ op
  | 8 => op
  | 9 => if old = cmp then op else old
  | _ => (fvAdd { f := .f32, mode := .rn, x := 0, sat := false, ftz := false } (FV.read .f32 old) (FV.read .f32 op)).1

/-- A unit of a pending result has its data: the value and where poison was met. A saved group's result waits beside its image. -/
def State.gotUnit (s : State) (c : Option CtxRef) (pend elem v : Nat) (src : Option Nat) : State :=
  let upd (g : Ctx) : Ctx := g.modPend pend (fun p =>
    { p with units := p.units.modify elem (fun e => { e with got := some (v, src.isSome), src := src.getD 0 }) })
  match c with
  | none => s
  | some c =>
    if (s.ctx? c).isSome then s.modCtx c upd
    else { s with saved := s.saved.map (fun v => { v with ctxs := v.ctxs.map (fun (g, o) => (if g.ids.ref = c then upd g else g, o)) }) }

/-- Parked MWAITs that watch the sector of a location read again (R247). -/
def Ctx.noticed (l : Nat) (g : Ctx) : Ctx :=
  match g.sched.watch with
  | some w => if w / 32 = l / 32 then { g with sched := { g.sched with recheck := true } } else g
  | none => g

/-! ### Feed queue headers (R402) -/

/-- The header of a feed queue id. -/
def feedAt (sel : Nat) : Nat := Loc.die (sel / 256 % 8 * 2 ^ 25 + 0x1FFC000 + 64 * (sel % 256))

/-- A configured feed queue as its header gives it. -/
structure Feed where
  sel : Nat
  base : Nat
  cap : Nat
  ctrl : Nat
  head : Nat
  tail : Nat
  expired : Nat
  asn : Nat
  fails : Nat

namespace Feed
def enabled (q : Feed) : Bool := q.ctrl.testBit 0
def world (q : Feed) : Nat := q.ctrl / 256 % 256
def count (q : Feed) : Nat := (q.tail + 2 ^ 64 - q.head) % 2 ^ 64
/-- The location of record i. -/
def slot (q : Feed) (i : Nat) : Nat := Loc.die (q.sel / 256 % 8 * 2 ^ 25 + q.base + 64 * (i % q.cap))
end Feed

/-- The queue that a header configures; none when it is missing (R402). -/
def State.feed (s : State) (sel : Nat) : Option Feed :=
  let h := feedAt sel
  let r (o n : Nat) : Nat := s.mem.readN (h + o) n
  let q : Feed := { sel, base := r 0 4, cap := r 4 4, ctrl := r 8 4, head := r 0x10 8, tail := r 0x18 8, expired := r 0x20 8, asn := r 0x28 2
                    fails := r 0x30 8 }
  if 1 ≤ q.cap ∧ q.cap ≤ 65536 ∧ q.cap &&& (q.cap - 1) = 0 ∧ q.base % 64 = 0 ∧ q.base + 64 * q.cap ≤ 0x1FFC000 ∧ q.ctrl &&& 0xFFFF00FE = 0 then some q
  else none

/-- Wake a context parked at a blocking point. -/
def State.wake (s : State) (c : CtxRef) : State := s.modCtx c (fun g => g.setWait { g.wait with sat := true })

/-- The groups parked at a feed queue. -/
def State.poppers (s : State) (sel : Nat) : List Ctx := s.ctxs.filter (fun g => g.wait.kind == 2 && g.wait.addr == sel)

/-- All WPOPs parked on a queue wake (R406). -/
def State.wakePoppers (s : State) (sel : Nat) : State := ((s.poppers sel).filter (!·.wait.sat)).foldl (fun s g => s.wake g.ids.ref) s

/-- A context that waits at a feed queue, parked or stalled, finds it disabled when its instruction issues again, whatever is done to the queue before
that (R406). -/
def Ctx.turnAway (sel : Nat) (g : Ctx) : Ctx :=
  if (g.wait.kind = 2 ∧ g.wait.addr = sel) ∨ g.sched.pushes = some sel then { g with sched := { g.sched with shut := true } } else g

/-- A write to the CTRL word of a feed queue's header has performed: when it leaves the queue disabled, its waiters wake (R406). -/
def State.feedNotice (s : State) (l : Nat) : State :=
  let o := l % 2 ^ 25
  if l < Loc.die 0 ∨ 2 ^ 63 ≤ l ∨ o < 0x1FFC000 ∨ o % 64 / 8 ≠ 1 then s
  else
    let sel := l / 2 ^ 25 % 8 * 256 + (o - 0x1FFC000) / 64
    if ((s.feed sel).map (·.enabled)).getD false then s
    else ({ s with g := s.g.turnAway sel, others := s.others.map (Ctx.turnAway sel) } : State).wakePoppers sel

/-- The snoop filter sees a write to a queue's notify word (R400). -/
def State.snooped (s : State) (l : Nat) : State :=
  { s with front := { s.front with notified := (s.front.notified ++ (s.front.snoop.filter (fun e => e.2 / 8 == l / 8)).map (·.1)).eraseDups } }

/-- Who is told of a write at a location: watchers of its sector, the snoop filter, the waiters of a feed queue. -/
def State.notice (s : State) (l : Nat) : State :=
  (if s.front.snoop.isEmpty then ({ s with g := s.g.noticed l, others := s.others.map (Ctx.noticed l) } : State)
   else ({ s with g := s.g.noticed l, others := s.others.map (Ctx.noticed l) } : State).snooped l).feedNotice l

/-- A write has performed: the horizons see it later (R220), and watchers of its sector are told. -/
def State.wrote (s : State) (org dst : Dom) (tick l : Nat) : State :=
  ({ s with done_ := { org, dst, tick, at_ := s.clock } :: s.done_.filter (fun d => s.clock < d.at_ + 240) } : State).notice l

/-- The effect of an access at its instant; it leaves the list of accesses in flight. -/
def State.performOne (s : State) (a : Acc) : State :=
  let s := State.touchKey a.crypt { s with accs := s.accs.filter (fun b => b.id != a.id) }
  match a.op with
  | .load p e =>
    let (s, v, src) := s.peek a.crypt a.loc a.n
    s.gotUnit a.owner p e v src
  | .store bs bad =>
    let s := s.poke a.crypt a.loc bs
    (if bad && !s.keyless a.crypt a.loc then s.poisonRange a.loc bs.length else s).wrote a.org a.dst a.tick a.loc
  | .atomic p e w sub op cmp =>
    let (s, old, src) := s.peek a.crypt a.loc a.n
    let s := if src.isNone then s.poke a.crypt a.loc (toBytes w (atomNew w sub old op cmp))
      else if s.keyless a.crypt a.loc then s.logError 11 2 a.loc else s
    (s.wrote a.org a.dst a.tick a.loc).gotUnit a.owner p e old src

/-- Perform an access after the earlier accesses of its context or command to the same bytes (R195, R215, R304); none while one of them is blocked. -/
def State.perform : Nat → State → Nat → Option State
  | 0, _, _ => none
  | n + 1, s, id =>
    match s.accs.find? (·.id == id) with
    | none => some s
    | some a =>
      if s.blocked a || s.keyAway a.crypt then none
      else
        let before := (s.accs.takeWhile (·.id != id)).filter (fun b => b.owner == a.owner && (b.owner.isSome || b.job == a.job) && a.overlaps b.loc b.n)
        (before.foldl (fun r b => r.bind (fun s => perform n s b.id)) (some s)).map (fun s =>
          match s.accs.find? (·.id == id) with
          | some a => s.performOne a
          | none => s)

/-- Perform if nothing blocks it. -/
def State.tryPerform (s : State) (id : Nat) : State := (State.perform (s.accs.length + 1) s id).getD s

/-- Perform the accesses of a context to a range, for an access of its own that performs in the same step; none when blocked. -/
def State.settleRange (s : State) (c : CtxRef) (l n : Nat) : Option State :=
  if s.tiles.any (fun w => w.owner == some c && decide (w.ver < l + n ∧ l < w.ver + 8)) then none
  else
    ((s.accs.filter (fun a => a.owner == some c && a.overlaps l n)).foldl
      (fun r a => r.bind (fun s => State.perform (s.accs.length + 1) s a.id)) (some s))

/-- An all-at-once tile write takes its next step (R199): the version word becomes odd once it is even, and even again when every
element is written; then the witness is formed. -/
def State.tileStep (s : State) (t : TileWrite) : Option State := do
  let s ← match t.owner with
    | some _ => ((s.accs.filter (fun a => a.owner == t.owner && a.seq < t.id && a.overlaps t.ver 8)).foldl
        (fun r a => r.bind (fun s => State.perform (s.accs.length + 1) s a.id)) (some s))
    | none => some s
  let s ← if s.cut t.ver || s.keyAway t.crypt then none else some (s.touchKey t.crypt)
  let (s, v, _) := s.peek t.crypt t.ver 8
  let bump (s : State) : State := (s.poke t.crypt t.ver (toBytes 8 (v + 1))).notice t.ver
  if t.phase = 0 then
    if v % 2 = 1 ∨ s.tiles.any (fun w => w.owner.isSome && w.owner == t.owner && w.ver == t.ver && decide (w.id < t.id)) then none
    else some (bump { s with tiles := s.tiles.map (fun w => if w.id = t.id then { w with phase := 1 } else w) })
  else if s.accs.any (fun a => a.tile == some t.id) || s.cmds.any (fun c => t.job == some c.id && c.phase != 3) then none
  else
    let s := bump { s with tiles := s.tiles.filter (fun w => w.id != t.id) }
    let s := s.wrote t.org t.dst t.tick t.ver
    some (match t.owner with
      | some c => s.modCtx c (·.modPend t.pend (fun p => { p with ready := true, wit := mkWit (wDom p.wit) s.now }))
      | none =>
        { s with mxq := s.mxq.map (fun o => if t.job = some o.id then { o with phase := 3, wit := mkWit (wDom o.wit) s.now } else o)
                 cmds := s.cmds.map (fun o => if t.job = some o.id then { o with done := true, wit := mkWit (wDom o.wit) s.now } else o) })

/-- An outstanding store, atomic or engine write performs (R214), or a tile write takes its next step; arg.id names it. -/
def execStorePerform (s : State) : Res :=
  match s.tiles.find? (·.id == s.arg.id) with
  | some t => .next ((s.tileStep t).getD s)
  | none => event s (s.accs.any (fun a => a.id == s.arg.id && a.isWrite)) (·.tryPerform s.arg.id)

/-- Admit an operation, and of WDONE the status once the witness has performed (R407): the answers are the operation still to do with the
requests that fail; none when the witness cannot perform yet. -/
def State.admitOp (op : MemOp) (s : State) : Option (State × MemOp × List (LaneReq × Nat)) :=
  let (t, fs) := State.admitAll op op.reqs s
  match op.tail, fs, op.reqs with
  | some v, [], r :: _ =>
    let mine := t.accs.filter (fun a => s.nextId ≤ a.id)
    let t := mine.foldl (fun t a => t.tryPerform a.id) t
    if mine.any (fun a => t.accs.any (fun b => b.id == a.id)) then none
    else
      let op := { op with width := .b32, tail := none, reqs := [{ lane := 0, addr := r.addr + 8, reg := r.reg, data := v }] }
      let (t, fs) := State.admitAll op op.reqs t
      some (t, op, fs)
  | _, _, _ => some (t, op, fs)

/-! ### The operand log (R212, R213) -/

/-- The source registers of an instruction (R212). -/
def sourcesOf (i : Instr) : List Reg := i.shape.sources

/-- ACCESS of a FAULT record (R333). -/
def AccKind.code : AccKind → Nat
  | .load => 0
  | .store => 1
  | .atomic => 2

/-- An entry that the Prefect cannot resolve, or a WORLD_VIOL or ROSTER entry, is delivered: its pending marks clear, its completed
lanes stand, and in the final wait it escalates with the entry's PC (R213). The witness of a store of which no lane completed is that of the current
tick in its issuer's domain (DESIGN CHOICE, log 103). -/
def State.settle (s : State) (c : CtxRef) (e : LogEntry) : State :=
  let s := s.modCtx c (fun g =>
    { (g.modPend e.op.pend (fun p => { p with logged := false, ready := p.ready || (p.store && !s.tiles.any (·.id == p.id)), wit := if p.store && p.wit == 0 then mkWit g.dom s.clock else p.wit })) with
      log := g.log.map (fun x => if x.ix = e.ix then { x with state := 3, locks := [] } else x)
      wait := if e.op.pend = 0 ∧ g.wait.kind = 5 then { g.wait with sat := true } else g.wait })
  if ((s.ctx? c).map (·.sched.finalWait)).getD false then s.escalate c e.cause e.pc (BitVec.ofNat 64 e.va)
  else s.deliver c { cause := e.cause, value := e.va, level := e.level, log := some e.seq }

/-- The Prefect is asked about an absent or denied translation; other causes are delivered (R212, R213). -/
def State.announce (s : State) (c : CtxRef) (e : LogEntry) : State :=
  if e.state = 3 then s.settle c e
  else match s.ctx? c with
    | none => s
    | some g =>
      s.post g.cluster g.ids.core g.ids.slot
        { s.record g 1 with pc := e.pc, tag := e.ix, cause := e.cause, access := e.op.kind.code, value := BitVec.ofNat 64 e.va }

/-- The fields of an entry that name its failing lanes. Lanes that fail for different causes share the entry, and the cause is that of the lowest of
them (DESIGN CHOICE, log 103). -/
def LogEntry.failing (e : LogEntry) (fs : List (LaneReq × Nat)) : LogEntry :=
  let c := (fs.head?.map (·.2)).getD 0x10
  { e with cause := c, state := if c = 0x10 ∨ c = 0x11 then 1 else 3, va := (fs.head?.map (·.1.addr)).getD 0
           fmask := maskOf (fs.map (·.1.lane)), op := { e.op with reqs := fs.map (·.1) } }

/-- The failing lanes of an instruction of the issuing context enter its operand log. -/
def State.logFault (s : State) (i : Instr) (op : MemOp) (fs : List (LaneReq × Nat)) : State :=
  let g := s.g
  let ix := ((List.range 4).find? (fun k => !g.log.any (·.ix == k))).getD 0
  let e := ({ ix, seq := g.logSeq, pc := g.flow.pc, inst := encode i, op, level := g.traps.level, locks := sourcesOf i } : LogEntry).failing fs
  (s.modG (fun g => { g.modPend op.pend (fun p => { p with logged := true }) with
    log := g.log ++ [e], logSeq := (g.logSeq + 1) % 2 ^ 16 })).announce g.ids.ref e

/-- G accesses that wait at issue for the operand log (R212). -/
def Ctx.logHolds (g : Ctx) (sp : Space) (k : AccKind) : Bool :=
  sp == .g && (if k = .load then g.log.any (fun e => e.op.kind != .load) else !g.log.isEmpty)

/-- An operation of the issuing context starts: its units begin, failing lanes enter the operand log, a load from a peer parks
(R196), and a system core takes a translation fault precisely (R362). A store with no lane translated has no witness yet. -/
def startOp (i : Instr) (op : MemOp) (p : Pend) (s : State) : Eff :=
  if s.g.logHolds op.space op.kind then .stall s
  else
    let (s1, id) := s.fresh
    let op := { op with pend := id }
    match State.admitOp op (s1.modG (fun g => { g with pend := g.pend ++ [{ p with id, level := g.traps.level }] })) with
    | none => .stall s
    | some (s2, op, fs) =>
    let peer := s2.g.pend.any (fun q => q.id == id && q.kind == .peer)
    let fin (s : State) : Eff := if peer then .rest s { kind := 4, addr := id } else .done s
    match fs with
    | [] => fin s2
    | (r, c) :: _ =>
      if s.g.isSys then .trap c (BitVec.ofNat 64 r.addr)
      else if 4 ≤ s.g.log.length then .stall s
      else
        let s2 := if s2.nextId = s1.nextId then s2.modG (·.modPend id (fun p => { p with wit := 0 })) else s2
        fin (s2.logFault i op fs)

/-! ### Results reach the registers (R193, R195, R206) -/

/-- The registers of a loaded unit: extended to 32 bits, or a pair. -/
def extend (w : Width) (v : Nat) : Nat :=
  match w with
  | .i8 => wrapTo 32 (signedOf 8 v)
  | .i16 => wrapTo 32 (signedOf 16 v)
  | _ => v

/-- Write the units of a result in the lanes that live. -/
def Ctx.landUnits (g : Ctx) (p : Pend) (bad : Word) : Ctx :=
  let live (l : Nat) : Bool := p.uni || !(bit g.flow.dead l || bit bad l)
  let g := p.units.foldl (fun g e =>
    if live e.lane then g.wr p.uni e.reg e.lane e.width.regs (extend e.width ((e.got.map (·.1)).getD 0)) else g) g
  p.status.foldl (fun g (l, r, x) => if live l then g.wr p.uni r l 1 x.toNat else g) g

/-- A pending result of a context lands: registers, then the witness and the store mark (R227); lanes that receive poison die, and are delivered
with those that died at issue (R430), and poison of a uniform form escalates (R431). -/
def State.land (s : State) (c : CtxRef) (p : Pend) : State :=
  let poisoned := p.units.filter (fun e => (e.got.map (·.2)).getD false && !(bit (((s.ctx? c).map (·.flow.dead)).getD 0) e.lane && !p.uni))
  let s := s.modCtx c (fun g =>
    let g := g.landUnits p (maskOf (poisoned.map (·.lane)))
    let g := if p.store then { g.wrW p.wreg (if p.plus = 0 then p.wit else mergeWit s.now p.plus p.wit) with mark := mergeWit s.now g.mark p.wit } else g
    { g with pend := g.pend.filter (fun q => q.id != p.id) })
  let e := poisoned.headD { lane := 0, addr := 0, reg := 0, width := .i8 }
  if p.uni ∧ poisoned ≠ [] then
    (s.logError e.src 2 e.loc (((s.ctx? c).map (·.handle)).getD 0)).escalate c 0x40 (((s.ctx? c).map (·.flow.pc)).getD 0) (BitVec.ofNat 64 e.addr)
  else s.killLanes c (maskOf (poisoned.map (·.lane))) p.killed e.src p.level e.loc e.addr

/-- Every unit has its data and no lane waits in the operand log. -/
def Pend.complete (p : Pend) : Bool := !p.logged && p.units.all (fun e => e.got.isSome)

/-- Perform the loads of the units chosen by arg.nums, all of them when it is empty. -/
def State.performLoads (s : State) (p : Pend) : State :=
  (s.accs.filter (fun a => match a.op with
    | .load q e => q == p.id && (s.arg.nums.isEmpty || s.arg.nums.contains e)
    | _ => false)).foldl (fun s a => s.tryPerform a.id) s

/-- Load data returns for result arg.id of context arg.c (R195, R206). -/
def execLoadDataReturn (s : State) : Res :=
  match (s.ctx? s.arg.c).bind (fun g => g.pend.find? (fun p => p.id == s.arg.id && p.kind == .load)) with
  | none => .next s
  | some p =>
    let s := s.performLoads p
    match (s.ctx? s.arg.c).bind (fun g => g.pend.find? (·.id == p.id)) with
    | some p => .next (if p.complete then s.land s.arg.c p else s)
    | none => .next s

/-- A pending atomic result or store witness lands (R103, R194). -/
def execPendingWriteComplete (s : State) : Res :=
  match (s.ctx? s.arg.c).bind (fun g => g.pend.find? (fun p => p.id == s.arg.id && (p.kind == .witness || p.kind == .atomic))) with
  | none => .next s
  | some p => event s (p.ready && p.complete) (·.land s.arg.c p)

/-- The read of an MWAIT is replayed (R248): parked, it reads again at its blocking point; restored, it issues again from its start (R247). -/
def State.replayWatch (s : State) (l : Nat) : State :=
  s.modG (fun g =>
    if g.wait.kind = 5 then
      if g.flow.line.isSome then { g with sched := { g.sched with watch := some l, recheck := true } } else g.setWait { g.wait with sat := true }
    else g)

/-- Ready entries of a context's operand log are translated again and completed in SEQ order (R213). -/
def execOperandLogReplay (s : State) : Res :=
  match (s.ctx? s.arg.c).bind (fun g => g.log.find? (·.state == 2)) with
  | none => .next s
  | some e =>
    .next (s.via s.arg.c fun s =>
      let got :=
        if e.op.pend = 0 then
          match e.op.reqs with
          | r :: _ => (match s.translate r.lane r.addr .load with | .ok (s, t) => some (s.replayWatch (t.loc r.addr), e.op, []) | .error c => some (s, e.op, [(r, c)]))
          | [] => some (s, e.op, [])
        else State.admitOp e.op s
      match got with
      | none => s
      | some (s, _, []) => s.modG (fun g =>
          { g.modPend e.op.pend (fun p => { p with logged := false }) with
            log := g.log.filter (fun x => x.ix != e.ix) })
      | some (s, op, fs) =>
        let e := { e with op }.failing fs
        (s.modG (fun g => { g with log := g.log.map (fun x => if x.ix = e.ix then e else x) })).announce s.g.ids.ref e)

/-! ### Meanings -/

/-- The registers of a load's destination. -/
def destRegs (y : Bool) (d n : Nat) : List Reg := (List.range n).map (fun i => if y then .s (d + i) else .v (d + i))

/-- A W register named by WO. -/
def witReg (w : BitVec 4) : List Reg := if w = 15 then [] else [.w w.toNat]

/-- The operation of a load. -/
def loadOp (f : FM) (g : Ctx) : MemOp :=
  { kind := .load, space := f.space, width := f.width.unit, uni := f.h.y
    reqs := ((actLanes g f.h).map (fun l => unitsOf f.width l (fmAddr g f false l).toNat f.data.toNat 0)).flatten }

def loadPend (f : FM) (n : Nat) : Pend := { id := 0, kind := .load, marks := destRegs f.h.y f.data.toNat n, uni := f.h.y, countLd := true }

/-- A load after its checks: at most 63 are outstanding (R195); with no lane it does nothing. -/
def startLoad (i : Instr) (f : FM) (s : State) : Eff :=
  if actLanes s.g f.h = [] then .done s
  else if 63 ≤ s.g.ld then .stall s
  else startOp i (loadOp f s.g) (loadPend f f.width.regs) s

/-- LD (R193, R195, R196). -/
def execLd (f : FM) (s : State) : Res := issue (.ld f) s fun s => checked f .load false s (startLoad (.ld f) f)

/-- LDW (R225). -/
def execLdw (f : FM) (s : State) : Res :=
  issue (.ldw f) s fun s =>
    let w := s.g.rdW f.wi.toNat
    checkWit w (checked f .load false s fun s =>
      if actLanes s.g f.h = [] ∨ (f.h.y ∧ !s.g.guardC f.h) then .done s
      else if s.satisfied w s.g.dom then startLoad (.ldw f) f s
      else .park s { kind := 3, witness := w })

/-- The operation of a store. -/
def storeOp (f : FM) (g : Ctx) : MemOp :=
  { kind := .store, space := f.space, width := f.width.unit, uni := f.h.y, wo := f.wo.toNat
    reqs := ((actLanes g f.h).map (fun l =>
      unitsOf f.width l (fmAddr g f false l).toNat 0 (g.rd f.h.y f.data.toNat l f.width.regs))).flatten }

/-- A store's pending witness: at first the current tick in the origin's domain (R194). -/
def storePend (f : FM) (s : State) : Pend :=
  { id := 0, kind := .witness, marks := witReg f.wo, uni := f.h.y, wreg := f.wo.toNat, wit := mkWit s.g.dom s.clock, store := true }

/-- ST (R193, R194). -/
def execSt (f : FM) (s : State) : Res :=
  issue (.st f) s fun s => checked f .store false s fun s => startOp (.st f) (storeOp f s.g) (storePend f s) s

/-- The status of a lane of LDK, or the location of its data (R197). -/
def ldkLane (f : FM) (s : State) (l : Nat) : Except Nat State :=
  match s.laneCheck s.g f .load false l with
  | some c => .error c
  | none =>
    if f.space = .g then
      match s.translate l (fmAddr s.g f false l).toNat .load with
      | .error c => .error c
      | .ok (s, _) => .ok s
    else .ok s

/-- The statuses of the lanes of LDK, in lane order (R197). -/
def ldkCodes (f : FM) : List Nat → State → List (Nat × Nat)
  | [], _ => []
  | l :: ls, s =>
    match ldkLane f s l with
    | .error c => (l, c) :: ldkCodes f ls s
    | .ok s => (l, 0) :: ldkCodes f ls s

/-- LDK (R197): lanes that cannot load receive 0 and a status. -/
def execLdk (f : FM) (s : State) : Res :=
  issue (.ldk f) s fun s =>
    let ls := actLanes s.g f.h
    if ls = [] then .done s
    else if 63 ≤ s.g.ld then .stall s
    else
      let codes := ldkCodes f ls s
      let op := loadOp f s.g
      let good := op.reqs.filter (fun r => codes.contains (r.lane, 0))
      let st := (codes.map (fun (l, c) =>
        (if c = 0 then [] else (List.range f.width.regs).map (fun i => (l, f.data.toNat + i, (0 : Word)))) ++
        [(l, f.data.toNat + f.width.regs, BitVec.ofNat 32 c)])).flatten
      startOp (.ldk f) { op with reqs := good } { loadPend f (f.width.regs + 1) with status := st } s

/-- The units of a tile: lane l and row r at T + (32 r + l) × w (R198). -/
def tileReqs (f : FM) (g : Ctx) (store : Bool) : List LaneReq :=
  ((List.range f.rows).map (fun r => ((lanes (g.exec f.h)).map (fun l =>
    unitsOf f.width l (((fmAddr g f true l).toNat + (32 * r + l) * f.width.bytes)) (f.data.toNat + r * f.width.regs)
      (if store then g.rd false (f.data.toNat + r * f.width.regs) l f.width.regs else 0))).flatten)).flatten

/-- One attempt of TLD.VER: the version word and the tile at one instant (R200). On a peer the group parks first, for the link's round trip
(R196), and the attempt is made when it wakes (DEDUCED, log 95). -/
def tldAttempt (f : FM) (s : State) : Eff :=
  let t := (fmAddr s.g f true 0).toNat
  let lane := (lowest? (s.g.exec f.h)).getD 0
  let at_ : Except Nat (State × Nat × Crypt) :=
    if f.space = .g then
      match s.translate lane t .load with
      | .error c => .error c
      | .ok (s, tr) => .ok (s, tr.loc t, tr.crypt)
    else .ok (s, s.place s.g f.space t, {})
  match at_ with
  | .error c => .trap c (BitVec.ofNat 64 t)
  | .ok (s, l, c) =>
    let begun := s.g.wait.kind == 4 && s.g.sched.tries != 0
    let n := if begun then s.g.sched.tries else s.g.sched.tries + 1
    let count (s : State) : State := s.modG (fun g => { g with sched := { g.sched with tries := n } })
    if onPeer l ∧ !begun then
      let (s, id) := s.fresh
      .park (count (s.modG (fun g => { g with pend := g.pend ++ [{ id, kind := .peer, marks := [], countLd := true, level := g.traps.level }] })))
        { kind := 4, addr := id }
    else match s.settleRange s.g.ids.ref (l - 8) (f.tileBytes + 8) with
    | none => .stall s
    | some s =>
      let (s, v, _) := s.peek c (l - 8) 8
      if v % 2 = 1 then
        if 64 ≤ n then .trap 0x17 (BitVec.ofNat 64 t) else .stall (count s)
      else
        let (s, us) := (tileReqs f s.g false).foldl (fun (s, us) r =>
          let (s, x, src) := s.peek c (l + (r.addr - t)) f.width.unit.bytes
          (s, us ++ [({ lane := r.lane, addr := r.addr, reg := r.reg, width := f.width.unit, got := some (x, src.isSome), src := src.getD 0
                        loc := l + (r.addr - t) } : Elem)])) (s, [])
        .done (s.land s.g.ids.ref { loadPend f 0 with units := us, level := s.g.traps.level })

/-- TLD (R198, R200). -/
def execTld (f : FM) (s : State) : Res :=
  issue (.tld f) s fun s =>
    let w := s.g.rdW f.wi.toNat
    checkWit w (checked f .load true s fun s =>
      if s.g.exec f.h = 0 then .done s
      else if !s.satisfied w s.g.dom then .park s { kind := 3, witness := w }
      else if 63 ≤ s.g.ld then .stall s
      else if f.ver then (if s.g.logHolds f.space .load || (f.space == .g && s.g.behindLog s.nextId ((fmAddr s.g f true 0).toNat - 8) (f.tileBytes + 8)) then .stall s else tldAttempt f s)
      else startOp (.tld f) { loadOp f s.g with reqs := tileReqs f s.g false } (loadPend f (f.rows * f.width.regs)) s)

/-- TST (R198, R199). -/
def execTst (f : FM) (s : State) : Res :=
  issue (.tst f) s fun s => checked f .store true s fun s =>
    let aon := f.aon && s.g.exec f.h != 0
    startOp (.tst f)
      { storeOp f s.g with reqs := tileReqs f s.g true, aon := if aon then some ((fmAddr s.g f true 0).toNat - 8) else none }
      { storePend f s with ready := !aon } s

/-- The distinct lock bits of an instruction's lanes. -/
def lockKeys (f : FM) (s : State) : List Nat :=
  ((actLanes s.g f.h).map (fun l => lockKey (s.place s.g f.space (fmAddr s.g f false l).toNat))).eraseDups

/-- LDLK (R201): the whole set of lock bits or none of them, then the load. -/
def execLdlk (f : FM) (s : State) : Res :=
  issue (.ldlk f) s fun s => checked f .load false s fun s =>
    if actLanes s.g f.h = [] then .done s
    else if 63 ≤ s.g.ld then .stall s
    else
      let ks := lockKeys f s
      if ks.any (s.lockedFor (some s.g.ids.ref)) then .stall s
      else startLoad (.ldlk f) f { s with locks := ks.foldl (fun m k => SMap.set none m k (some (.attached s.g.ids.ref))) s.locks }

/-- The blocked lock set of a context is tried again (R201). -/
def execLdlkRetry (s : State) : Res :=
  event s (((s.ctx? s.arg.c).map (·.sched.stalled)).getD false) (·.modCtx s.arg.c (·.setStalled false))

/-- STUL (R202): the store performs, then the lock bits that the group holds are cleared. -/
def execStul (f : FM) (s : State) : Res :=
  issue (.stul f) s fun s => checked f .store false s fun s0 =>
    match startOp (.stul f) (storeOp f s0.g) (storePend f s0) s0 with
    | .done s =>
      let mine := s.accs.filter (fun a => s0.nextId ≤ a.id)
      let s := mine.foldl (fun s a => s.tryPerform a.id) s
      .done { s with locks := (lockKeys f s0).foldl (fun m k =>
        if m.get none k = some (.attached s.g.ids.ref) then SMap.set none m k none else m) s.locks }
    | e => e

/-- The operation of an atomic: CAS takes its comparand from the first registers (R203). -/
def atomOp (f : FM) (g : Ctx) : MemOp :=
  let n := f.width.regs
  let d := f.data.toNat
  let cas := f.sub = 9
  { kind := .atomic, space := f.space, width := f.width, uni := f.h.y, sub := f.sub.toNat, wo := f.wo.toNat
    reqs := (actLanes g f.h).map (fun l =>
      { lane := l, addr := (fmAddr g f false l).toNat, reg := d
        data := g.rd f.h.y (if cas then d + n else d) l n, cmp := if cas then g.rd f.h.y d l n else 0 }) }

/-- An atomic after its checks (R203). -/
def startAtom (i : Instr) (f : FM) (s : State) : Eff :=
  startOp i (atomOp f s.g)
    { storePend f s with kind := .atomic, marks := (if actLanes s.g f.h = [] then [] else destRegs f.h.y f.data.toNat f.width.regs) ++ witReg f.wo } s

/-- ATOM (R203, R204). -/
def execAtom (f : FM) (s : State) : Res := issue (.atom f) s fun s => checked f .atomic false s (startAtom (.atom f) f)
/-- ATOMC (R203, R204): each update waits for the lock bit of its location. -/
def execAtomc (f : FM) (s : State) : Res := issue (.atomc f) s fun s => checked f .atomic false s (startAtom (.atomc f) f)

end Sys2Proof.Machine
end

