-- ==== Sys2Proof/Machine/Sync.lean ====
section
/-! DEFINITION. Bells, MWAIT, WAIT and SLEEP (R235 to R254). -/

namespace Sys2Proof.Machine

/-! ### Bells (R235 to R243) -/

/-- A bell of the issuing group's team. -/
def State.bell (s : State) (n : Nat) : Bell := (((s.team? s.g).map (·.bells)).getD []).getD n {}

def State.setBell (s : State) (n : Nat) (b : Bell) : State :=
  s.modTeam s.g.ids.grid s.g.ids.team (fun t => { t with bells := t.bells.set n b })

/-- COMPLETE (R239): the phase witness, the late mask checks of R243, the next phase. -/
def State.completeBell (s : State) (n : Nat) (b : Bell) : State :=
  let s := b.ranked.foldl (fun s r =>
    if r.mask = b.amask then s
    else s.deliver r.c { cause := 0x41, value := r.mask.toNat * 2 ^ 32 + b.amask.toNat, level := r.level }) s
  s.setBell n { amask := 0, pwit := mergeWit s.now b.pwit b.acc, acc := 0, phase := (b.phase + 1) % 2 ^ 32, next := 0, arrived := 0
                expect := if b.next = 0 then b.expect else b.next, ranked := [] }

/-- ARRIVE (R239); BARRM leaves its mask. -/
def State.arrive (s : State) (n : Nat) (w : DWord) (mask : Option Word) : State :=
  let b := s.bell n
  let b := { b with
    acc := mergeWit s.now b.acc (mergeWit s.now s.g.mark w)
    amask := b.amask ||| maskOf [s.g.ids.gpos]
    arrived := b.arrived + 1
    ranked := match mask with
      | some m => b.ranked ++ [{ c := s.g.ids.ref, mask := m, level := s.g.traps.level }]
      | none => b.ranked }
  if b.expect ≤ b.arrived then s.completeBell n b else s.setBell n b

/-- A token is done (R240). -/
def Bell.done (b : Bell) (tok : Nat) : Bool :=
  let d := (b.phase + 2 ^ 32 - tok % 2 ^ 32) % 2 ^ 32
  1 ≤ d && d < 2 ^ 31

/-- BINIT and BINIT.NOW (R238). -/
def initBell (now : Bool) (f : FS) (s : State) : Eff :=
  let n := f.sel.toNat
  let b := s.bell n
  let c := f.imm.toNat
  if now then
    let b := { b with expect := c, next := 0 }
    .done (if c ≤ b.arrived ∧ 0 < b.arrived then s.completeBell n b else s.setBell n b)
  else if b.arrived = 0 then .done (s.setBell n { b with expect := c, next := 0 })
  else .done (s.setBell n { b with next := c })

/-- BINIT (R238). -/
def execBinit (f : FS) (s : State) : Res := issue (.binit f) s (initBell false f)
/-- BINIT.NOW (R238). -/
def execBinitNow (f : FS) (s : State) : Res := issue (.binitNow f) s (initBell true f)

/-- Wait for a token, then write the phase witness (R240). -/
def awaitBell (f : FS) (tok : Nat) (s : State) : Eff :=
  let b := s.bell f.sel.toNat
  if b.done tok then .done (s.modG (·.wrW f.d.toNat b.pwit)) else .park s { kind := 1, addr := f.sel.toNat, comparand := tok }

/-- Is the issuing group's wait at a bell over? -/
def bellOver (s : State) : Bool := s.g.wait.kind == 1 && s.g.wait.sat

/-- BARR (R239, R240). -/
def execBarr (f : FS) (s : State) : Res :=
  issue (.barr f) s fun s =>
    let w := s.g.rdW f.wf.toNat
    checkWit w (if !s.g.storesFormed then .stall s
      else .done ((s.arrive f.sel.toNat w none).modG (·.wrS f.d.toNat (BitVec.ofNat 32 (s.bell f.sel.toNat).phase))))

/-- BWAIT (R240). -/
def execBwait (f : FS) (s : State) : Res := issue (.bwait f) s fun s => awaitBell f (s.g.rdS f.a.toNat).toNat s

/-- BSYNC (R240): it arrives once, and issues again when its token is done. -/
def execBsync (f : FS) (s : State) : Res :=
  issue (.bsync f) s fun s =>
    let w := s.g.rdW f.wf.toNat
    if bellOver s then awaitBell f s.g.wait.comparand s
    else checkWit w (if !s.g.storesFormed then .stall s
      else awaitBell f (s.bell f.sel.toNat).phase (s.arrive f.sel.toNat w none))

/-- BARRM (R242, R243). -/
def execBarrm (f : FS) (s : State) : Res :=
  issue (.barrm f) s fun s =>
    let w := s.g.rdW f.wf.toNat
    let m := s.g.rdS f.a.toNat
    let b := s.bell f.sel.toNat
    if bellOver s then awaitBell f s.g.wait.comparand s
    else checkWit w (
      if !s.g.storesFormed then .stall s
      else if bit b.amask s.g.ids.gpos then .trap 0x41 (m ++ b.amask)
      else awaitBell f b.phase (s.arrive f.sel.toNat w (some m)))

/-- A waiter whose token is done is released (R239, R254). -/
def execBellWake (s : State) : Res :=
  match s.ctx? s.arg.c with
  | none => .next s
  | some g =>
    let b := (((s.team? g).map (·.bells)).getD []).getD g.wait.addr {}
    event s (g.wait.kind == 1 && !g.wait.sat && b.done g.wait.comparand) (·.modCtx s.arg.c (fun g => g.setWait { g.wait with sat := true }))

/-! ### MWAIT (R245 to R248) -/

/-- What a read of the watched word gives. -/
inductive Peeked where
  | fault (cause : Nat)
  | blocked
  | value (s : State) (v : Nat) (loc : Nat) (src : Option Nat)

/-- Read the watched word: it performs as a load of the issuing context (R246). -/
def watchRead (f : FM) (va : Nat) (s : State) : Peeked :=
  let at_ : Except Nat (State × Nat × Crypt) :=
    if f.space = .g then
      match s.translate 0 va .load with
      | .error c => .error c
      | .ok (s, t) => .ok (s, t.loc va, t.crypt)
    else .ok (s, s.place s.g f.space va, {})
  match at_ with
  | .error c => .fault c
  | .ok (s, l, c) =>
    match s.settleRange s.g.ids.ref l f.width.bytes with
    | none => .blocked
    | some s =>
      let (s, v, src) := s.peek c l f.width.bytes
      .value s v l src

/-- The re-check interval of a location (R247). -/
def recheckInterval (l : Nat) : Nat := if 2 ^ 50 ≤ l ∧ l < 2 ^ 56 then 1250 else if onPeer l then 2500 else 65536

/-- A parked MWAIT watches its location. -/
def watching (s : State) (l : Nat) : State :=
  s.modG (fun g => { g with sched := { g.sched with watch := some l, recheck := false, recheckAt := s.clock + recheckInterval l } })

/-- The read of an MWAIT that faults in translation enters the operand log (R248). -/
def mwaitFault (f : FM) (va c : Nat) (s : State) : State :=
  s.logFault (.mwait f) { kind := .load, space := .g, width := f.width, uni := true, reqs := [{ lane := 0, addr := va, reg := f.data.toNat }] }
    [({ lane := 0, addr := va, reg := f.data.toNat }, c)]

/-- MWAIT (R246, R247). A first read that faults is no blocking point: the group stays at MWAIT until the entry is replayed (R248). One that a re-read
has woken completes with the value seen there. -/
def execMwait (f : FM) (s : State) : Res :=
  issue (.mwait f) s fun s =>
    let w := s.g.rdW f.wi.toNat
    match s.g.wait.seen with
    | some v => .done (s.modG (fun g => g.wr true f.data.toNat 0 f.width.regs v))
    | none => checkWit w (checked f .load false s fun s =>
      let a := (fmAddr s.g f false 0).toNat
      let x := s.g.rd true f.data.toNat 0 f.width.regs
      let wait : Wait := { kind := 5, addr := a, comparand := x, witness := w }
      if !s.satisfied w s.g.dom then .park s wait
      else if s.g.logHolds f.space .load || s.g.log.any (fun e => e.op.pend == 0 && e.state != 3) ||
          (f.space == .g && s.g.behindLog s.nextId a f.width.bytes) then .stall s
      else match watchRead f a s with
        | .fault c =>
          if s.g.isSys then .trap c (BitVec.ofNat 64 a)
          else if 4 ≤ s.g.log.length then .stall s
          else .stall (mwaitFault f a c s)
        | .blocked => .stall s
        | .value s v l src =>
          match src with
          | some src => .lost (s.logError src 2 l s.g.handle) 0x40 (BitVec.ofNat 64 a)
          | none =>
            if v ≠ x then .done (s.modG (fun g => g.wr true f.data.toNat 0 f.width.regs v)) else .park (watching s l) wait)

/-- A context waits parked at an MWAIT that reads again when `due` says so, held or halted too: a differing word wakes it, and is not lost (R247). A
read that has faulted is replayed first (R248). -/
def recheckEvent (due : Ctx → Bool) (s : State) : Res :=
  match s.ctx? s.arg.c with
  | none => .next s
  | some g =>
    let cur := g.flow.line.bind (fun (_, d) => match decode (lineSlot d (slotIx g.flow.pc)) with | .ok (.mwait f) => some f | _ => none)
    match cur, g.sched.watch with
    | some f, some _ =>
      if g.wait.kind == 5 && !g.wait.sat && due g && !g.sched.escalated && !g.log.any (fun e => e.op.pend == 0 && e.state != 3) then
        .next (s.via s.arg.c fun s0 =>
          let x := s0.g.wait.comparand
          match watchRead f s0.g.wait.addr s0 with
          | .fault c =>
            if s0.g.isSys then s0.raise c s0.g.flow.pc (BitVec.ofNat 64 s0.g.wait.addr)
            else if 4 ≤ s0.g.log.length then s0
            else (mwaitFault f s0.g.wait.addr c s0).modG (fun g => { g with sched := { g.sched with recheck := false } })
          | .blocked => s0
          | .value s v l src =>
            match src with
            | some src => (s.logError src 2 l s0.g.handle).escalate s0.g.ids.ref 0x40 s0.g.flow.pc (BitVec.ofNat 64 s0.g.wait.addr)
            | none =>
              if v = x then watching s l
              else s.modG (fun g => { g with wait := { g.wait with sat := true, seen := some v }, sched := { g.sched with watch := none, recheck := false } }))
      else .next s
    | _, _ => .next s

/-- A write to the watched sector has performed (R247). -/
def execMwaitRecheck (s : State) : Res := recheckEvent (·.sched.recheck) s
/-- The interval has passed without one (R247). -/
def execMwaitIntervalExpiry (s : State) : Res := recheckEvent (fun g => g.sched.recheckAt ≤ s.clock) s

/-! ### WAIT and SLEEP -/

/-- WAIT (R249, R250). -/
def execWait (f : FS) (s : State) : Res :=
  issue (.wait f) s fun s =>
    let lim := f.imm.toNat
    let g := s.g
    if g.ld ≤ bitsAt lim 0 6 ∧ g.cmds.cp ≤ bitsAt lim 8 5 ∧ g.cmds.mx ≤ bitsAt lim 16 5 ∧ g.cmds.sc ≤ bitsAt lim 24 4 then .done s
    else .stall s

/-- A wake tick is reached (R252). -/
def tickReached (now wake : Nat) : Bool := decide ((now + 2 ^ 50 - wake % 2 ^ 50) % 2 ^ 50 < 2 ^ 49)

/-- SLEEP (R252): always a blocking point, at which a pending expiry acts. -/
def execSleep (f : FS) (s : State) : Res :=
  issue (.sleep f) s fun s =>
    if s.g.wait.kind = 10 ∧ s.g.wait.sat then .done s
    else
      let wake := if f.var8 = 0 then (s.now + f.imm.toNat) % 2 ^ 50 else (s.g.rdS64 f.a.toNat).toNat % 2 ^ 50
      if tickReached s.now wake ∧ !s.g.sched.expiry then .done s else .park s { kind := 10, comparand := wake }

/-- A sleeping context wakes (R252). -/
def execSleepWake (s : State) : Res :=
  match s.ctx? s.arg.c with
  | none => .next s
  | some g =>
    event s (g.wait.kind == 10 && !g.wait.sat && tickReached s.now g.wait.comparand)
      (·.modCtx s.arg.c (fun g => g.setWait { g.wait with sat := true }))

end Sys2Proof.Machine
end

