-- ==== Sys2Proof/Machine/VFloat.lean ====
section
/-! DEFINITION. Vector floating-point and conversion instructions (R154 to R175). -/

namespace Sys2Proof.Machine

/-- Does GMODE.FTZ act on a type (R75)? -/
def ftzOn (g : Ctx) (t : Ty) : Bool := g.gmode.getLsbD 0 && (t == .f16 || t == .bf16 || t == .f32)

/-- An operand of a float type: its bits, flushed under FTZ, and its value (R75, R160). -/
def opF (g : Ctx) (t : Ty) (x : Nat) : Nat × FV :=
  let f := fmtOf t
  let v := FV.read f x
  if ftzOn g t && v.flush f != v then (withSign f v.isNeg 0, v.flush f) else (x % 2 ^ (f.signBit + 1), v)

/-- How results of a type are rounded in a lane. -/
def ctlOf (g : Ctx) (f : F3) (t : Ty) (l : Nat) (j : Nat := 0) : RoundCtl :=
  { f := fmtOf t, mode := f.rnd, x := draw g f.h.y j l, ftz := ftzOn g t }

/-- OR flags into GSTAT (R157, R158). -/
def State.raiseFlags (s : State) (fl : Nat) : State := s.modG (fun g => { g with gstat := g.gstat ||| BitVec.ofNat 32 fl })

/-- The flags of the acting lanes together. -/
def orFlags (ls : List Nat) (fl : Nat → Nat) : Nat := ls.foldl (fun a l => a ||| fl l) 0

/-- Write float results and raise their flags. -/
def floatD (f : F3) (n : Nat) (fn : Ctx → Nat → Nat × Nat) (s : State) : Eff :=
  .done ((putRegs f.h f.d.toNat n (fun l => (fn s.g l).1) s).raiseFlags (orFlags (actLanes s.g f.h) (fun l => (fn s.g l).2)))

/-- A, B and X of the instruction's type. -/
def aF (f : F3) (g : Ctx) (l : Nat) : FV := (opF g f.ty (g.aVal f f.ty.regs l)).2
def bF (f : F3) (g : Ctx) (l : Nat) : FV := (opF g f.ty (g.bVal f f.ty f.ty.regs l)).2
def xF (f : F3) (g : Ctx) (l : Nat) : FV := (opF g f.ty (g.xVal f f.ty.regs l)).2

/-- A one-operand function rounded to the type. -/
def unaryF (f : F3) (fn : RoundCtl → FV → Nat × Nat) (s : State) : Eff :=
  floatD f f.ty.regs (fun g l => fn (ctlOf g f f.ty l) (aF f g l)) s

/-- FADD (R161). -/
def execFadd (f : F3) (s : State) : Res :=
  issue (.fadd f) s (floatD f f.ty.regs (fun g l => fvAdd (ctlOf g f f.ty l) (aF f g l) (bF f g l)))
/-- FSUB (R161). -/
def execFsub (f : F3) (s : State) : Res :=
  issue (.fsub f) s (floatD f f.ty.regs (fun g l => fvAdd (ctlOf g f f.ty l) (aF f g l) (bF f g l).neg))
/-- FMUL (R161). -/
def execFmul (f : F3) (s : State) : Res :=
  issue (.fmul f) s (floatD f f.ty.regs (fun g l =>
    let c := ctlOf g f f.ty l
    match fvMul (aF f g l) (bF f g l) with
    | none => c.nan true
    | some p => c.of p))
/-- FFMA (R161). -/
def execFfma (f : F3) (s : State) : Res :=
  issue (.ffma f) s (floatD f f.ty.regs (fun g l => fvFma (ctlOf g f f.ty l) (aF f g l) (bF f g l) (xF f g l)))

/-- FMIN and FMAX on operands of the type (R165). -/
def minMaxF (f : F3) (lo : Bool) (s : State) : Eff :=
  floatD f f.ty.regs (fun g l =>
    fvMinMax (fmtOf f.ty) lo (f.var == 1) (opF g f.ty (g.aVal f f.ty.regs l)) (opF g f.ty (g.bVal f f.ty f.ty.regs l))) s

/-- FMIN (R165). -/
def execFmin (f : F3) (s : State) : Res := issue (.fmin f) s (minMaxF f true)
/-- FMAX (R165). -/
def execFmax (f : F3) (s : State) : Res := issue (.fmax f) s (minMaxF f false)

/-- The conditions of FCMP and whether IV is raised (R166). -/
def floatCond (k : Nat) (a b : FV) : Bool × Bool :=
  let un := a.isNan || b.isNan
  let sg := a.isSig || b.isSig
  match k with
  | 0 => (fvEq a b, sg)
  | 1 => (!fvEq a b, sg)
  | 2 => (fvLt a b, un)
  | 3 => (fvLt a b || fvEq a b, un)
  | 4 => (fvLt b a, un)
  | 5 => (fvLt b a || fvEq a b, un)
  | 6 => (un, sg)
  | _ => (!un, sg)

/-- FCMP (R166). -/
def execFcmp (f : F3) (s : State) : Res :=
  issue (.fcmp f) s fun s =>
    let c (l : Nat) : Bool × Bool := floatCond (f.var.toNat % 8) (aF f s.g l) (bF f s.g l)
    .done ((putPred f.h f.d.toNat (fun l => combine f s.g l (c l).1) s).raiseFlags
      (orFlags (actLanes s.g f.h) (fun l => if (c l).2 then fIV else 0)))

/-- FDIV (R162). -/
def execFdiv (f : F3) (s : State) : Res :=
  issue (.fdiv f) s (floatD f f.ty.regs (fun g l => fvDiv (ctlOf g f f.ty l) (aF f g l) (bF f g l)))
/-- FSQRT (R162). -/
def execFsqrt (f : F3) (s : State) : Res := issue (.fsqrt f) s (unaryF f fvSqrt)
/-- FRCP (R163). -/
def execFrcp (f : F3) (s : State) : Res := issue (.frcp f) s (unaryF f (fun c a => fvDiv c (.fin false 1 0) a))
/-- FRSQ (R163). -/
def execFrsq (f : F3) (s : State) : Res := issue (.frsq f) s (unaryF f fvRsqrt)
/-- FEX2 (R163). -/
def execFex2 (f : F3) (s : State) : Res := issue (.fex2 f) s (unaryF f fvExp2)
/-- FLG2 (R163). -/
def execFlg2 (f : F3) (s : State) : Res := issue (.flg2 f) s (unaryF f fvLog2)
/-- FTANH (R163). -/
def execFtanh (f : F3) (s : State) : Res := issue (.ftanh f) s (unaryF f fvTanh)
/-- FSIN (R163). -/
def execFsin (f : F3) (s : State) : Res := issue (.fsin f) s (unaryF f (fvTrig · false))
/-- FCOS (R163). -/
def execFcos (f : F3) (s : State) : Res := issue (.fcos f) s (unaryF f (fvTrig · true))

/-- FSCL (R164). -/
def execFscl (f : F3) (s : State) : Res :=
  issue (.fscl f) s (floatD f f.ty.regs (fun g l =>
    let c := ctlOf g f f.ty l
    match aF f g l with
    | .fin n m e => c.exact n m (e + signedOf 32 (g.bWord f l))
    | v => c.of v))

/-- The class word's bit (R168). -/
def classBit (f : Fmt) (v : FV) : Nat :=
  match v with
  | .nan sig => if sig then 0 else 1
  | .inf n => if n then 2 else 9
  | .fin n m e =>
    let sub := m < 2 ^ f.fb ∧ e = f.emin - f.fb
    if m = 0 then (if n then 5 else 6) else if sub then (if n then 4 else 7) else (if n then 3 else 8)

/-- FCLS (R168). -/
def execFcls (f : F3) (s : State) : Res :=
  issue (.fcls f) s fun s =>
    let k (l : Nat) : Nat := classBit (fmtOf f.ty) (FV.read (fmtOf f.ty) (s.g.aVal f f.ty.regs l))
    if f.var = 1 then .done (putPred f.h f.d.toNat (fun l => f.imm.getLsbD (k l)) s)
    else .done (putRegs f.h f.d.toNat 1 (fun l => 2 ^ k l) s)

/-- FCVT of one value (R170). -/
def convert (c : RoundCtl) (v : FV) : Nat × Nat :=
  match v with
  | .inf n => c.inf n (if c.f.e4m3 then fIV else 0)
  | v => c.of v

/-- FCVT (R170). -/
def execFcvt (f : F3) (s : State) : Res :=
  issue (.fcvt f) s (floatD f f.ty.regs (fun g l =>
    let src := f.src.getD .f32
    convert { ctlOf g f f.ty l with sat := f.imm == 1 } (opF g src (g.aVal f src.regs l)).2))

/-- ICVF (R171). -/
def execIcvf (f : F3) (s : State) : Res :=
  issue (.icvf f) s (floatD f f.ty.regs (fun g l =>
    let src := f.src.getD .i32
    let i := valOf src (g.aVal f src.regs l)
    (ctlOf g f f.ty l).exact (i < 0) i.natAbs 0))

/-- A value converted to an integer type (R172). -/
def toInt (t : Ty) (mode : Rnd) (v : FV) : Nat × Nat :=
  match v with
  | .nan _ => (0, fIV)
  | .inf n => (wrapTo t.bits (if n then tyMin t else tyMax t), fIV)
  | .fin n m e =>
    if (ilog2 m : Int) + e > 70 ∧ m ≠ 0 then (wrapTo t.bits (if n then tyMin t else tyMax t), fIV)
    else
      let (k, exact) := toIntegral mode n m e
      let i : Int := if n then -(k : Int) else k
      if i < tyMin t ∨ tyMax t < i then (wrapTo t.bits (if n then tyMin t else tyMax t), fIV)
      else (wrapTo t.bits i, if exact then 0 else fNX)

/-- FCVI (R172). -/
def execFcvi (f : F3) (s : State) : Res :=
  issue (.fcvi f) s (floatD f f.ty.regs (fun g l =>
    let src := f.src.getD .f32
    toInt f.ty f.rnd (opF g src (g.aVal f src.regs l)).2))

/-- The block that a lane packs: element field, scale, flags (R174). -/
def packLane (f : F3) (g : Ctx) (l : Nat) : Nat × Nat × Nat :=
  let src := f.src.getD .f32
  let vs := (List.range f.ty.blockElems).map (fun i => (opF g src (g.rdV (f.a.toNat + i) l).toNat).2)
  packBlock f.ty f.rnd (fun j => draw g false j l) vs

/-- FPACK (R174). -/
def execFpack (f : F3) (s : State) : Res :=
  issue (.fpack f) s fun s =>
    let t := putRegs f.h f.d.toNat f.ty.blockRegs (fun l => (packLane f s.g l).1) s
    let t := putRegs f.h f.x.toNat 1 (fun l => (packLane f s.g l).2.1) t
    .done (t.raiseFlags (orFlags (actLanes s.g f.h) (fun l => (packLane f s.g l).2.2)))

/-- The elements that a lane unpacks, with flags (R175). -/
def unpackLane (f : F3) (g : Ctx) (l : Nat) : List (Nat × Nat) :=
  let src := f.src.getD .sx4
  let field := g.rd false f.a.toNat l src.blockRegs
  let sc := g.rd f.ub f.b.toNat l 1
  (List.range src.blockElems).map (fun i => (ctlOf g f f.ty l).of (blockElem src field sc i))

/-- FUNPK (R175). -/
def execFunpk (f : F3) (s : State) : Res :=
  issue (.funpk f) s fun s =>
    let n := (f.src.getD .sx4).blockElems
    let t := putRegs f.h f.d.toNat n (fun l => ((unpackLane f s.g l).map (·.1)).foldr (fun x a => x + 2 ^ 32 * a) 0) s
    .done (t.raiseFlags (orFlags (actLanes s.g f.h) (fun l => (unpackLane f s.g l).foldl (fun a e => a ||| e.2) 0)))

/-- The exact sum of FDOT2: two products and X (R169). -/
def dot2 (c : RoundCtl) (a0 b0 a1 b1 x : FV) : Nat × Nat :=
  let sig := a0.isSig || b0.isSig || a1.isSig || b1.isSig || x.isSig
  match fvMul a0 b0, fvMul a1 b1 with
  | some p, some q =>
    let infs := [p, q, x].filter (fun v => match v with | .inf _ => true | _ => false)
    if infs.any (·.isNeg) && infs.any (fun v => !v.isNeg) then c.nan true
    else if p.isNan || q.isNan || x.isNan then c.nan sig
    else match infs with
      | v :: _ => c.inf v.isNeg
      | [] =>
        match p, q, x with
        | .fin n m e, .fin n' m' e', .fin n'' m'' e'' =>
          let k := min e (min e' e'')
          let t := alignTo n m e k + alignTo n' m' e' k + alignTo n'' m'' e'' k
          let same := if m = 0 ∧ m' = 0 ∧ m'' = 0 ∧ n = n' ∧ n = n'' then some n else none
          if t = 0 then (withSign c.f (zeroSign c.mode same) 0, 0) else c.exact (t < 0) t.natAbs k
        | _, _, _ => c.nan true
  | _, _ => c.nan true

/-- FDOT2 (R169). -/
def execFdot2 (f : F3) (s : State) : Res :=
  issue (.fdot2 f) s (floatD f 1 (fun g l =>
    let a := g.aVal f 1 l
    let b := g.rd f.ub f.b.toNat l 1
    let v (x : Nat) : FV := (opF g f.ty x).2
    dot2 (ctlOf g f .f32 l) (v (a % 2 ^ 16)) (v (b % 2 ^ 16)) (v (a / 2 ^ 16)) (v (b / 2 ^ 16)) (opF g .f32 (g.xVal f 1 l)).2))

/-- FRND (R167). -/
def execFrnd (f : F3) (s : State) : Res :=
  issue (.frnd f) s (unaryF f (fun c a =>
    match a with
    | .fin n m e => if 0 ≤ e then c.exact n m e else (c.exact n (toIntegral c.mode n m e).1 0)
    | v => c.of v))

/-- FCLAMP (R165): min(max(A, B), X), NaN only for a NaN in A. -/
def clampF (fm : Fmt) (a b x : Nat × FV) : Nat × Nat :=
  let iv := if a.2.isSig || b.2.isSig || x.2.isSig then fIV else 0
  if a.2.isNan then (fm.nanBits, iv)
  else
    let m := if b.2.isNan then a else if fvBelow a.2 b.2 then b else a
    (if x.2.isNan then m.1 else if fvBelow x.2 m.2 then x.1 else m.1, iv)

/-- FCLAMP (R165). -/
def execFclamp (f : F3) (s : State) : Res :=
  issue (.fclamp f) s (floatD f f.ty.regs (fun g l =>
    clampF (fmtOf f.ty) (opF g f.ty (g.aVal f f.ty.regs l)) (opF g f.ty (g.bVal f f.ty f.ty.regs l))
      (opF g f.ty (g.xVal f f.ty.regs l))))

end Sys2Proof.Machine
end

