-- ==== Sys2Proof/Machine/Matrix.lean ====
section
/-! DEFINITION. The matrix engine (R255 to R283): tiles, engine order, passes and their sums (R89 to R96), checksums, raw moves, tables
and drains. -/

namespace Sys2Proof.Machine

/-! ### Exact values -/

/-- The exact sum of two values, with the specials of IEEE 754. -/
def exAdd (a b : FV) : FV :=
  match a, b with
  | .nan s, _ => .nan s
  | _, .nan s => .nan s
  | .inf n, .inf n' => if n = n' then .inf n else .nan false
  | .inf n, _ => .inf n
  | _, .inf n => .inf n
  | .fin n m e, .fin n' m' e' =>
    let k := min e e'
    let t := alignTo n m e k + alignTo n' m' e' k
    if t = 0 then .fin (n && n') 0 k else .fin (t < 0) t.natAbs k

/-- The exact product; an infinity times a zero is a NaN. -/
def exMul (a b : FV) : FV := (fvMul a b).getD (.nan false)

def FV.abs : FV → FV
  | .nan s => .nan s
  | .inf _ => .inf false
  | .fin _ m e => .fin false m e

def FV.special : FV → Bool
  | .fin _ _ _ => false
  | _ => true

def exSum (vs : List FV) : FV := vs.foldl exAdd (.fin false 0 0)

/-- One rounding to binary64 (R77). -/
def rn64 (v : FV) : Nat := (RoundCtl.of { f := .f64 } v).1
def rd64 (x : Nat) : FV := FV.read .f64 x
/-- IEEE addition of binary64 values. -/
def add64 (a b : Nat) : Nat := (fvAdd { f := .f64 } (rd64 a) (rd64 b)).1

/-- 1.0 and the canonical NaN of binary64 (R74). -/
def one64 : DWord := 0x3FF0000000000000
def nan64 : DWord := 0x7FF8000000000000

/-! ### Operand formats (R51, R89 to R91, R265) -/

/-- The storage bits of an element. -/
def storeBits (t : Ty) : Nat := if t.isMX || t.isSX then elemBits t else t.bits

/-- K of a format's own class (R91). -/
def kClass : MFmt → Nat
  | .bf16 | .f16 | .f32 => 32
  | .mxe3m2 | .mxe2m3 | .mxe2m1 | .i4 | .sx2 | .sx4 => 128
  | _ => 64

namespace Mma
/-- K of a pass: that of the slower format (R91). -/
def k (m : Mma) : Nat := min (kClass m.fa) (kClass m.fb)
/-- Step bytes of each side (R265). -/
def stepA (m : Mma) : Nat := m.k * storeBits m.fa.ty / 8
def stepB (m : Mma) : Nat := m.k * storeBits m.fb.ty / 8
/-- The scale of column c (R266). -/
def colScale (m : Mma) (c : Nat) : Nat :=
  let w := m.bscale.getD (c / 4) 0
  if m.fb.ty.isMX then bitsAt w (8 * (c % 4)) 8 else bitsAt w (if m.bsel then 16 else 0) 16
end Mma

/-- The XF parts of an F32 operand (R90). -/
def splitF32 (v : FV) : List FV :=
  match v with
  | .fin n m e =>
    let sh := ilog2 m + 1 - 12
    [.fin n (m / 2 ^ sh * 2 ^ sh) e, .fin n (m % 2 ^ sh) e]
  | v => [v, .fin false 0 0]

/-- Element i of a run of bytes as its XF parts (R89, R90). -/
def elemXF (f : MFmt) (run scale i : Nat) : List FV :=
  let t := f.ty
  let w := storeBits t
  let x := run / 2 ^ (w * i) % 2 ^ w
  if f.scaled then
    let b := t.blockElems
    [blockElem t (run / 2 ^ (w * (i / b * b))) scale (i % b)]
  else match f with
  | .i8 | .i4 => let v := signedOf w x; [.fin (v < 0) v.natAbs 0]
  | .f32 => splitF32 (FV.read .f32 x)
  | _ => [FV.read (fmtOf t) x]

/-- The value an element's parts stand for. -/
def xfValue (ps : List FV) : FV :=
  match ps with
  | [v] => v
  | v :: w :: _ => if v.special then v else exAdd v w
  | [] => .fin false 0 0

/-- A dot group: d of R92 and R94. -/
def dotGroup (a b : List (List FV)) : Nat :=
  let ps := ((a.zip b).map (fun (xs, ys) => (xs.map (fun x => ys.map (exMul x))).flatten)).flatten
  let infs := ps.filter (fun v => match v with | .inf _ => true | _ => false)
  if ps.any FV.isNan || (infs.any (·.isNeg) && infs.any (fun v => !v.isNeg)) then nan64.toNat
  else match infs with
    | v :: _ => rn64 v
    | [] =>
      match maxLog ps with
      | none => 0
      | some top =>
        let q := top - 80
        let t := ps.foldl (fun acc v => match v with
          | .fin n m e =>
            let x : Int := if q ≤ e then m * 2 ^ (e - q).toNat else m / 2 ^ (q - e).toNat
            if n then acc - x else acc + x
          | _ => acc) (0 : Int)
        rn64 (.fin (t < 0) t.natAbs q)

/-! ### Tiles (R257, R258, R262) -/

/-- Tile h of a team. -/
def State.tile (s : State) (grid team h : Nat) : Tile :=
  (((s.teams.find? (fun t => t.grid == grid && t.team == team)).map (·.tiles)).getD []).getD h {}

def State.modTile (s : State) (grid team h : Nat) (f : Tile → Tile) : State :=
  s.modTeam grid team (fun t => { t with tiles := t.tiles.modify h f })

namespace Tile
def cAt (t : Tile) (r c : Nat) : Nat := (t.c.get 0 (32 * r + c)).toNat
/-- G reads as 1.0 in sum mode (R97). -/
def gAt (t : Tile) (r c : Nat) : Nat := if t.aff then (t.g.get 0 (32 * r + c)).toNat else one64.toNat
def bad (t : Tile) (r c : Nat) : Bool := t.pois.get false (32 * r + c)
def setBad (t : Tile) (r c : Nat) (b : Bool) : Tile := { t with pois := SMap.set false t.pois (32 * r + c) b }
def setC (t : Tile) (r c x : Nat) : Tile := { t with c := SMap.set 0 t.c (32 * r + c) (BitVec.ofNat 64 x) }

/-- MZERO (R262). -/
def zeroed (t : Tile) : Tile :=
  { t with g := SMap.ofFn 0 2048 (fun _ => one64), c := [], pois := [], ckp := [], pr := [], mr := [], pc := [], mc := [], exact := true }

/-- The C values of a row or of a column. -/
def rowC (t : Tile) (r : Nat) : List FV := (List.range 32).map (fun c => rd64 (t.cAt r c))
def colC (t : Tile) (c : Nat) : List FV := (List.range 64).map (fun r => rd64 (t.cAt r c))

/-- Every P and M from the present C values (R278, R293). -/
def resum (t : Tile) : Tile :=
  let put (n : Nat) (vs : Nat → List FV) : SMap DWord := SMap.ofFn 0 n (fun i => BitVec.ofNat 64 (rn64 (exSum (vs i))))
  { t with
    ckp := [], pr := put 64 t.rowC
    mr := put 64 (fun r => (t.rowC r).map FV.abs)
    pc := put 32 t.colC
    mc := put 32 (fun c => (t.colC c).map FV.abs) }

/-- Is a checksum pair poisoned? `k`: the unit of its P. -/
def ckBad (t : Tile) (k : Nat) : Bool := t.ckp.get false k || t.ckp.get false (k + 1)

/-- Does an entry fail the comparison of R279? One whose checksum is poisoned is skipped, as one with a poisoned element is (DESIGN CHOICE, log 96). -/
def entryFails (t : Tile) (vs : List FV) (bad : Bool) (p m : DWord) : Bool :=
  let sum := exSum vs
  let p := rd64 p.toNat
  let m := rd64 m.toNat
  if bad || sum.special || p.special then false
  else
    let d := exAdd sum p.neg
    if t.exact && !t.aff then !d.isZero
    else match d.abs with
      | .fin n k e => !m.special && fvLt m (.fin n k (e + 30))
      | _ => false

def failRows (t : Tile) : List Nat :=
  (List.range 64).filter (fun r => t.entryFails (t.rowC r) ((List.range 32).any (t.bad r) || t.ckBad (2 * r)) (t.pr.get 0 r) (t.mr.get 0 r))
def failCols (t : Tile) : List Nat :=
  (List.range 32).filter (fun c => t.entryFails (t.colC c) ((List.range 64).any (t.bad · c) || t.ckBad (128 + 2 * c)) (t.pc.get 0 c) (t.mc.get 0 c))

/-- The checksum test (R279): EVAL of a failure. -/
def check (t : Tile) (h : Nat) : Option DWord :=
  let rs := t.failRows
  let cs := t.failCols
  if rs.isEmpty && cs.isEmpty then none
  else
    let part (l : List Nat) (flag at_ : Nat) : Nat := match l with | x :: _ => 2 ^ flag + x * 2 ^ at_ | [] => 0
    some (BitVec.ofNat 64 (2 * 2 ^ 56 + h * 2 ^ 48 + part rs 47 40 + part cs 39 32 + rs.length * 256 + cs.length))
end Tile

/-! ### Engine order (R256) -/

/-- Does an operation work on a tile of a team? -/
def MxOp.on (o : MxOp) (grid team h : Nat) : Bool := o.grid == grid && o.team == team && o.tile == h

/-- An operation that no longer reads or writes its tile: only its writes to memory remain. -/
def MxOp.past (o : MxOp) : Bool := o.phase == 1 || o.phase == 3 || o.phase == 4

/-- A matrix instruction that names a tile enters the engine order: the open candidates of its team learn of it (R269). -/
def State.named (s : State) (g : Ctx) (h : Nat) : State :=
  let ours (c : Cand) : Bool := s.mxq.any (fun o => c.mmas.contains o.id && o.grid == g.ids.grid && o.team == g.ids.team)
  { s with cands := s.cands.map (fun c => if c.core = g.ids.core ∧ !c.closed ∧ ours c then { c with since := h :: c.since } else c) }

/-- A non-pass operation of the issuing group enters the engine order. -/
def State.enter (s : State) (h : Nat) (what : MxWhat) (counted : Bool := true) (wreg : Nat := 15) : State :=
  let (s, id) := s.fresh
  let g := s.g
  let s := s.named g h
  let o : MxOp := { id, c := g.ids.ref, grid := g.ids.grid, team := g.ids.team, core := g.ids.core, tile := h, cls := g.mclass
                    level := g.traps.level, what, counted, wreg }
  { s.modG (fun g => { g with cmds := { g.cmds with mx := if counted then g.cmds.mx + 1 else g.cmds.mx }
                              pend := if wreg = 15 then g.pend
                                      else g.pend ++ [{ id, kind := .witness, marks := [.w wreg], wreg, ready := false, level := g.traps.level }] }) with
    mxq := s.mxq ++ [o] }

/-- An instruction that counts in MX waits at issue at the limit (R249). -/
def mxRoom (s : State) (k : State → Eff) : Eff := if 31 ≤ s.g.cmds.mx then .stall s else k s

/-- An operation retires: the MX counter falls. -/
def State.mxRetire (s : State) (o : MxOp) : State :=
  let s := { s with mxq := s.mxq.filter (fun x => x.id != o.id) }
  if o.counted then s.modCtx o.c (fun g => { g with cmds := { g.cmds with mx := g.cmds.mx - 1 } }) else s

/-- The grid's completion witness covers a reply witness or a store mark (R392). -/
def State.gridCovers (s : State) (gid : Nat) (w : DWord) : State :=
  { s with grids := s.grids.map (fun x => if x.gid = gid then { x with wit := mergeWit s.now x.wit w } else x) }

/-- The reply of an operation: its register, its counter, its grid. -/
def State.mxReply (s : State) (o : MxOp) (w : DWord) : State :=
  ((s.mxRetire o).modCtx o.c (fun g => { g.wrW o.wreg w with pend := g.pend.filter (fun p => p.id != o.id) })).gridCovers o.grid w

/-- An operation ends with an engine fault, which is delivered in engine order (R277). -/
def State.mxFault (s : State) (o : MxOp) (cause va : Nat) : State :=
  { s with mxq := s.mxq.map (fun x => if x.id = o.id then { x with phase := 4, cause, va } else x) }

/-- Is an engine fault the next of its group in engine order: no earlier drain of the group may still fault? -/
def State.faultNext (s : State) (o : MxOp) : Bool :=
  !s.mxq.any (fun x => x.c == o.c && decide (x.id < o.id) && (match x.what with | .drain _ => !(x.phase == 1 || x.phase == 3) | _ => false))

/-- Is it an operation's turn: nothing earlier in the order still works on its tile (R256)? `with_` are operations of its own pass. -/
def State.turn (s : State) (o : MxOp) (with_ : List Nat := []) : Bool :=
  !s.mxq.any (fun x => decide (x.id < o.id) && x.on o.grid o.team o.tile && !x.past && !with_.contains x.id)

/-- Where a team's core scratchpad byte lies. -/
def State.padAt (s : State) (grid team off : Nat) : Nat :=
  match s.teams.find? (fun t => t.grid == grid && t.team == team) with
  | some t => Loc.core t.core (t.cbase + off)
  | none => Loc.core 0 off

/-- Perform the stores that an operation's group issued before it to a range it reads or writes (R271, R195); none when one is blocked. -/
def State.settleFor (s : State) (o : MxOp) (l n : Nat) : Option State :=
  if s.tiles.any (fun w => w.owner == some o.c && decide (w.id < o.id) && decide (w.ver < l + n ∧ l < w.ver + 8)) || s.storeLogged o.c o.id l n then none
  else
    (s.accs.filter (fun a => a.owner == some o.c && decide (a.seq < o.id) && a.overlaps l n)).foldl
      (fun r a => r.bind (fun s => State.perform (s.accs.length + 1) s a.id)) (some s)

/-- Is any unit of a range poisoned? -/
def State.rangeBad (s : State) (l n : Nat) : Bool := (List.range (ceilDiv (l % 8 + n) 8)).any (fun i => s.poison.get false (l / 8 + i))

/-- An engine reads a range of core scratchpad for an operation: its value and whether poison lies in it. -/
def State.engRead (s : State) (o : MxOp) (off n : Nat) : Option (State × Nat × Bool) :=
  let l := s.padAt o.grid o.team off
  (s.settleFor o l n).map (fun s => (s, s.mem.readN l n, s.rangeBad l n))

/-! ### MMA (R263 to R269) -/

/-- The rows an MMA updates, in lane order: the tile row, the index, the scale (R264, R266). -/
def mmaRows (f : FX) (g : Ctx) : List (Nat × MmaRow) :=
  ((lanes (g.exec f.h)).map (fun l =>
    (List.range 2).map (fun u =>
      let sc := (g.rdV f.sca.toNat l).toNat
      let scale := if f.fmta.ty.isMX then bitsAt sc (8 * (2 * (f.bsel.toNat % 2) + u)) 8 else if f.fmta.ty.isSX then bitsAt sc (16 * u) 16 else 0
      (l, ({ row := 16 * ((f.band.toNat + l / 8) % 4) + 2 * (l % 8) + u, idx := bitsAt (g.rdV f.idx.toNat l).toNat (16 * u) 16
             scale, first := 0, bad := false } : MmaRow))))).flatten

/-- The parameters of an MMA. -/
def mmaOf (f : FX) (g : Ctx) : Mma :=
  { z := f.chain.getLsbD 0, nf := f.chain.getLsbD 1
    a0 := (g.rdS f.abase.toNat).toNat, stride := (g.rdS (f.abase.toNat + 1)).toNat, b0 := (g.rdS f.bbase.toNat).toNat
    fa := f.fmta, fb := f.fmtb, steps := f.kst.toNat + 1
    bands := ((lanes (g.exec f.h)).map (fun l => (f.band.toNat + l / 8) % 4)).eraseDups
    bscale := if f.fmtb.scaled then (List.range 8).map (fun i => (g.rdS (f.scb.toNat + i)).toNat) else []
    bsel := f.bsel.getLsbD 1, rows := (mmaRows f g).map (·.2) }

/-- An SX scale word with E = 0xFF and a micro-exponent bit set (R266): A's lanes in order, then B's columns (DEDUCED, log 29). -/
def mxFormat (m : Mma) : Option Nat :=
  let words := (if m.fa.ty.isSX then m.rows.map (·.scale) else []) ++ (if m.fb.ty.isSX then (List.range 8).map (fun i => m.colScale (4 * i)) else [])
  words.find? (fun w => w / 256 == 255 && w % 256 != 0)

/-- The address checks of R267 for the lowest failing lane, lane 0 for B: alignment before bounds. -/
def mmaFault (s : State) (m : Mma) (rows : List (Nat × MmaRow)) : Option (Nat × DWord) :=
  let size := (s.limit s.g .c : Int)
  let bCode := if m.b0 % 16 ≠ 0 then some (0x13, laneEval 0 m.b0)
    else if size < m.b0 + m.steps * 32 * m.stepB then some (0x12, laneEval 0 m.b0) else none
  let aCode (l : Nat) (r : MmaRow) : Option (Nat × DWord) :=
    let a := m.a0 + r.idx * m.stride
    if m.a0 % 16 ≠ 0 ∨ m.stride % 16 ≠ 0 then some (0x13, laneEval l a)
    else if size < a + m.steps * m.stepA then some (0x12, laneEval l a) else none
  let codes := ((rows.filter (·.1 == 0)).map (fun (l, r) => aCode l r)) ++ [bCode] ++ ((rows.filter (·.1 != 0)).map (fun (l, r) => aCode l r))
  let lane0 := codes.take ((rows.filter (·.1 == 0)).length + 1)
  (lane0.findSome? (fun c => c.filter (·.1 == 0x13))).orElse fun _ => codes.findSome? id

/-- Two MMAs that may share passes (R269). -/
def sameB (a b : Mma) : Bool :=
  a.b0 == b.b0 && a.fa == b.fa && a.fb == b.fb && a.steps == b.steps && (!a.fb.scaled || (a.bscale == b.bscale && a.bsel == b.bsel)) &&
  !a.nf && !b.nf

/-- The MMAs of a candidate. -/
def State.members (s : State) (c : Cand) : List (MxOp × Mma) :=
  (s.mxq.filter (fun o => c.mmas.contains o.id)).filterMap (fun o => match o.what with | .mma m => some (o, m) | _ => none)

/-- An open candidate that an MMA of the issuing group may join (R269). -/
def joinable (s : State) (h : Nat) (m : Mma) : Option Cand :=
  s.cands.find? (fun c =>
    c.core == s.g.ids.core && !c.closed && decide (s.clock < c.opened + 4) && !c.since.contains h && m.bands.all (fun b => !c.bands.contains b) &&
    (s.members c).all (fun (o, m') => o.grid == s.g.ids.grid && o.team == s.g.ids.team && sameB m m'))

/-- An MMA enters the engine order and joins or opens a candidate pass. -/
def State.enterMma (s : State) (h : Nat) (m : Mma) : State :=
  let join := joinable s h m
  let id := s.nextId
  let s := (s.enter h (.mma m))
  match join with
  | some c => { s with cands := s.cands.map (fun x =>
      if x.id = c.id then { x with bands := x.bands ++ m.bands, mmas := x.mmas ++ [id] } else x) }
  | none =>
    let (s, cid) := s.fresh
    { s with cands := s.cands ++ [{ id := cid, core := s.g.ids.core, opened := s.clock, bands := m.bands, mmas := [id] }] }

/-- The gather of K-step 0, which completes before the MMA issues (R267). -/
def gatherFirst (s : State) (m : Mma) : Option (State × List MmaRow) :=
  m.rows.foldl (fun acc r => acc.bind (fun (s, rs) =>
    let l := s.place s.g .c (m.a0 + r.idx * m.stride)
    (s.settleRange s.g.ids.ref l m.stepA).map (fun s =>
      (s, rs ++ [{ r with first := s.mem.readN l m.stepA, bad := s.rangeBad l m.stepA }])))) (some (s, []))

/-- MMA (R263 to R269). The scale words are judged before the addresses (DESIGN CHOICE, log 102). -/
def execMma (f : FX) (s : State) : Res :=
  issue (.mma f) s fun s =>
    let m := mmaOf f s.g
    if s.g.exec f.h = 0 then .done s
    else match mxFormat m with
    | some w => .trap 0x21 (BitVec.ofNat 64 w)
    | none =>
      match mmaFault s m (mmaRows f s.g) with
      | some (c, v) => .trap c v
      | none => mxRoom s fun s =>
        match gatherFirst s m with
        | none => .stall s
        | some (s, rows) => .done (s.enterMma f.tile.toNat { m with rows })

/-- A candidate pass closes: all bands are taken, or its fourth clock has ended (R269); arg.id names it. -/
def execCandidatePassClose (s : State) : Res :=
  event s (s.cands.any (fun c => c.id == s.arg.id && !c.closed && (c.bands.length == 4 || decide (c.opened + 4 ≤ s.clock)))) fun s =>
    { s with cands := s.cands.map (fun c => if c.id = s.arg.id then { c with closed := true } else c) }

/-- The class and the place in engine order of a candidate's pass (R256). -/
def State.candKey (s : State) (c : Cand) : Nat × Nat :=
  ((s.members c).foldl (fun a (o, _) => max a o.cls) 0, (s.members c).foldl (fun a (o, _) => min a o.id) s.nextId)

/-- May a candidate's next pass start? -/
def State.candReady (s : State) (c : Cand) : Bool := c.closed && (s.members c).all (fun (o, _) => s.turn o c.mmas)

/-- The candidate whose pass a core starts next (R256). -/
def State.nextPass (s : State) (k : Nat) : Option Cand :=
  (s.cands.filter (fun c => c.core == k && s.candReady c)).foldl (fun best c =>
    match best with
    | none => some c
    | some b =>
      let x := s.candKey c
      let y := s.candKey b
      if y.1 < x.1 ∨ (x.1 = y.1 ∧ x.2 < y.2) then some c else some b) none

/-- The A rows of a member for a K-step. -/
def gatherRows (s : State) (o : MxOp) (m : Mma) (step : Nat) : Option (State × List (Nat × Nat × Nat × Bool)) :=
  m.rows.foldl (fun acc r => acc.bind (fun (s, rs) =>
    if step = 0 then some (s, rs ++ [(o.id, r.row, r.first, r.bad)])
    else (s.engRead o (m.a0 + r.idx * m.stride + step * m.stepA) m.stepA).map (fun (s, x, bad) => (s, rs ++ [(o.id, r.row, x, bad)]))))
    (some (s, []))

/-- At a pass boundary core arg.id starts the waiting pass of highest class, earliest in engine order (R256). -/
def execPassStart (s : State) : Res :=
  let k := s.arg.id
  if s.passes.any (·.core == k) then .next s
  else match s.nextPass k with
    | none => .next s
    | some c =>
      match (s.members c).foldl (fun acc (o, m) => acc.bind (fun (s, rs) => (gatherRows s o m c.step).map (fun (s, r) => (s, rs ++ r))))
          (some (s, ([] : List (Nat × Nat × Nat × Bool)))) with
      | none => .next s
      | some (s, rows) => .next { s with passes := s.passes ++ [{ core := k, cand := c.id, rows }] }

/-- Values leave a checksum: an exact sum, rounded once (R278). -/
def lessThese (e : DWord) (vs : List FV) : DWord := BitVec.ofNat 64 (rn64 (exSum (rd64 e.toNat :: vs.map FV.neg)))

/-- .Z of step 0: the rows' old C values leave the row checksums, then C becomes +0 (R268, R278). -/
def Tile.resetRows (t : Tile) (rows : List Nat) : Tile :=
  let inRows (k : Nat) : Bool := rows.contains (k / 32)
  { t with
    pr := rows.foldl (fun p r => SMap.set 0 p r (lessThese (p.get 0 r) (t.rowC r))) t.pr
    mr := rows.foldl (fun p r => SMap.set 0 p r (lessThese (p.get 0 r) ((t.rowC r).map FV.abs))) t.mr
    c := t.c.keep (fun k => !inRows k), pois := if t.aff then t.pois else t.pois.keep (fun k => !inRows k) }

/-- What the column checksums owe for rows that .Z resets. -/
def Tile.resetOwed (t : Tile) (id : Nat) (rows : List Nat) : Owed :=
  let col (c : Nat) : List FV := rows.map (fun r => rd64 (t.cAt r c))
  { id, reset := true, p := (List.range 32).map (fun c => rows.map (fun r => BitVec.ofNat 64 (t.cAt r c)))
    m := (List.range 32).map (fun c => (col c).map (fun v => BitVec.ofNat 64 (rn64 v.abs))) }

/-- The column checksums take what they are owed. -/
def Tile.settleCols (t : Tile) (o : Owed) : Tile :=
  let put (e : DWord) (xs : List DWord) : DWord :=
    if o.reset then lessThese e (xs.map (fun x => rd64 x.toNat))
    else xs.foldl (fun e x => if (rd64 x.toNat).isNan then nan64 else BitVec.ofNat 64 (add64 e.toNat x.toNat)) e
  { t with pc := SMap.ofFn 0 32 (fun c => put (t.pc.get 0 c) (o.p.getD c [])), mc := SMap.ofFn 0 32 (fun c => put (t.mc.get 0 c) (o.m.getD c [])) }

/-- The exact sum of products. -/
def exDot (xs ys : List FV) : FV := exSum ((xs.zip ys).map (fun (x, y) => exMul x y))

/-- The exact sums across rows of elements, one for each k. -/
def across (rows : List (List FV)) (fn : FV → FV) : List FV :=
  (List.range ((rows.head?.map List.length).getD 0)).map (fun k => exSum (rows.map (fun r => fn (r.getD k (.fin false 0 0)))))

/-- The row checksums of one K-step (R278): `as` are the updated rows with their elements, `bs` the columns'. -/
def Tile.sumStep (t : Tile) (as : List (Nat × List FV)) (bs : List (List FV)) : Tile :=
  let acc (e : DWord) (v : FV) : DWord := BitVec.ofNat 64 (add64 e.toNat (rn64 v))
  let bsum := across bs id
  let babs := across bs FV.abs
  let bBad := bs.any (·.any FV.special)
  { t with
    pr := as.foldl (fun p (r, xs) => SMap.set 0 p r (if bBad || xs.any FV.special then nan64 else acc (p.get 0 r) (exDot xs bsum))) t.pr
    mr := as.foldl (fun p (r, xs) => SMap.set 0 p r (acc (p.get 0 r) (exDot (xs.map FV.abs) babs))) t.mr }

/-- What the column checksums owe for one K-step (R278). -/
def stepOwed (id : Nat) (as bs : List (List FV)) : Owed :=
  let asum := across as (fun v => v)
  let aabs := across as FV.abs
  let aBad := as.any (·.any FV.special)
  { id, p := bs.map (fun ys => [if aBad || ys.any FV.special then nan64 else BitVec.ofNat 64 (rn64 (exDot asum ys))])
    m := bs.map (fun ys => [BitVec.ofNat 64 (rn64 (exDot aabs (ys.map FV.abs)))]) }

/-- One K-step of one MMA on its tile (R268): the gathered rows and the B columns with their poison; what the column checksums owe beside it. -/
def Tile.mmaStep (t : Tile) (id : Nat) (m : Mma) (step : Nat) (rows : List (Nat × Nat × Bool)) (cols : List (Nat × Bool)) : Tile × List Owed :=
  let z := if step = 0 ∧ m.z then [t.resetOwed id (rows.map (·.1))] else []
  let t := if step = 0 ∧ m.z then t.resetRows (rows.map (·.1)) else t
  let es (f : MFmt) (run sc : Nat) : List (List FV) := (List.range m.k).map (elemXF f run sc)
  let bs := cols.zipIdx.map (fun ((run, bad), c) => (es m.fb run (m.colScale c), bad))
  let as := rows.map (fun (r, run, bad) => (r, es m.fa run (((m.rows.find? (·.row == r)).map (·.scale)).getD 0), bad))
  let t := as.foldl (fun t (r, a, bad) => bs.zipIdx.foldl (fun t ((b, bbad), c) =>
    let t := t.setC r c (add64 (t.cAt r c) (dotGroup a b))
    if bad || bbad then t.setBad r c true else t) t) t
  let t := t.sumStep (as.map (fun (r, a, _) => (r, a.map xfValue))) (bs.map (fun (b, _) => b.map xfValue))
  let int (f : MFmt) : Bool := f == .i8 || f == .i4
  ({ t with exact := t.exact && int m.fa && int m.fb }, z ++ [stepOwed id (as.map (fun (_, a, _) => a.map xfValue)) (bs.map (fun (b, _) => b.map xfValue))])

/-- The B columns of a K-step as a member reads them. -/
def readCols (s : State) (o : MxOp) (m : Mma) (step : Nat) : Option (State × List (Nat × Bool)) :=
  (List.range 32).foldl (fun acc c => acc.bind (fun (s, cs) =>
    (s.engRead o (m.b0 + step * 32 * m.stepB + c * m.stepB) m.stepB).map (fun (s, x, bad) => (s, cs ++ [(x, bad)])))) (some (s, []))

/-- A member's part of a pass. -/
def passMember (p : Pass) (step : Nat) (s : State) (o : MxOp) (m : Mma) : Option State :=
  (readCols s o m step).map (fun (s, cols) =>
    let (t, ow) := (s.tile o.grid o.team o.tile).mmaStep o.id m step ((p.rows.filter (·.1 == o.id)).map (fun (_, r, x, bad) => (r, x, bad))) cols
    let s := s.modTile o.grid o.team o.tile (fun _ => t)
    { s with cands := s.cands.map (fun c => if c.id = p.cand then { c with owed := c.owed ++ ow } else c) })

/-- An MMA leaves the engine: its tile's column checksums take what it owes them. -/
def State.leaveMma (c : Cand) (s : State) (o : MxOp) : State :=
  (s.modTile o.grid o.team o.tile (fun t => (c.owed.filter (·.id == o.id)).foldl Tile.settleCols t)).mxRetire o

/-- The pass on core arg.id retires (R255, R268): its rows and row checksums change; after the last K-step its MMAs leave the engine, in engine
order. -/
def execPassRetire (s : State) : Res :=
  match s.passes.find? (·.core == s.arg.id) with
  | none => .next s
  | some p =>
    match s.cands.find? (·.id == p.cand) with
    | none => .next { s with passes := s.passes.filter (fun q => q.core != p.core) }
    | some c =>
      match (s.members c).foldl (fun acc (o, m) => acc.bind (fun s => passMember p c.step s o m)) (some s) with
      | none => .next s
      | some t =>
        let t := { t with passes := t.passes.filter (fun q => q.core != p.core) }
        let steps := ((s.members c).head?.map (·.2.steps)).getD 1
        .next (if c.step + 1 < steps then
          { t with cands := t.cands.map (fun x => if x.id = c.id then { x with step := c.step + 1 } else x) }
        else
          let c := (t.cands.find? (·.id == c.id)).getD c
          (s.members c).foldl (fun t (o, _) => t.leaveMma c o) { t with cands := t.cands.filter (fun x => x.id != c.id) })

/-! ### Tiles held (R260, R261) -/

/-- Free tiles of a core. -/
def State.freeTiles (s : State) (k : Nat) : Nat := Config.nTiles - ((s.teams.filter (·.core == k)).map (·.tiles.length)).sum

/-- The tiles of the issuing group's team. -/
def State.heldTiles (s : State) : Nat := ((s.team? s.g).map (·.tiles.length)).getD 0

/-- A team holds t tiles: new ones are clear, the last ones are given up. -/
def State.setTiles (s : State) (grid team t : Nat) : State :=
  s.modTeam grid team (fun x => { x with tiles := x.tiles.take t ++ List.replicate (t - x.tiles.length) {} })

/-- Can the issuing group's team rise to t tiles at once? -/
def canTile (s : State) (t : Nat) : Bool :=
  (s.waiters s.g.ids.core 1).isEmpty && decide (t - s.heldTiles ≤ s.freeTiles s.g.ids.core)

/-- MACQ (R260, R261). -/
def execMacq (f : FX) (s : State) : Res :=
  issue (.macq f) s fun s =>
    let t := f.opx.toNat
    if t ≤ s.heldTiles ∨ (s.g.wait.kind = 7 ∧ s.g.wait.sat) then .done s
    else if canTile s t then .done (s.setTiles s.g.ids.grid s.g.ids.team t)
    else .park s (acqWait 1 t s.now)

/-- MACQ.TRY (R260, R261): whatever it asks for, it succeeds only when no MACQ waits on the core. -/
def execMacqTry (f : FX) (s : State) : Res :=
  issue (.macqTry f) s fun s =>
    let t := f.opx.toNat % 64
    let c := f.opx.toNat / 128
    if canTile s t then .done ((s.setTiles s.g.ids.grid s.g.ids.team (max s.heldTiles t)).modG (·.wrC c true))
    else .done (s.modG (·.wrC c false))

/-- Operations of the issuing group's team in the engine on a tile that satisfies a test. -/
def engineOn (s : State) (p : Nat → Bool) : Bool :=
  s.mxq.any (fun o => o.grid == s.g.ids.grid && o.team == s.g.ids.team && p o.tile)

/-- MREL (R260). -/
def execMrel (f : FX) (s : State) : Res :=
  issue (.mrel f) s fun s =>
    let t := f.opx.toNat
    if s.heldTiles ≤ t then .done s
    else if engineOn s (fun h => t ≤ h) then .stall s
    else .done (s.setTiles s.g.ids.grid s.g.ids.team t)

/-- The oldest waiting MACQ of core arg.id is granted and wakes (R261). -/
def execMacqGrant (s : State) : Res :=
  let k := s.arg.id
  match oldest s.now (s.waiters k 1) with
  | none => .next s
  | some g =>
    let held := ((s.team? g).map (·.tiles.length)).getD 0
    event s (g.wait.count - held ≤ s.freeTiles k) fun s =>
      (s.setTiles g.ids.grid g.ids.team (max held g.wait.count)).modCtx g.ids.ref (fun g => g.setWait { g.wait with sat := true })

/-! ### The deadlock report (R26, R381) -/

/-- The groups of a team that have not ended. -/
def State.liveOf (s : State) (t : Team) : List Ctx :=
  s.ctxs.filter (fun g => !g.isSys && g.ids.grid == t.grid && g.ids.team == t.team && !g.sched.ended)

def Ctx.acquiring (g : Ctx) : Bool := g.wait.kind == 7 && !g.wait.sat

/-- A team is blocked: one of its groups waits in MACQ or XACQ, and its other groups are parked (DEDUCED, log 40). -/
def State.teamBlocked (s : State) (t : Team) : Bool :=
  (s.liveOf t).any Ctx.acquiring && (s.liveOf t).all (fun g => g.wait.kind != 0 && !g.wait.sat)

/-- Does a team hold tiles or E-blocks? Those of its ended groups are held until it ends (R27). -/
def State.teamHolds (s : State) (t : Team) : Bool :=
  !t.tiles.isEmpty || s.ctxs.any (fun g => !g.isSys && g.ids.grid == t.grid && g.ids.team == t.team && decide (0 < g.n))

/-- Is the pool unable to satisfy the oldest waiter of a core? -/
def State.starved (s : State) (k : Nat) : Bool :=
  match oldest s.now ((s.onCore k).filter Ctx.acquiring) with
  | none => false
  | some g =>
    if g.wait.addr = 0 then decide (s.freeGranules k < g.needs g.wait.count)
    else decide (s.freeTiles k < g.wait.count - ((s.team? g).map (·.tiles.length)).getD 0)

/-- The oldest waiter of the youngest blocked team (R381). -/
def State.deadlockOf (s : State) (k : Nat) : Option Ctx :=
  let ts := (s.teams.filter (fun t => t.core == k && s.teamBlocked t)).filterMap (fun t => oldest s.now ((s.liveOf t).filter Ctx.acquiring))
  ts.foldl (fun y g => match y with | none => some g | some h => if older s.now h g then some g else some h) none

/-- Does the condition of R26 hold on a core? -/
def State.deadlocked (s : State) (k : Nat) : Bool :=
  let holders := s.teams.filter (fun t => t.core == k && s.teamHolds t)
  !holders.isEmpty && holders.all s.teamBlocked && s.starved k

/-- Core arg.id reports a deadlock to its Prefect as it arises, and again every 1,250,000 ticks while it lasts (R381). -/
def execDeadlockReport (s : State) : Res :=
  let k := s.arg.id
  match (if s.deadlocked k then s.deadlockOf k else none) with
  | none => event s (s.deadAt.get 0 k != 0) fun s => { s with deadAt := SMap.set 0 s.deadAt k 0 }
  | some g => event s (s.deadAt.get 0 k ≤ s.clock) fun s =>
      { s.post (k / 16) k g.ids.slot (s.record g 7) with deadAt := SMap.set 0 s.deadAt k (s.clock + 1250000) }

/-! ### MZERO, MLDA, MSTA, MTAB, MCLS, MCHK -/

/-- MZERO (R262). -/
def execMzero (f : FX) (s : State) : Res :=
  issue (.mzero f) s fun s => mxRoom s fun s => .done (s.enter f.tile.toNat .zero)

/-- The checks of a range of core scratchpad that an engine reads or writes, with lane 0 reported (R188, R189). -/
def padCheck (al x n : Nat) (k : AccKind) (s : State) (e : State → Eff) : Eff :=
  match s.judge s.g .c k al x x n with
  | some c => .trap c (laneEval 0 x)
  | none => e s

/-- Bytes of a tile's image (R272). -/
def imageBytes (ck : Bool) : Nat := if ck then 34320 else 32768

/-- MLDA (R272). -/
def execMlda (f : FX) (s : State) : Res :=
  issue (.mlda f) s fun s =>
    let x := (s.g.rdS f.bbase.toNat).toNat
    let ck := f.opx.getLsbD 0
    padCheck 64 x (imageBytes ck) .load s fun s => mxRoom s fun s => .done (s.enter f.tile.toNat (.load x ck))

/-- MSTA (R272). -/
def execMsta (f : FX) (s : State) : Res :=
  issue (.msta f) s fun s =>
    let x := (s.g.rdS f.bbase.toNat).toNat
    let ck := f.opx.getLsbD 0
    padCheck 64 x (imageBytes ck) .store s fun s => mxRoom s fun s => .done (s.enter f.tile.toNat (.store x ck) true f.kst.toNat)

/-- Is a binary64 value an integer of magnitude at most 2^53? -/
def smallInt (x : Nat) : Bool :=
  match rd64 x with
  | .fin _ m e => m == 0 || (if 0 ≤ e then decide (m * 2 ^ (min e.toNat 60) ≤ 2 ^ 53) else m % 2 ^ (-e).toNat == 0 && decide (m / 2 ^ (-e).toNat ≤ 2 ^ 53))
  | _ => false

/-- The elements of an image: G and C of each, and the poison of either half. -/
def imageElems (s : State) (l : Nat) : List (Nat × Nat × Bool) :=
  (List.range 2048).map (fun i =>
    (s.mem.readN (l + 16 * i + 8) 8, s.mem.readN (l + 16 * i) 8, s.poisoned (l + 16 * i) || s.poisoned (l + 16 * i + 8)))

/-- A tile loaded from an image at a location (R272). -/
def Tile.loaded (t : Tile) (s : State) (l : Nat) (ck : Bool) : Tile :=
  let es := imageElems s l
  let fill {α : Type} [DecidableEq α] (d : α) (f : Nat × Nat × Bool → α) : SMap α := (es.zipIdx.filter (fun (e, _) => f e ≠ d)).map (fun (e, i) => (i, f e))
  let t := { t with g := fill 0 (fun e => BitVec.ofNat 64 e.1), c := fill 0 (fun e => BitVec.ofNat 64 e.2.1), pois := fill false (fun e => e.2.2) }
  let sums (n base off : Nat) : SMap DWord := SMap.ofFn 0 n (fun i => BitVec.ofNat 64 (s.mem.readN (l + base + 16 * i + off) 8))
  if ck then
    { t with pr := sums 64 32768 0, mr := sums 64 32768 8, pc := sums 32 33792 0, mc := sums 32 33792 8
             ckp := SMap.ofFn false 193 (fun k => s.poisoned (l + 32768 + 8 * k))
             exact := s.mem.readN (l + 34304) 8 % 2 == 1 }
  else { t.resum with exact := es.all (fun e => smallInt e.2.1) }

/-- The 8-byte units of a tile's image: offset, value, poison (R272). -/
def Tile.image (t : Tile) (ck : Bool) : List (Nat × Nat × Bool) :=
  ((List.range 2048).map (fun i =>
    [(16 * i, t.cAt (i / 32) (i % 32), t.bad (i / 32) (i % 32)), (16 * i + 8, t.gAt (i / 32) (i % 32), t.bad (i / 32) (i % 32))])).flatten ++
  (if ck then
    ((List.range 193).map (fun k => (32768 + 8 * k,
      (if k = 192 then t.exact.toNat
       else (((if k < 128 then (if k % 2 = 0 then t.pr else t.mr) else if k % 2 = 0 then t.pc else t.mc).get 0 (k % 128 / 2)).toNat)),
      t.ckp.get false k))) ++ [(34312, 0, false)]
   else [])

/-- A write of an engine begins: it has passed its checks. -/
def State.jobWrite (s : State) (org : Dom) (job loc : Nat) (bs : List Byte) (bad : Bool) (c : Crypt := {}) (tile : Option Nat := none) : State :=
  let (s, id) := s.fresh
  { s with accs := s.accs ++ [{ id, owner := none, op := .store bs bad, loc, n := bs.length, crypt := c, tick := s.clock
                                org, dst := destDom loc, tile, job := some job }] }

/-- A write of a core's engine. -/
def State.engWrite (s : State) (core job loc : Nat) (bs : List Byte) (bad : Bool) (c : Crypt := {}) (tile : Option Nat := none) : State :=
  s.jobWrite { scope := 1, id := core } job loc bs bad c tile

/-- MSTA's turn, once its group's earlier stores to the range have performed: its writes pass. -/
def State.storeTile (s : State) (o : MxOp) (x : Nat) (ck : Bool) : Option State :=
  let l := s.padAt o.grid o.team x
  (s.settleFor o l (imageBytes ck)).map (fun s =>
    let s := ((s.tile o.grid o.team o.tile).image ck).foldl (fun s (off, v, bad) => s.engWrite o.core o.id (l + off) (toBytes 8 v) bad) s
    { s with mxq := s.mxq.map (fun y => if y.id = o.id then { y with phase := 3, wit := mkWit { scope := 1, id := o.core } s.now } else y) })

/-- The reply of an operation whose writes have passed is formed after the last of them has performed (R214, R276). -/
def State.writesDone (s : State) (o : MxOp) : Option State := if s.accs.any (fun a => a.job == some o.id) then none else some (s.mxReply o o.wit)

/-- MTAB (R273): it waits for the drains that use the table. -/
def execMtab (f : FX) (s : State) : Res :=
  issue (.mtab f) s fun s =>
    let x := (s.g.rdS f.bbase.toNat).toNat
    let n := f.opx.toNat
    padCheck 16 x 1040 .load s fun s =>
      if s.mxq.any (fun o => o.grid == s.g.ids.grid && o.team == s.g.ids.team && (match o.what with | .drain d => d.tab == some n | _ => false)) then
        .stall s
      else
        let l := s.place s.g .c x
        match s.settleRange s.g.ids.ref l 1040 with
        | none => .stall s
        | some s =>
          if s.rangeBad l 1040 then .lost (s.logError 1 2 l s.g.handle) 0x40 (BitVec.ofNat 64 x)
          else
            let h := s.mem.readN (l + 1024) 16
            let e := signedOf 32 (bitsAt h 32 32)
            if bitsAt h 66 2 = 3 ∨ bitsAt h 64 2 = 3 ∨ e < -126 ∨ 126 < e ∨ (FV.read .f32 (bitsAt h 0 32)).special ∨ bitsAt h 68 60 ≠ 0 then
              .trap 0x21 (BitVec.ofNat 64 x)
            else .done (s.modTeam s.g.ids.grid s.g.ids.team (fun t =>
              { t with tabBad := t.tabBad.filter (fun e => e.1 / 130 != n), tabs := (s.mem.readB l 1040).zipIdx.foldl (fun m (b, i) => SMap.set 0 m (1040 * n + i) b) t.tabs }))

/-- MCLS (R281). -/
def execMcls (f : FX) (s : State) : Res :=
  issue (.mcls f) s fun s => .done (s.modG (fun g => { g with mclass := min f.opx.toNat g.climit }))

/-- MCHK (R280). -/
def execMchk (f : FX) (s : State) : Res :=
  issue (.mchk f) s fun s =>
    let h := f.tile.toNat
    if engineOn s (· == h) then .stall s
    else
      let v := (s.tile s.g.ids.grid s.g.ids.team h).check h
      let s := s.named s.g h
      if f.opx.getLsbD 0 then .done (s.modG (·.wrC (f.opx.toNat / 2) v.isNone))
      else match v with
        | some v => .trap 0x22 v
        | none => .done s

/-! ### Drains (R274 to R277) -/

/-- Bytes of an output row (R276). -/
def rowBytes (q : Option Ty) : Nat := match q with | some t => 4 * storeBits t | none => 256

/-- The parameters of a drain (R274). -/
def drainOf (f : FX) (g : Ctx) : Drain :=
  let x := f.opx.toNat
  let p := f.scb.toNat
  let r (i : Nat) : Nat := (g.rdS (p + i)).toNat
  let space := Space.ofCode (bitsAt x 13 2)
  { aon := f.opx.getLsbD 16, nck := f.opx.getLsbD 15, space, rnd := (Rnd.ofCode (bitsAt x 10 3)).getD .rn
    q := if f.opx.getLsbD 2 then Ty.ofCode (bitsAt x 5 5) else none
    tab := if f.opx.getLsbD 1 then some (bitsAt x 3 2) else none
    bias := if f.opx.getLsbD 0 then some (r 3) else none
    dest := if space = .g then (g.rdS64 p).toNat else r 0
    stride := r 2, scale := r 4, sofs := r 5, pc := g.flow.pc, cmd := g.cmds.seq }

/-- The scale array's bytes per row (R276). -/
def scaleBytes (q : Option Ty) : Nat := match q with | some t => if t.isSX then 4 else if t.isMX then 1 else 0 | none => 0

/-- The regions a drain writes: offset from the destination and length, row by row, then the scales. -/
def Drain.regions (d : Drain) : List (Nat × Nat) :=
  (List.range 64).map (fun r => (r * d.stride, rowBytes d.q)) ++
  (if scaleBytes d.q = 0 then [] else [(d.sofs, 64 * scaleBytes d.q)])

/-- The checks of a drain at issue (R276, R277): lane 0 is reported, alignment before bounds and bounds before world (R189). An all-at-once drain to G
that leaves one 64 KiB page raises MISALIGNED_DATA with EVAL the destination, and bounds and world show the start of the first region that fails: the
version word, the rows in order, the scales, the bias (DESIGN CHOICE, log 102). -/
def drainFault (f : FX) (s : State) (d : Drain) : Option (Nat × DWord) :=
  let at_ (a : Int) (c : Nat) : Option (Nat × DWord) := some (c, laneEval 0 a)
  let last := (d.regions.map (fun (o, n) => o + n)).foldl max 0
  if d.dest % 16 ≠ 0 then at_ d.dest 0x13
  else if d.stride % 16 ≠ 0 then at_ (d.dest + d.stride) 0x13
  else if scaleBytes d.q = 4 ∧ d.sofs % 4 ≠ 0 then at_ (d.dest + d.sofs) 0x13
  else if (match d.bias with | some b => decide (b % 16 ≠ 0) | none => false) then at_ (d.bias.getD 0) 0x13
  else if d.aon ∧ d.space = .g ∧ ((d.dest : Int) - 8) / (2 ^ 16 : Nat) ≠ ((d.dest + last - 1 : Nat) : Int) / (2 ^ 16 : Nat) then at_ d.dest 0x13
  else if d.stride < rowBytes d.q then some (0x12, BitVec.ofNat 64 (f.scb.toNat + 2))
  else
    let regs := (if d.aon then [((d.dest : Int) - 8, 8)] else []) ++ d.regions.map (fun (o, n) => (((d.dest + o : Nat) : Int), n))
    let codes := regs.filterMap (fun (a, n) =>
        if d.space = .g then (if a < 0 ∨ (2 ^ 56 : Nat) < a + n then some (0x12, laneEval 0 a) else none)
        else (s.judge s.g d.space .store 1 a a n).map (fun c => (c, laneEval 0 a))) ++
      (d.bias.bind (fun b => (s.judge s.g .c .load 1 b b 128).map (fun c => (c, laneEval 0 b)))).toList
    (codes.find? (fun c => c.1 == 0x12)).orElse fun _ => codes.head?

/-- MDRN (R274 to R277): it takes the next command number as it enters the engine order (R313). -/
def execMdrn (f : FX) (s : State) : Res :=
  issue (.mdrn f) s fun s =>
    let d := drainOf f s.g
    match drainFault f s d with
    | some (c, v) => .trap c v
    | none => mxRoom s fun s =>
      .done ((s.enter f.tile.toNat (.drain d) true f.kst.toNat).modG (fun g => { g with cmds := { g.cmds with seq := (g.cmds.seq + 1) % 0x7FFFFFFF } }))

/-- An activation table as the drain uses it (R273): the value of byte i of table n. -/
structure ActTable where
  v : List FV
  lox : FV
  e : Int
  lo : Nat
  hi : Nat

def actTable (t : Team) (n : Nat) : ActTable :=
  let rd (o k : Nat) : Nat := ofBytes ((List.range k).map (fun i => t.tabs.get 0 (1040 * n + o + i)))
  let h := rd 1024 16
  { v := (List.range 256).map (fun i => FV.read .f32 (rd (4 * i) 4)), lox := FV.read .f32 (bitsAt h 0 32), e := signedOf 32 (bitsAt h 32 32)
    lo := bitsAt h 64 2, hi := bitsAt h 66 2 }

/-- Outside the table's range: the edge entry, x itself, or +0. -/
def edge (mode : Nat) (clamp x : FV) : FV := if mode = 0 then clamp else if mode = 1 then x else .fin false 0 0

/-- The activation of a value (R275). -/
def ActTable.apply (t : ActTable) (x : FV) : FV :=
  let entry (j : Nat) : FV := t.v.getD j (.fin false 0 0)
  match exAdd x t.lox.neg with
  | .nan _ => .nan false
  | .inf n => if n then edge t.lo (entry 0) x else edge t.hi (entry 255) x
  | .fin n m e =>
    let e := e - t.e
    if n ∧ m ≠ 0 then edge t.lo (entry 0) x
    else if fvLt (.fin false 255 0) (.fin false m e) then edge t.hi (entry 255) x
    else
      let j := if 0 ≤ e then m * 2 ^ e.toNat else m / 2 ^ (-e).toNat
      if j = 255 then entry 255
      else
        let f : FV := if 0 ≤ e then .fin false 0 0 else .fin false (m % 2 ^ (-e).toNat) e
        rd64 (rn64 (exAdd (entry j) (exMul f (exAdd (entry (j + 1)) (entry j).neg))))

/-- x of R275 for one element of C. -/
def drainX (d : Drain) (tab : Option ActTable) (bias : Nat → FV) (c x : Nat) : FV :=
  let v := rd64 x
  let v := if d.bias.isSome then rd64 (rn64 (exAdd v (bias c))) else v
  match tab with
  | some t => t.apply v
  | none => v

/-- An output row and its scales (R275, R276). -/
def drainRow (d : Drain) (xs : List FV) : List Byte × List Byte :=
  match d.q with
  | none => ((xs.map (fun v => toBytes 8 (rn64 v))).flatten, [])
  | some t =>
    let ys := xs.map (fun v => exMul v (FV.read .f32 d.scale))
    let nb := rowBytes d.q
    if t.isMX then
      let (x, sc, _) := packBlock t d.rnd (fun _ => 0) ys
      (toBytes nb x, toBytes 1 sc)
    else if t.isSX then
      let (x, sc, _) := packBlock t d.rnd (fun _ => 0) (ys.take 16)
      let (y, sd, _) := packBlock t d.rnd (fun _ => 0) (ys.drop 16)
      (toBytes (nb / 2) x ++ toBytes (nb / 2) y, toBytes 2 sc ++ toBytes 2 sd)
    else
      let one (v : FV) : Nat := if t.isF || t == .e4m3 || t == .e5m2 then (convert { f := fmtOf t, mode := d.rnd } v).1 else (toInt t d.rnd v).1
      (toBytes nb (packCodes (storeBits t) (ys.map one)), [])

/-- The poison of an output row's bytes: those of poisoned elements, or of blocks that hold one. -/
def drainBad (q : Option Ty) (bad : List Bool) (i : Nat) : Bool :=
  let w := match q with | some t => storeBits t | none => 64
  let blk := match q with | some t => if t.isMX then 32 else if t.isSX then 16 else 1 | none => 1
  bad.zipIdx.any (fun (b, c) => b && decide ((c / blk * blk) * w < 8 * i + 8 ∧ 8 * i < (c / blk * blk + blk) * w))

/-- The output of a drain, rows and then scales: offset from the destination, byte, poison. -/
def drainOut (d : Drain) (t : Tile) (tab : Option ActTable) (bias : Nat → FV) (biasBad : Nat → Bool) : List (Nat × Byte × Bool) :=
  let bad (r : Nat) : List Bool := (List.range 32).map (fun c => t.bad r c || biasBad c)
  let rows := (List.range 64).map (fun r => (r, drainRow d ((List.range 32).map (fun c => drainX d tab bias c (t.cAt r c)))))
  (rows.map (fun (r, bs, _) => bs.zipIdx.map (fun (b, i) => (r * d.stride + i, b, drainBad d.q (bad r) i)))).flatten ++
  (rows.map (fun (r, _, ss) => ss.zipIdx.map (fun (b, i) => (d.sofs + r * scaleBytes d.q + i, b,
    if scaleBytes d.q = 4 then ((bad r).drop (i / 2 * 16)).take 16 |>.any id else (bad r).any id)))).flatten

/-- Translate an address for an engine of a context (R306): the cause on failure. -/
def State.engTranslate (s : State) (cluster asn world va : Nat) (k : AccKind) : Except Nat (State × Tr) :=
  match s.lookup [] 0 cluster asn va with
  | none => .error 0x10
  | some t =>
    match s.grants world t va k with
    | some c => .error c
    | none => .ok (s.remember cluster t, t)

/-- The distinct pages of regions of an address space, in ascending order of their first use. -/
def pagesOf (rs : List (Nat × Nat)) : List Nat :=
  ((rs.filter (·.2 != 0)).map (fun (a, n) => (List.range ((a + n - 1) / 2 ^ 16 - a / 2 ^ 16 + 1)).map (fun i => a / 2 ^ 16 + i))).flatten.eraseDups

/-- Translate every page: the first failure with its address, or the state. -/
def State.engPages (s : State) (cluster asn world : Nat) (k : AccKind) : List Nat → Except (Nat × Nat) State
  | [] => .ok s
  | p :: ps =>
    match s.engTranslate cluster asn world (p * 2 ^ 16) k with
    | .error c => .error (c, p * 2 ^ 16)
    | .ok (s, _) => engPages s cluster asn world k ps

/-- An engine command's absent or denied page goes to the Prefect (R277, R306, R333, R338). -/
def State.engAsk (s : State) (c : CtxRef) (pc cmd cause va access : Nat) : State :=
  match s.ctx? c with
  | none => s
  | some g => s.post g.cluster g.ids.core g.ids.slot
      { s.record g 1 with pc, tag := 0x80, cause, access, value := BitVec.ofNat 64 va, cmd }

/-- Group output bytes into the aligned 8-byte units of their addresses; each unit performs on its own (R214). -/
def unitsOut (dest : Nat) : List (Nat × Byte × Bool) → List (Nat × List Byte × Bool)
  | [] => []
  | (o, b, bad) :: rest =>
    match unitsOut dest rest with
    | (a, bs, bad') :: us =>
      if a = dest + o + 1 ∧ a % 8 ≠ 0 then (dest + o, b :: bs, bad || bad') :: us else (dest + o, [b], bad) :: (a, bs, bad') :: us
    | [] => [(dest + o, [b], bad)]

/-- A drain in its turn (R275 to R277, R279): the test, the pages, its group's earlier stores to the same bytes, then its writes begin. An output
made with an activation table that holds poison is poisoned (DESIGN CHOICE, log 96). -/
def State.drain (s : State) (o : MxOp) (d : Drain) : State :=
  match s.ctx? o.c, s.teams.find? (fun t => t.grid == o.grid && t.team == o.team) with
  | some g, some team =>
    let t := s.tile o.grid o.team o.tile
    match (match d.bias with | some b => s.settleFor o (s.padAt o.grid o.team b) 128 | none => some s) with
    | none => s
    | some s =>
      match (if d.nck then none else t.check o.tile) with
      | some v => s.mxFault o 0x22 v.toNat
      | none =>
        let regs := (if d.aon then [(d.dest - 8, 8)] else []) ++ d.regions.map (fun (r, n) => (d.dest + r, n))
        match (if d.space = .g then s.engPages g.cluster g.ids.asn g.ids.world .store (pagesOf regs) else .ok s) with
        | .error (c, va) =>
          let va := ((regs.find? (fun (a, n) => decide (va < a + n ∧ a < va + 2 ^ 16))).map (fun (a, _) => max a va)).getD va
          if c = 0x10 ∨ c = 0x11 then
            { s.engAsk o.c d.pc d.cmd c va 4 with mxq := s.mxq.map (fun x => if x.id = o.id then { x with phase := 2, cause := c, va } else x) }
          else s.mxFault o c va
        | .ok s =>
          let bl := s.padAt o.grid o.team (d.bias.getD 0)
          let out := drainOut d t (d.tab.map (actTable team)) (fun c => FV.read .f32 (s.mem.readN (bl + 4 * c) 4))
            (fun c => (d.bias.isSome && s.poisoned (bl + 4 * c)) || d.tab.any (fun n => team.tabBad.raised.any (fun k => k / 130 == n)))
          let at_ (a : Nat) : Nat × Crypt :=
            if d.space = .g then
              match s.engTranslate g.cluster g.ids.asn g.ids.world a .store with
              | .ok (_, tr) => (tr.loc a, tr.crypt)
              | .error _ => (0, {})
            else (s.place g d.space a, {})
          let us := unitsOut d.dest out
          let spans : List (Nat × Nat) := (if d.aon then [(d.dest - 8, 8)] else []) ++ us.map (fun (u : Nat × List Byte × Bool) => (u.1, u.2.1.length))
          match spans.foldl (fun (r : Option State) (p : Nat × Nat) => r.bind (fun s => s.settleFor o (at_ p.1).1 p.2)) (some s) with
          | none => s
          | some s =>
          let dom := us.foldl (fun w (a, _, _) => w.join (destDom (at_ a).1)) ({ scope := 1, id := o.core } : Dom)
          let s := us.foldl (fun s (a, bs, bad) => s.engWrite o.core o.id (at_ a).1 bs bad (at_ a).2 (if d.aon then some o.id else none)) s
          let wit := mkWit dom s.now
          let tw : List TileWrite := if d.aon then
            [{ id := o.id, ver := (at_ (d.dest - 8)).1, owner := none, tick := s.clock, org := { scope := 1, id := o.core }
               dst := destDom (at_ d.dest).1, crypt := (at_ (d.dest - 8)).2, job := some o.id }] else []
          { s with tiles := s.tiles ++ tw
                   mxq := s.mxq.map (fun x => if x.id = o.id then { x with phase := if d.aon then 1 else 3, wit } else x) }
  | _, _ => s.mxRetire o

/-- The reply witness of drain arg.id is formed after its last write (R276), and MX falls; one that has ended with an engine fault is delivered, one
after the other in engine order, with the null witness (R277). -/
def execDrainComplete (s : State) : Res :=
  match s.mxq.find? (fun o => o.id == s.arg.id && (match o.what with | .drain _ => o.phase == 3 || o.phase == 4 | _ => false)) with
  | none => .next s
  | some o =>
    if o.phase = 3 then .next ((s.writesDone o).getD s)
    else event s (s.faultNext o) fun s => (s.mxReply o 0).deliver o.c { cause := o.cause, value := o.va, level := o.level }

end Sys2Proof.Machine
end

