-- ==== Sys2Proof/Machine/Affine.lean ====
section
/-! DEFINITION. Affine accumulation and the Sluice (R284 to R297), and the turns of the operations that use the tile port (R256). -/

namespace Sys2Proof.Machine

/-! ### Composition (R284, R285) -/

/-- One fused operation on binary64, rounded once. -/
def fma64 (a b c : Nat) : Nat := (fvFma { f := .f64 } (rd64 a) (rd64 b) (rd64 c)).1

/-- The composed gain under a floor 2^k, and whether it underflowed (R285). -/
def gainMul (k : Int) (a b : Nat) : Nat × Bool :=
  match exMul (rd64 a) (rd64 b) with
  | .fin n m e => if m ≠ 0 ∧ (ilog2 m : Int) + e < k then (withSign .f64 n 0, true) else (rn64 (.fin n m e), false)
  | v => (rn64 v, false)

/-- An element on its way through the network: gain, offset, poison, and an underflow met in its column. -/
structure Elt where
  g : Nat
  c : Nat
  bad : Bool
  deriving DecidableEq, Repr

/-- The composition of a later element after an earlier one (R284). -/
def composeElt (k : Int) (later earlier : Elt) : Elt × Bool :=
  let (g, uf) := gainMul k later.g earlier.g
  ({ g, c := fma64 later.g earlier.c later.c, bad := later.bad || earlier.bad }, uf)

/-- One level of the Kogge–Stone network at distance d (R294). -/
def sluiceLevel (k : Int) (rev : Bool) (d : Nat) (xs : List Elt) : List Elt × Bool :=
  let step (i : Nat) (x : Elt) : Elt × Bool :=
    if rev then (match xs[i + d]? with | some y => composeElt k x y | none => (x, false))
    else if d ≤ i then (match xs[i - d]? with | some y => composeElt k x y | none => (x, false))
    else (x, false)
  let ys := xs.zipIdx.map (fun (x, i) => step i x)
  (ys.map (·.1), ys.any (·.2))

/-- The six levels. -/
def sluice (k : Int) (rev : Bool) (xs : List Elt) : List Elt × Bool :=
  [1, 2, 4, 8, 16, 32].foldl (fun (xs, uf) d => let (ys, u) := sluiceLevel k rev d xs; (ys, uf || u)) (xs, false)

/-- The gain floor's exponent that MSCAN samples (R156, R285). -/
def gainFloor (g : Ctx) : Int := max (-1074) (min 0 (signedOf 12 (g.gmode.toNat / 2 ^ 16)))

namespace Tile
def hAt (t : Tile) (c : Nat) : Nat := (t.h.get 0 c).toNat
def hBad (t : Tile) (c : Nat) : Bool := t.hp.getLsbD c

/-- A column as the scan takes it. -/
def column (t : Tile) (c : Nat) : List Elt := (List.range 64).map (fun r => { g := t.gAt r c, c := t.cAt r c, bad := t.bad r c })

/-- MSCAN on one column (R294, R295): its elements, the carry with its poison, its underflow. -/
def scanColumn (t : Tile) (rev apply : Bool) (k : Int) (c : Nat) : List Elt × Nat × Bool × Bool :=
  let (xs, uf) := sluice k rev (t.column c)
  if apply then
    let ys := xs.map (fun x => { x with c := fma64 x.g (t.hAt c) x.c, bad := x.bad || t.hBad c })
    let out := (ys[if rev then 0 else 63]?).getD { g := 0, c := 0, bad := false }
    (ys, out.c, out.bad, uf)
  else (xs, t.hAt c, t.hBad c, uf)

/-- MSCAN (R295). -/
def scanned (t : Tile) (rev apply : Bool) (k : Int) : Tile :=
  let cols := (List.range 32).map (t.scanColumn rev apply k)
  let at_ (i : Nat) : Elt := ((((cols[i % 32]?).map (fun x => x.1)).getD [])[i / 32]?).getD { g := 0, c := 0, bad := false }
  let word (p : List Elt × Nat × Bool × Bool → Bool) : Word := maskWhere (fun c => ((cols[c]?).map p).getD false)
  { t with
    g := SMap.ofFn 0 2048 (fun i => BitVec.ofNat 64 (at_ i).g)
    c := SMap.ofFn 0 2048 (fun i => BitVec.ofNat 64 (at_ i).c)
    pois := SMap.ofFn false 2048 (fun i => (at_ i).bad)
    h := SMap.ofFn 0 32 (fun c => BitVec.ofNat 64 (((cols[c]?).map (fun (x : List Elt × Nat × Bool × Bool) => x.2.1)).getD 0))
    hp := word (fun x => x.2.2.1)
    uf := t.uf ||| word (fun x => x.2.2.2)
    rev }.resum

/-- MAFM (R290). -/
def moded (t : Tile) (aff : Bool) : Tile := { t with aff, g := SMap.ofFn 0 2048 (fun _ => one64) }

/-- MSET (R292). -/
def constSet (t : Tile) (g c : Option DWord) (first last : Nat) : Tile :=
  let inside (k : Nat) : Bool := first ≤ k / 32 && k / 32 ≤ last
  let put (m : SMap DWord) (v : Option DWord) : SMap DWord :=
    match v with
    | some v => SMap.ofFn 0 2048 (fun k => if inside k then v else m.get 0 k)
    | none => m
  { t with g := put t.g g, c := put t.c c, pois := t.pois.keep (fun k => !inside k) }.resum

/-- MGAIN (R291): the gains by element and the elements that poison feeds. -/
def gained (t : Tile) (gain : Nat → Nat) (bad : Nat → Bool) : Tile :=
  { t with g := SMap.ofFn 0 2048 (fun i => BitVec.ofNat 64 (gain i))
           pois := SMap.ofFn false 2048 (fun i => t.pois.get false i || bad i) }.resum

/-- MCRY .PUT (R297). -/
def putH (t : Tile) (vs : List (Nat × DWord)) : Tile :=
  { t with h := vs.foldl (fun h (l, x) => SMap.set 0 h l x) t.h, hp := t.hp &&& ~~~maskOf (vs.map Prod.fst) }.resum
end Tile

/-! ### Issue (R289) -/

/-- The mode a tile will have when an instruction issued now reaches its turn (R289). -/
def modeAt (s : State) (h : Nat) : Bool :=
  s.mxq.foldl (fun b o => if o.on s.g.ids.grid s.g.ids.team h then (match o.what with | .mode a => a | _ => b) else b)
    (s.tile s.g.ids.grid s.g.ids.team h).aff

/-- SCAN_STATE in sum mode (R289), the first of an instruction's own checks and made with an empty EXEC too (DESIGN CHOICE, log 102). -/
def affine (h : Nat) (s : State) (e : State → Eff) : Eff := if modeAt s h then e s else .trap 0x23 (BitVec.ofNat 64 h)

/-- MAFM (R290). -/
def execMafm (f : FX) (s : State) : Res :=
  issue (.mafm f) s fun s => .done (s.enter f.tile.toNat (.mode (f.opx.getLsbD 0)) false)

/-- Bytes that MGAIN reads (R291). -/
def gainBytes (bc bf16 : Bool) : Nat := (if bf16 then 2 else 4) * (if bc then 32 else 2048)

/-- MGAIN (R291). The mode check comes before alignment and bounds (DESIGN CHOICE, log 102). -/
def execMgain (f : FX) (s : State) : Res :=
  issue (.mgain f) s fun s => affine f.tile.toNat s fun s =>
    let x := (s.g.rdS f.bbase.toNat).toNat
    let bc := f.opx.getLsbD 0
    let bf := f.fmta == .bf16
    padCheck 16 x (gainBytes bc bf) .load s fun s => mxRoom s fun s => .done (s.enter f.tile.toNat (.gain x bc bf))

/-- MSET (R292). -/
def execMset (f : FX) (s : State) : Res :=
  issue (.mset f) s fun s =>
    let a := f.abase.toNat
    let x := f.opx.toNat
    let go (s : State) : Eff := mxRoom s fun s =>
      .done (s.enter f.tile.toNat (.set (if f.opx.getLsbD 0 then some (s.g.rdS64 a) else none)
        (if f.opx.getLsbD 1 then some (s.g.rdS64 (a + 2)) else none) (x / 4 % 64) (x / 256 % 64)))
    if f.opx.getLsbD 0 then affine f.tile.toNat s go else go s

/-- MSCAN (R295). -/
def execMscan (f : FX) (s : State) : Res :=
  issue (.mscan f) s fun s => affine f.tile.toNat s fun s => mxRoom s fun s =>
    .done (s.enter f.tile.toNat (.scan (f.opx.getLsbD 0) (f.opx.getLsbD 1) (gainFloor s.g)))

/-- A read of the record by MCRY: its registers stay pending until its turn (R297). -/
def enterCarry (f : FX) (w : Width) (what : Nat → MxWhat) (s : State) : State :=
  let (s, id) := s.fresh
  let d := f.idx.toNat
  let p : Pend := { id, kind := .witness, marks := destRegs false d w.regs, ready := false, level := s.g.traps.level
                    units := (lanes (s.g.exec f.h)).map (fun l => { lane := l, addr := 0, reg := d, width := w }) }
  (s.modG (fun g => { g with pend := g.pend ++ [p] })).enter f.tile.toNat (what id) false

/-- MCRY.GET (R297). Like the other forms it retires at issue when no lane is active (DESIGN CHOICE, log 102). -/
def execMcryGet (f : FX) (s : State) : Res :=
  issue (.mcryGet f) s fun s => affine f.tile.toNat s fun s =>
    if s.g.exec f.h = 0 then .done s else .done (enterCarry f .b64 .getH s)
/-- MCRY.PUT (R297): its registers are read at issue. With no active lane it retires there and the checksums stay (DESIGN CHOICE, log 102). -/
def execMcryPut (f : FX) (s : State) : Res :=
  issue (.mcryPut f) s fun s => affine f.tile.toNat s fun s =>
    if s.g.exec f.h = 0 then .done s
    else .done (s.enter f.tile.toNat (.putH ((lanes (s.g.exec f.h)).map (fun l => (l, BitVec.ofNat 64 (s.g.rd false f.idx.toNat l 2))))) false)
/-- MCRY.UFG (R297). -/
def execMcryUfg (f : FX) (s : State) : Res :=
  issue (.mcryUfg f) s fun s => affine f.tile.toNat s fun s =>
    if s.g.exec f.h = 0 then .done s else .done (enterCarry f .b32 .getU s)
/-- MCRY.UFC (R297). -/
def execMcryUfc (f : FX) (s : State) : Res :=
  issue (.mcryUfc f) s fun s => affine f.tile.toNat s fun s =>
    if s.g.exec f.h = 0 then .done s else .done (s.enter f.tile.toNat (.clearU (s.g.exec f.h)) false)

/-! ### Turns of the tile port (R256) -/

/-- MGAIN's turn (R291): a NaN becomes the canonical one. -/
def gainTurn (s : State) (o : MxOp) (x : Nat) (bc bf16 : Bool) : Option State :=
  let e := if bf16 then 2 else 4
  (s.engRead o x (gainBytes bc bf16)).map (fun (s, _, _) =>
    let l := s.padAt o.grid o.team x
    let at_ (i : Nat) : Nat := l + e * (if bc then i % 32 else i)
    (s.modTile o.grid o.team o.tile (fun t =>
      t.gained (fun i => rn64 (FV.read (if bf16 then .bf16 else .f32) (s.mem.readN (at_ i) e))) (fun i => s.poisoned (at_ i)))).mxRetire o)

/-- A read of the carries or of UF lands in its group's registers; a poisoned carry kills its lane (R297, R430: source 2). -/
def carryTurn (s : State) (o : MxOp) (pend : Nat) (val : Nat → Nat × Bool) : State :=
  match (s.ctx? o.c).bind (fun g => g.pend.find? (·.id == pend)) with
  | none => s.mxRetire o
  | some p => (s.mxRetire o).land o.c { p with units := p.units.map (fun e =>
      { e with got := some (val e.lane), src := 2, loc := Loc.core o.core 0 }) }

/-- An operation acts in its turn; none while a store that it must see is blocked. -/
def State.act (s : State) (o : MxOp) : Option State :=
  let upd (f : Tile → Tile) : State := (s.modTile o.grid o.team o.tile f).mxRetire o
  let t := s.tile o.grid o.team o.tile
  match o.what with
  | .mma _ => none
  | .zero => some (upd Tile.zeroed)
  | .load x ck => (s.engRead o x (imageBytes ck)).map (fun (s, _, _) =>
      (s.modTile o.grid o.team o.tile (fun t => t.loaded s (s.padAt o.grid o.team x) ck)).mxRetire o)
  | .store x ck => if o.phase = 0 then s.storeTile o x ck else s.writesDone o
  | .drain d => if o.phase = 0 then some (s.drain o d) else none
  | .gain x bc bf => gainTurn s o x bc bf
  | .set g c a b => some (upd (·.constSet g c a b))
  | .scan r a k => some (upd (·.scanned r a k))
  | .getH p => some (carryTurn s o p (fun l => (t.hAt l, t.hBad l)))
  | .putH vs => some (upd (·.putH vs))
  | .getU p => some (carryTurn s o p (fun l => ((t.uf.getLsbD l).toNat, false)))
  | .clearU m => some (upd (fun t => { t with uf := t.uf &&& ~~~m }))
  | .mode a => some (upd (·.moded a))

/-- A non-pass operation finishes in engine order (R256): arg.id names it. -/
def execTilePortOpComplete (s : State) : Res :=
  match s.mxq.find? (·.id == s.arg.id) with
  | none => .next s
  | some o => .next (if s.turn o then (s.act o).getD s else s)

end Sys2Proof.Machine
end

