-- ==== Sys2Proof/Machine/Control.lean ====
section
/-! DEFINITION. Control instructions (R105 to R128): branches, regions, calls, ending lanes, signatures. -/

namespace Sys2Proof.Machine

/-! ### The reconvergence stack (R108, R109) -/

namespace Ctx
/-- The lanes of ACTIVE that are live and pass the guard, dead lanes too when unguarded (R114, R116, R118). -/
def takers (g : Ctx) (h : Hdr) : Word :=
  if h.gi = 7 then g.flow.active else g.flow.active &&& ~~~g.flow.dead &&& g.guardMask h
/-- The wait "TRAP awaiting RESUME" (R253). -/
def trapWait (g : Ctx) : Wait := { kind := 6, comparand := g.slot.rem.toNat }
end Ctx

/-- Push with the limit of R109: no more than 30 entries may be left. -/
def pushing (s : State) (es : List Entry) (k : State → Eff) : Eff :=
  if s.g.flow.stack.length + es.length > 30 then .trap 0x0B (BitVec.ofNat 64 s.g.flow.stack.length)
  else k (s.modG (fun g => es.foldl Ctx.push g))

/-- Transfer to an address whose target was checked at issue: its line is in hand (R104). -/
def jump (s : State) (a : Nat) : Eff :=
  match s.target a with
  | .ok (s, d, good) => .goto (s.keepLine a d good) a
  | .error _ => .goto s a

/-- The final wait of R27 begins: load entries of the operand log are discarded with the causes delivered of them, and another cause that is
still pending escalates (R213). -/
def State.toFinal (s : State) : State :=
  let g := s.g
  let loads := g.log.filter (fun e => e.op.kind == .load)
  let left := g.traps.delivered.filter (fun d => !loads.any (fun e => some e.seq == d.log))
  let s := s.modG (fun g =>
    { g with sched := { g.sched with finalWait := true }, traps := { g.traps with delivered := left }
             log := g.log.filter (fun e => e.op.kind != .load)
             pend := g.pend.filter (fun p => !loads.any (fun e => e.op.pend == p.id)) })
  match left with
  | [] => s
  | d :: _ =>
    let pc := ((g.log.find? (fun e => some e.seq == d.log)).map (·.pc)).getD g.flow.pc
    s.escalate g.ids.ref d.cause pc (BitVec.ofNat 64 d.value)

/-- What a walk along the stack makes of the machine; a park leaves everything as it was (R110). -/
def follow (s : State) : Walk → Eff
  | .fall g => .done { s with g := g }
  | .go g a t => if t then jump { s with g := g } a else .goto { s with g := g } a
  | .park => .park s s.g.trapWait
  | .over g => .done (State.toFinal { s with g := g })

/-! ### Meanings -/

/-- NOP (R113). -/
def execNop (f : FS) (s : State) : Res := issue (.nop f) s .done

/-- BRA.DIV (R114). -/
def execBraDiv (f : FB) (s : State) : Res :=
  issue (.braDiv f) s fun s =>
    let g := s.g
    let tk := g.takers f.h
    let nt := g.flow.active &&& ~~~tk
    let dest := branchTarget g.flow.pc f
    let fall := nextPc g.flow.pc
    if nt = 0 then jump s dest
    else if tk = 0 then .done s
    else
      let run (s : State) : Eff := jump (s.modG (·.setActive tk)) dest
      match g.flow.stack with
      | e :: rest =>
        if e.kind = .split ∧ e.d = true ∧ e.addr = fall then
          run (s.modG (·.setStack ({ e with mask := e.mask ||| nt } :: rest)))
        else if e.kind = .split then
          pushing s [{ kind := .split, d := true, addr := fall, mask := nt }] fun s => run (s.modG Ctx.setSplit)
        else
          pushing s [{ kind := .split, b := true, mask := g.flow.active }, { kind := .split, d := true, addr := fall, mask := nt }]
            fun s => run (s.modG Ctx.setSplit)
      | [] =>
        pushing s [{ kind := .split, b := true, mask := g.flow.active }, { kind := .split, d := true, addr := fall, mask := nt }]
          fun s => run (s.modG Ctx.setSplit)

/-- BRA.ANY (R114). -/
def execBraAny (f : FB) (s : State) : Res :=
  issue (.braAny f) s fun s =>
    if s.g.takers f.h &&& ~~~s.g.flow.dead ≠ 0 then jump s (branchTarget s.g.flow.pc f) else .done s

/-- BRA.ALL (R114). -/
def execBraAll (f : FB) (s : State) : Res :=
  issue (.braAll f) s fun s =>
    if s.g.takers f.h &&& ~~~s.g.flow.dead = s.g.flow.active &&& ~~~s.g.flow.dead then jump s (branchTarget s.g.flow.pc f) else .done s

/-- BRC (R115). -/
def execBrc (f : FB) (s : State) : Res := issue (.brc f) s fun s => jump s (branchTarget s.g.flow.pc f)

/-- JMPI (R115). -/
def execJmpi (f : F3) (s : State) : Res := issue (.jmpi f) s fun s => jump s (jumpTarget s.g f)

/-- CALL (R116). -/
def execCall (f : FB) (s : State) : Res :=
  issue (.call f) s fun s =>
    let cl := s.g.takers f.h
    if cl = 0 then .done s
    else
      let dest := branchTarget s.g.flow.pc f
      pushing s [{ kind := .call, addr := nextPc s.g.flow.pc, mask := s.g.flow.active }] fun s => jump (s.modG (·.setActive cl)) dest

/-- CALLI (R116). -/
def execCalli (f : F3) (s : State) : Res :=
  issue (.calli f) s fun s =>
    let dest := jumpTarget s.g f
    pushing s [{ kind := .call, addr := nextPc s.g.flow.pc, mask := s.g.flow.active }] fun s => jump s dest

/-- RET (R117). -/
def execRet (f : FS) (s : State) : Res :=
  issue (.ret f) s fun s => if callOpen s.g.flow.stack then follow s s.g.returns else .trap 0x03 0

/-- SPLIT (R118). -/
def execSplit (f : FB) (s : State) : Res :=
  issue (.split f) s fun s =>
    let sl := s.g.takers f.h
    let join := branchTarget s.g.flow.pc f
    if sl = 0 then .goto s (nextPc join)
    else
      pushing s [{ kind := .split, addr := join, mask := s.g.flow.active }] fun s =>
        .done (s.modG (fun g => (g.setActive sl).setSplit))

/-- JOIN (R120). -/
def execJoin (f : FS) (s : State) : Res := issue (.join f) s fun s => follow s s.g.joins

/-- EXIT (R121). -/
def execExit (f : FS) (s : State) : Res := issue (.exit f) s fun s => follow s s.g.exits

/-- YIELD (R122). -/
def execYield (f : FS) (s : State) : Res :=
  issue (.yield f) s fun s =>
    .done (s.modG (fun g => { g with sched :=
      { g.sched with yieldUntil := if f.imm = 0 then none else some (s.clock + f.imm.toNat), placed := s.clock } }))

/-- BRK (R123): halts for a debugger, else raises BRK after it retires. -/
def execBrk (f : FS) (s : State) : Res :=
  issue (.brk f) s fun s =>
    if s.g.sched.attached then
      let r := { s.record s.g 3 with pc := nextPc s.g.flow.pc, code := f.imm.toNat }
      .done ((s.modG (fun g => { g with sched := { g.sched with halted := true, haltedAt := s.clock } })).post s.g.cluster s.g.ids.core s.g.ids.slot r)
    else .after s 0x0A (f.imm.setWidth 64)

/-- SIGCHK (R126). -/
def execSigchk (f : FS) (s : State) : Res :=
  issue (.sigchk f) s fun s =>
    let seen := s.g.flow.sig.toNat % 2 ^ 24
    let t := s.modG (fun g => { g with flow := { g.flow with sig := 0xFFFFFFFF } })
    if seen = f.imm.toNat then .done t else .after t 0x09 (BitVec.ofNat 64 (2 ^ 56 + seen * 2 ^ 24 + f.imm.toNat))

/-- SIGSET (R126). -/
def execSigset (f : FS) (s : State) : Res :=
  issue (.sigset f) s fun s =>
    .done (s.modG (fun g => { g with flow := { g.flow with sig := if f.var8 = 0 then f.imm else g.rdS f.a.toNat } }))

/-- ELECT (R128). -/
def execElect (f : F3) (s : State) : Res :=
  issue (.elect f) s fun s =>
    let el := s.g.exec f.h
    let low := (lowest? el).getD 32
    .done (s.modG (fun g => (g.wrP f.d.toNat el (if low < 32 then maskOf [low] else 0)).wrS f.a.toNat (BitVec.ofNat 32 low)))

/-- The end of a YIELD window (R122), after the last of its clocks: the group is eligible again and its starvation count is zero. -/
def execYieldWindowEnd (s : State) : Res :=
  let due := match s.ctx? s.arg.c with
    | some g => (match g.sched.yieldUntil with | some t => decide (t < s.clock) | none => false)
    | none => false
  event s due fun s => s.modCtx s.arg.c (fun g => { g with sched := { g.sched with yieldUntil := none, promoted := false, waited := 0 } })

/-- A ready group that no slot has chosen for 224 clocks is promoted (R19). -/
def execGroupPromotion (s : State) : Res :=
  let due := match s.ctx? s.arg.c with
    | some g => !g.isSys && g.able && !g.sched.promoted && decide (224 ≤ g.sched.waited)
    | none => false
  event s due fun s => s.modCtx s.arg.c (fun g => { g with sched := { g.sched with promoted := true } })

/-- A line arrives in the instruction cache for the next instruction of a context (R104). -/
def execLineFetch (s : State) : Res :=
  match s.ctx? s.arg.c with
  | none => .next s
  | some g =>
    match s.fetchLine g g.flow.pc with
    | .error _ => .next s
    | .ok (s, d, good) =>
      .next (s.modCtx s.arg.c (fun g =>
        { g with flow := { g.flow with line := if good then some (g.flow.pc / 64 * 64, d) else none } }))

/-- A pending delivered cause is taken at a boundary of its context (R344): the instruction about to issue, whose line is in hand, has passed
the checks of R62. -/
def execDeliveredCauseTaken (s : State) : Res :=
  match s.ctx? s.arg.c with
  | none => .next s
  | some g =>
    match g.flow.line with
    | none => .next s
    | some (a, line) =>
      if a ≤ g.flow.pc ∧ g.flow.pc < a + 64 ∧ bitsAt line.toNat 9 7 = 0 then
        match decode (lineSlot line (slotIx g.flow.pc)) with
        | .error _ => .next s
        | .ok i => .next (s.via s.arg.c fun s => match verdict i s with | .take d => s.takeDelivered d | _ => s)
      else .next s

/-- UDF (R59): always ILLEGAL_OP. -/
def execUdf (b : BitVec 88) (s : State) : Res := issue (.udf b) s .done

end Sys2Proof.Machine
end

