-- ==== Sys2Proof/Machine/Image.lean ====
section
/-! DEFINITION. The context image (R349 to R352): its bytes from a group or team and back, and acting on a group that lies in an image
(R196, R251, R310, R337). -/

namespace Sys2Proof.Machine

/-! ### Bytes -/

/-- `n` bytes that hold fields (offset, length, value) over zeros. -/
def layout (n : Nat) (fs : List (Nat × Nat × Nat)) : List Byte :=
  fs.foldl (fun bs (o, k, v) => bs.take o ++ toBytes k v ++ bs.drop (o + k)) (List.replicate n (0 : Byte))

/-- A field of an image. -/
def field (bs : List Byte) (o n : Nat) : Nat := ofBytes ((bs.drop o).take n)

def crcAt : Nat := 0x2C

/-- The image with its CRC (R350). -/
def sealImage (bs : List Byte) : List Byte :=
  let z := bs.take crcAt ++ toBytes 4 0 ++ bs.drop (crcAt + 4)
  bs.take crcAt ++ toBytes 4 (Crypto.crc32c z).toNat ++ bs.drop (crcAt + 4)

def crcOk (bs : List Byte) : Bool := sealImage bs == bs

/-! ### A group (R349, R351) -/

def Entry.code (e : Entry) : Nat :=
  e.addr % 2 ^ 56 + e.mask.toNat * 2 ^ 56 + e.aux.toNat * 2 ^ 88 + (match e.kind with | .split => 0 | .call => 1 | .trap => 2 | .pend => 3) * 2 ^ 120 +
  e.d.toNat * 2 ^ 122 + e.b.toNat * 2 ^ 123

def Entry.ofCode (x : Nat) : Entry :=
  { kind := match bitsAt x 120 2 with | 0 => .split | 1 => .call | 2 => .trap | _ => .pend
    b := bitsAt x 123 1 == 1, d := bitsAt x 122 1 == 1, addr := bitsAt x 0 56, mask := BitVec.ofNat 32 (bitsAt x 56 32)
    aux := BitVec.ofNat 32 (bitsAt x 88 32) }

/-- An operand-log entry (R212). -/
def LogEntry.code (e : LogEntry) : Nat :=
  e.inst.toNat + e.pc * 2 ^ 96 + e.fmask.toNat * 2 ^ 160 + e.va * 2 ^ 192 + e.state * 2 ^ 256 + e.cause * 2 ^ 264 + e.seq * 2 ^ 288

def Traps.word (t : Traps) (dbg : Bool) : Nat := t.level + t.epcw1.toNat * 4 + t.epcw2.toNat * 8 + dbg.toNat * 16

/-- Is the wait of a group satisfied as its image says (R253)? A copy's wait is, once its command has completed (R310). -/
def waitBit (s : State) (g : Ctx) : Bool :=
  g.wait.sat || (g.wait.kind == 8 && !s.cmds.any (fun c => c.c == g.ids.ref && c.cid == g.wait.comparand))

/-- The bytes of a group after its header: `locks` is the number of listed locks. -/
def groupBody (s : State) (g : Ctx) (locks : Nat) : List Byte :=
  let f := g.flow
  let t := g.traps
  let w := g.wait
  layout 128
    [(0x00, 8, f.pc), (0x08, 4, f.active.toNat), (0x0C, 4, f.exited.toNat), (0x10, 4, f.dead.toNat), (0x14, 4, f.sig.toNat),
     (0x18, 4, g.gmode.toNat), (0x1C, 4, g.gstat.toNat), (0x20, 1, f.lSplit.toNat + 2 * f.lJoin.toNat + 8 * f.lResume.toNat),
     (0x21, 1, f.stack.length), (0x22, 1, g.n), (0x23, 1, g.rho), (0x24, 1, g.mclass), (0x25, 1, g.climit), (0x28, 8, g.mark.toNat),
     (0x30, 8, g.ks.toNat), (0x38, 8, g.ns.toNat), (0x40, 1, g.ld), (0x41, 1, g.cmds.cp), (0x42, 1, g.cmds.mx), (0x43, 1, g.cmds.sc),
     (0x44, 4, g.cmds.seq), (0x48, 8, g.sched.sliceLeft),
     (0x50, 4, g.sched.expiry.toNat + 2 * g.sched.halted.toNat + 4 * (g.sched.held || g.sched.forceHeld).toNat + 8 * g.sched.attached.toNat), (0x54, 4, locks)] ++
  layout 64 [(0x00, 8, t.epc1.toNat), (0x08, 8, t.epc2.toNat), (0x10, 8, t.eval1.toNat), (0x18, 8, t.eval2.toNat), (0x20, 8, t.tvec1.toNat),
    (0x28, 8, t.tvec2.toNat), (0x30, 4, t.ecause1.toNat), (0x34, 4, t.ecause2.toNat), (0x38, 4, t.word g.sched.attached)] ++
  layout 64 [(0x00, 1, w.kind), (0x08, 8, w.addr % 2 ^ 63 + (waitBit s g).toNat * 2 ^ 63), (0x10, 8, w.comparand),
    (0x18, 8, if w.kind = 8 then 0 else w.witness.toNat)] ++
  ((List.range 16).map (fun i => toBytes 8 (g.rdW i).toNat)).flatten ++
  ((List.range 64).map (fun i => toBytes 4 (g.rdS i).toNat)).flatten ++
  ((List.range 8).map (fun i => toBytes 4 (g.rdP i).toNat)).flatten ++
  toBytes 1 ((List.range 8).foldl (fun a i => a + (g.rdC i).toNat * 2 ^ i) 0) ++ List.replicate 31 (0 : Byte) ++
  layout 64 [(0x00, 1, match g.slot.mode with | .idle => 0 | .all => 1 | .any => 2), (0x01, 1, g.slot.va), (0x02, 1, g.slot.wd),
    (0x04, 4, g.slot.rem.toNat), (0x08, 4, g.pop.size), (0x0C, 4, g.pop.gen), (0x10, 8, g.pop.total.toNat), (0x18, 4, g.pop.home),
    (0x1C, 4, g.pop.index)] ++
  layout 512 (f.stack.reverse.zipIdx.map (fun (e, i) => (16 * i, 16, e.code))) ++
  layout 256 (g.log.map (fun e => (64 * e.ix, 64, e.code))) ++
  ((List.range 32).map (fun l => toBytes 8 (g.pop.lineage.get 0 l).toNat)).flatten ++
  ((List.range (32 * g.bound)).map (fun k => toBytes 4 (g.regs.v.get 0 k).toNat)).flatten

/-- The 8-byte unit of a group image that holds an S, P, C or W register, by its key in `Regs.up`. -/
def unitOfReg (k : Nat) : Nat := if k < 64 then 0x50 + k / 2 else if k < 72 then 0x70 + (k - 64) / 2 else if k < 80 then 0x74 else 0x40 + (k - 80)

/-- The poisoned units of a group image, in 8-byte units from its start: two lanes of a register, or two registers, share one. -/
def groupBad (g : Ctx) : List Nat :=
  (g.regs.vp.raised.map (fun k => 0x100 + k / 2) ++ g.regs.up.raised.map unitOfReg).eraseDups

/-- The keys below `n` whose registers a poisoned unit restores to poison (R349): those of the unit that the saved context `p` had poisoned, or, when
it had none of them (an image of another device, an error in memory), all of them (DESIGN CHOICE, log 42). -/
def poisonBack (bad : List Nat) (unit : Nat → Nat) (p : SMap Bool) (n : Nat) : SMap Bool :=
  let units := p.raised.map unit
  SMap.ofFn false n (fun k => bad.contains (unit k) && (p.get false k || !units.contains (unit k)))

/-- The instruction of a log entry as it is replayed: it acts in exactly the FMASK lanes. -/
def replayOp (now : Nat) (inst : Slot) (g : Ctx) (fmask : Word) (va : Nat) : Option (MemOp × Pend) :=
  let g := { g with flow := { g.flow with active := fmask, dead := 0 } }
  let bare (f : FM) : FM := { f with h := { f.h with n := false, gi := 7 } }
  let wit (f : FM) (p : Pend) : Pend := { p with wit := g.rdW f.wo.toNat }
  match decode inst with
  | .ok i =>
    (match i with
    | .ld f | .ldw f => let f := bare f; some (loadOp f g, loadPend f f.width.regs)
    | .tld f => let f := bare f; some ({ loadOp f g with reqs := tileReqs f g false }, loadPend f (f.rows * f.width.regs))
    | .st f => let f := bare f
               some (storeOp f g, wit f { id := 0, kind := .witness, marks := witReg f.wo, uni := f.h.y, wreg := f.wo.toNat, store := true })
    | .tst f => let f := bare f
                let aon := if f.aon then some ((fmAddr g f true 0).toNat - 8) else none
                some ({ storeOp f g with reqs := tileReqs f g true, aon },
                  wit f { id := 0, kind := .witness, marks := witReg f.wo, wreg := f.wo.toNat, store := true, ready := !f.aon })
    | .atom f => let f := bare f
                 some (atomOp f g, wit f { id := 0, kind := .atomic, marks := destRegs f.h.y f.data.toNat f.width.regs ++ witReg f.wo, uni := f.h.y
                                           wreg := f.wo.toNat, store := true })
    | .wdone f =>
      let a := (g.rdS64 f.a.toNat).toNat
      let x := mergeWit now g.mark (g.rdW f.wf.toNat)
      let status := 2 ^ 31 + (g.rdS f.b.toNat).toNat % 2 ^ 31
      let op : MemOp := { kind := .store, space := .g, width := .b64, uni := true, wo := f.d.toNat }
      some (if va = a + 8 then { op with width := .b32, reqs := [{ lane := 0, addr := a + 8, reg := 0, data := status }] }
            else { op with tail := some status, reqs := [{ lane := 0, addr := a, reg := 0, data := x.toNat }] },
        { id := 0, kind := .witness, marks := if f.d = 15 then [] else [.w f.d.toNat], uni := true, wreg := f.d.toNat, wit := g.rdW f.d.toNat
          store := true, plus := x })
    | _ => none)
  | .error _ => none

/-- Does SEQ a come before SEQ b? -/
def seqBefore (a b : Nat) : Bool := (b + 2 ^ 16 - a) % 2 ^ 16 < 2 ^ 15

/-- A list with an entry put in its place by SEQ. -/
def seqInsert (e : LogEntry) : List LogEntry → List LogEntry
  | [] => [e]
  | x :: xs => if seqBefore e.seq x.seq then e :: x :: xs else x :: seqInsert e xs

/-- The operand log read back, in SEQ order (R213): each waiting entry has its operation and its pending result again, with the number that keeps its
place among the group's other results (R215), else numbered from `id`. Lanes that wait for a peer still do (R196). The levels of an entry, and what has come of its other lanes, are those of the saved context (DESIGN CHOICE, log 42). -/
def logBack (now : Nat) (bs : List Byte) (g : Ctx) (id : Nat) : List LogEntry × List Pend :=
  (List.range 4).foldl (fun (es, ps) ix =>
    let x := field bs (0x600 + 64 * ix) 64
    let state := bitsAt x 256 8
    if state = 0 then (es, ps)
    else
      let inst : Slot := BitVec.ofNat 96 x
      let fmask : Word := BitVec.ofNat 32 (bitsAt x 160 32)
      let watched : MemOp := { kind := .load, space := .g, width := .b64, uni := true
                               reqs := [{ lane := 0, addr := bitsAt x 192 56, reg := 0 }] }
      let was : Option LogEntry := g.log.find? (fun e => e.seq == bitsAt x 288 16 && e.pc == bitsAt x 96 56)
      let old : Option Pend := was.bind (fun e => g.pend.find? (·.id == e.op.pend))
      let level := (was.map LogEntry.level).getD g.traps.level
      let units := (old.map Pend.units).getD []
      let num := (old.map Pend.id).getD (id + ix)
      let (op, p) := match replayOp now inst g fmask (bitsAt x 192 64) with
        | some (op, p) => ({ op with pend := num }, some { p with
            id := num, logged := true, level, killed := (old.map Pend.killed).getD 0, kind := (old.map Pend.kind).getD p.kind
            units := if units.all (·.got.isSome) then units.filter (fun (e : Elem) => e.got.any (fun (x : Nat × Bool) => x.2)) else units
            wit := (old.map Pend.wit).getD p.wit })
        | none => (watched, none)
      let locks := match decode inst with | .ok i => sourcesOf i | .error _ => []
      let e : LogEntry := { ix, seq := bitsAt x 288 16, cause := bitsAt x 264 8, state, va := bitsAt x 192 64, fmask, pc := bitsAt x 96 56, inst
                            op, level, deliveredAt := (was.map LogEntry.deliveredAt).getD g.traps.level, locks := if state = 3 then [] else locks }
      (seqInsert e es, if state = 3 then ps else ps ++ p.toList)) ([], [])

/-- The fields of GMODE, GSTAT, ECAUSEk and TVECk: a reserved field reads zero whatever an image holds (R4, R156, R157, R341). -/
def gmodeMask : Word := 0x0FFF0003
def gstatMask : Word := 0x3F
def ecauseMask : Word := 0x1FF
def tvecMask : DWord := 0x00FFFFFFFFFFFFFF

/-- A group read back from its image; `sh` is the context as it was saved, for what an image does not hold (DESIGN CHOICE, log 42). `id` numbers
the results that waiting entries of its log owe. A YIELD window has no place in the image and ends with the save (log 42). A level above 2, entries beyond
what R109 lets a stack hold, and exited lanes that are active or in an entry are written by no save; they are not read back (log 42). -/
def groupBack (now : Nat) (sh : Ctx) (bs : List Byte) (bad : List Nat) (id : Nat) : Ctx :=
  let w (o n : Nat) : Nat := field bs (0x100 + o) n
  let b32 (o : Nat) : Word := BitVec.ofNat 32 (w o 4)
  let b64 (o : Nat) : DWord := BitVec.ofNat 64 (w o 8)
  let latch := w 0x20 1
  let n := w 0x22 1
  let dead := b32 0x10
  let tl := w 0xB8 4
  let level := min (tl % 4) 2
  let fl := w 0x50 4
  let kind := w 0xC0 1
  let regs := 32 * (64 + 32 * n)
  let g : Ctx := { sh with
    regs := {
      v := SMap.ofFn 0 regs (fun k => BitVec.ofNat 32 (field bs (0x800 + 4 * k) 4))
      vp := poisonBack bad (fun k => 0x100 + k / 2) sh.regs.vp regs
      up := poisonBack bad unitOfReg sh.regs.up 95
      s := SMap.ofFn 0 63 (fun i => BitVec.ofNat 32 (field bs (0x280 + 4 * i) 4))
      p := SMap.ofFn 0 7 (fun i => BitVec.ofNat 32 (field bs (0x380 + 4 * i) 4))
      c := SMap.ofFn false 7 (fun i => (field bs 0x3A0 1).testBit i)
      w := SMap.ofFn 0 15 (fun i => BitVec.ofNat 64 (field bs (0x200 + 8 * i) 8)) }
    flow := { sh.flow with
      pc := w 0 8 % 2 ^ 56, active := b32 8, dead, sig := b32 0x14
      stack := ((List.range (min (w 0x21 1) (30 + level))).map (fun i => Entry.ofCode (field bs (0x400 + 16 * i) 16))).reverse
      lSplit := latch.testBit 0, lJoin := latch.testBit 1, lResume := latch.testBit 3, line := none }
    traps := { level, epcw1 := tl.testBit 2, epcw2 := tl.testBit 3, epc1 := b64 0x80, epc2 := b64 0x88, eval1 := b64 0x90, eval2 := b64 0x98
               tvec1 := b64 0xA0 &&& tvecMask, tvec2 := b64 0xA8 &&& tvecMask, ecause1 := b32 0xB0 &&& ecauseMask, ecause2 := b32 0xB4 &&& ecauseMask, delivered := [] }
    slot := { mode := (match field bs 0x3C0 1 with | 0 => .idle | 1 => .all | _ => .any), va := field bs 0x3C1 1, wd := field bs 0x3C2 1
              rem := BitVec.ofNat 32 (field bs 0x3C4 4) }
    wait := { kind, addr := w 0xC8 8 % 2 ^ 63, comparand := w 0xD0 8
              witness := if kind = 8 then sh.wait.witness else b64 0xD8, sat := kind != 8 && w 0xC8 8 / 2 ^ 63 == 1 }
    sched := { sh.sched with expiry := fl.testBit 0, halted := fl.testBit 1, held := fl.testBit 2, forceHeld := false, haltReq := false
                             attached := fl.testBit 3, sliceLeft := w 0x48 8, yieldUntil := none, stalled := false, promoted := false
                             watch := none, recheck := false, tries := 0 }
    pop := { size := field bs 0x3C8 4, gen := field bs 0x3CC 4, total := BitVec.ofNat 64 (field bs 0x3D0 8), home := field bs 0x3D8 4
             index := field bs 0x3DC 4, lineage := SMap.ofFn 0 32 (fun l => BitVec.ofNat 64 (field bs (0x700 + 8 * l) 8)) }
    cmds := { sh.cmds with cp := w 0x41 1, mx := 0, sc := w 0x43 1, seq := w 0x44 4 }
    mark := b64 0x28, ks := b64 0x30, ns := b64 0x38, gmode := b32 0x18 &&& gmodeMask, gstat := b32 0x1C &&& gstatMask
    n, rho := w 0x23 1, mclass := w 0x24 1, climit := w 0x25 1, lastPage := [] }
  let g := g.exclude (b32 0xC)
  let (log, ps) := logBack now bs g id
  { g with log, logSeq := (log.foldl (fun m e => max m (e.seq + 1)) 0) % 2 ^ 16, pend := sh.pend.filter (fun p => !p.logged) ++ ps }

/-- A register is poisoned: an S register of a uniform form, else an element. -/
def Ctx.spoil (g : Ctx) (uni : Bool) (r l : Nat) : Ctx :=
  if uni then (if r = 63 then g else { g with regs := { g.regs with up := SMap.set false g.regs.up r true } }) else g.poisonV r l

/-- A context as it leaves its core: what has come of results that wait in the operand log is in its registers, poison with it, and the witness
of a store's completed lanes is in its register and in the store mark; what the image does not hold of them stays beside it. -/
def Ctx.leaving (now : Nat) (g : Ctx) : Ctx :=
  (g.pend.filter (·.logged)).foldl (fun g p =>
    let got := p.units.filter (·.got.isSome)
    let bad := got.filter (fun e => (e.got.map (·.2)).getD false)
    let g := g.landUnits { p with units := got } (maskOf (bad.map (·.lane)))
    let g := bad.foldl (fun g e => (List.range e.width.regs).foldl (fun g i => g.spoil p.uni (e.reg + i) e.lane) g) g
    if p.store then { g.wrW p.wreg p.wit with mark := mergeWit now g.mark p.wit } else g) g

/-- A group image (R349, R350). -/
def groupImage (s : State) (g : Ctx) (forced : Bool) (locks : List Nat) : List Byte :=
  let body := groupBody s g locks.length
  let tail := layout (roundUp (8 * locks.length) 64) (locks.zipIdx.map (fun (x, i) => (8 * i, 8, x)))
  sealImage (layout 256
    [(0x00, 4, 0x4B4C4358), (0x04, 2, 1), (0x07, 1, forced.toNat * 2), (0x08, 8, g.handle.toNat), (0x10, 4, 256 + body.length + tail.length),
     (0x14, 1, g.ids.world), (0x16, 2, g.ids.asn), (0x18, 8, Config.deviceId.toNat), (0x20, 8, s.clock), (0x28, 4, g.ids.core)] ++ body ++ tail)

/-! ### A team (R352) -/

def Bell.code (b : Bell) : Nat :=
  b.expect + b.arrived * 2 ^ 6 + b.next * 2 ^ 12 + b.phase * 2 ^ 64 + b.acc.toNat * 2 ^ 96 + b.pwit.toNat * 2 ^ 160 + b.amask.toNat * 2 ^ 224

def Bell.ofCode (x : Nat) (ranked : List Ranked) : Bell :=
  { expect := bitsAt x 0 6, arrived := bitsAt x 6 6, next := bitsAt x 12 6, phase := bitsAt x 64 32, acc := BitVec.ofNat 64 (bitsAt x 96 64)
    pwit := BitVec.ofNat 64 (bitsAt x 160 64), amask := BitVec.ofNat 32 (bitsAt x 224 32), ranked }

def tileBlock : Nat := 0x8840

/-- A tile's block; G reads as 1.0 in sum mode (R97). -/
def tileBytes (t : Tile) : List Byte :=
  let pairs (n : Nat) (p m : SMap DWord) : List Byte := ((List.range n).map (fun i => toBytes 8 (p.get 0 i).toNat ++ toBytes 8 (m.get 0 i).toNat)).flatten
  ((List.range 2048).map (fun i => toBytes 8 (t.c.get 0 i).toNat ++ toBytes 8 (t.gAt (i / 32) (i % 32)))).flatten ++
  pairs 64 t.pr t.mr ++ pairs 32 t.pc t.mc ++ toBytes 16 t.exact.toNat ++
  ((List.range 32).map (fun c => toBytes 8 (t.h.get 0 c).toNat)).flatten ++ toBytes 4 t.uf.toNat ++ toBytes 4 t.hp.toNat ++
  toBytes 8 (t.aff.toNat + 2 * t.rev.toNat) ++
  ((List.range 256).map (fun i => BitVec.ofNat 8 ((List.range 8).foldl (fun a k => a + (t.pois.get false (8 * i + k)).toNat * 2 ^ k) 0))) ++
  List.replicate 32 (0 : Byte)

/-- A tile read back: a poisoned unit poisons the element, the checksum or the carry that it holds (R429). -/
def tileBack (bs : List Byte) (bad : List Nat) : Tile :=
  let w (o : Nat) : DWord := BitVec.ofNat 64 (field bs o 8)
  { c := SMap.ofFn 0 2048 (fun i => w (16 * i)), g := SMap.ofFn 0 2048 (fun i => w (16 * i + 8))
    pr := SMap.ofFn 0 64 (fun i => w (32768 + 16 * i)), mr := SMap.ofFn 0 64 (fun i => w (32776 + 16 * i))
    pc := SMap.ofFn 0 32 (fun i => w (33792 + 16 * i)), mc := SMap.ofFn 0 32 (fun i => w (33800 + 16 * i))
    exact := field bs 34304 1 % 2 == 1, h := SMap.ofFn 0 32 (fun c => w (34320 + 8 * c))
    uf := BitVec.ofNat 32 (field bs 34576 4)
    hp := BitVec.ofNat 32 (field bs 34580 4) ||| maskWhere (fun c => bad.contains (4290 + c)), ckp := SMap.ofFn false 193 (fun k => bad.contains (4096 + k))
    aff := (field bs 34584 1).testBit 0, rev := (field bs 34584 1).testBit 1
    pois := SMap.ofFn false 2048 (fun k => (field bs (34592 + k / 8) 1).testBit (k % 8) || bad.contains (2 * k) || bad.contains (2 * k + 1)) }

/-- A team image with the offsets and contexts of its groups: the scratchpad's bytes and poisoned units come from memory. -/
def teamImage (s : State) (t : Team) (gs : List Ctx) (forced : Bool) (locks : List Nat) : List Byte × List Nat × List (Ctx × Nat) :=
  let m := t.tiles.length
  let lockOff := 0x1440 + m * tileBlock
  let padOff := lockOff + roundUp (8 * locks.length) 64
  let first := padOff + roundUp t.csize 64
  let pad := Loc.core t.core t.cbase
  let imgs := gs.map (fun g => (g, groupImage s g forced []))
  let (offs, size) := imgs.foldl (fun ((os : List (Ctx × Nat)), (o : Nat)) (g, b) => (os ++ [(g, o)], o + b.length)) (([] : List (Ctx × Nat)), first)
  let h := (gs.head?.map (·.ids)).getD { ref := .secure }
  let bs := layout 256
    [(0x00, 4, 0x4B4C4358), (0x04, 2, 1), (0x06, 1, 1), (0x07, 1, forced.toNat * 2), (0x08, 8, h.grid * 2 ^ 32 + h.gidx), (0x10, 4, size)
     , (0x14, 1, h.world), (0x16, 2, h.asn), (0x18, 8, Config.deviceId.toNat), (0x20, 8, s.clock), (0x28, 4, t.core), (0x30, 1, gs.length)
     , (0x31, 1, m), (0x34, 4, t.csize), (0x38, 4, locks.length), (0x40, 4, lockOff), (0x44, 4, padOff), (0x48, 4, first)] ++
    ((List.range 24).map (fun i => toBytes 32 (t.bells.getD i {}).code)).flatten ++
    ((List.range 4160).map (fun i => t.tabs.get 0 i)) ++
    (t.tiles.map tileBytes).flatten ++ layout (roundUp (8 * locks.length) 64) (locks.zipIdx.map (fun (x, i) => (8 * i, 8, x))) ++
    s.mem.readB pad t.csize ++ List.replicate (roundUp t.csize 64 - t.csize) (0 : Byte) ++ (imgs.map (·.2)).flatten
  let bad := t.tabBad.raised.map (0x80 + ·) ++
    (t.tiles.zipIdx.map (fun (x, j) => x.ckp.raised.map ((0x1440 + j * tileBlock) / 8 + 4096 + ·))).flatten ++
    (List.range (ceilDiv t.csize 8)).filterMap (fun i => if s.poisoned (pad + 8 * i) then some (padOff / 8 + i) else none) ++
    (offs.map (fun (g, o) => (groupBad g).map (o / 8 + ·))).flatten
  (sealImage bs, bad, offs)

/-! ### Images in memory -/

/-- The location and key of an address that an image names; none when it does not translate. -/
def State.imgLoc (s : State) (cluster asn world va : Nat) (k : AccKind) : Option (Nat × Crypt) :=
  match s.engTranslate cluster asn world va k with
  | .ok (_, t) => some (t.loc va, t.crypt)
  | .error _ => none

/-- Does every page of a range translate? -/
def State.imgPages (s : State) (cluster asn world va n : Nat) (k : AccKind) : Bool :=
  (pagesOf [(va, n)]).all (fun p => (s.imgLoc cluster asn world (p * 2 ^ 16) k).isSome)

/-- Read the units of an image from unit `i` on: the errors met are counted and logged (R415, R428). -/
def State.readUnits (s : State) (cluster asn world va : Nat) : Nat → Nat → State × List Byte × List Nat
  | 0, _ => (s, [], [])
  | n + 1, i =>
    let (s, v, src) := match s.imgLoc cluster asn world (va + 8 * i) .load with
      | some (l, c) => s.peek c l 8
      | none => (s, 0, none)
    let (s, bs, bad) := readUnits s cluster asn world va n (i + 1)
    (s, toBytes 8 v ++ bs, if src.isSome then i :: bad else bad)

/-- Read an image: its bytes and poisoned units. -/
def State.readImg (s : State) (cluster asn world va n : Nat) : Option (State × List Byte × List Nat) :=
  if s.imgPages cluster asn world va n .load then some (s.readUnits cluster asn world va (n / 8) 0) else none

/-- Write an image: its writes perform at once. -/
def State.writeImg (s : State) (cluster asn world va : Nat) (bs : List Byte) (bad : List Nat) : State :=
  (List.range (bs.length / 8)).foldl (fun s i =>
    match s.imgLoc cluster asn world (va + 8 * i) .store with
    | some (l, c) =>
      let s := s.poke c l ((bs.drop (8 * i)).take 8)
      (if bad.contains i then s.poisonRange l 8 else s).notice l
    | none => s) s

/-- The domain that an image's writes reach from a core (R194). -/
def State.imgDom (s : State) (core cluster asn world va n : Nat) : Dom :=
  (pagesOf [(va, n)]).foldl (fun d p =>
    match s.imgLoc cluster asn world (p * 2 ^ 16) .store with
    | some (l, _) => d.join (destDom l)
    | none => d) { scope := 1, id := core }

/-- Where a saved context lies: its record, the context as saved, its image's address. -/
def State.savedAt (s : State) (c : CtxRef) : Option (Saved × Ctx × Nat) :=
  s.saved.findSome? (fun v => (v.ctxs.find? (fun e => e.1.ids.ref == c)).map (fun (g, o) => (v, g, v.addr + o)))

/-- Act on a group that lies in the image at an address: it is read back, the action runs as on a resident group, and the image is
written again; causes delivered to it wait for its restore. -/
def State.inImageAt (s : State) (cluster asn world addr : Nat) (sh : Ctx) (f : State → State) : Option State :=
  match s.readImg cluster asn world addr 24 with
  | none => none
  | some (_, h, _) =>
    let size := field h 0x10 4
    match s.readImg cluster asn world addr size with
    | none => none
    | some (s, bs, bad) =>
      let c := sh.ids.ref
      let id := s.nextId
      let s1 : State := { s with others := s.others ++ [groupBack s.now sh bs bad id], nextId := id + 4 }
      let t := f s1
      match t.ctx? c with
      | none => none
      | some g =>
        let keep := g.leaving s.now
        let locks := field bs 0x154 4
        let body := groupBody t keep locks
        let t := { t with others := t.others.filter (fun x => x.ids.ref != c)
                          late := t.late ++ g.traps.delivered.map (fun d => (c, d))
                          saved := t.saved.map (fun (v : Saved) => { v with ctxs := v.ctxs.map (fun (e : Ctx × Nat) => if e.1.ids.ref = c then (keep, e.2) else e) }) }
        some (t.writeImg cluster asn world addr (sealImage (bs.take 256 ++ body ++ bs.drop (256 + body.length))) (groupBad keep))

/-- Act on a group wherever it is: resident, or in its image. -/
def State.anywhere (s : State) (c : CtxRef) (f : State → State) : State :=
  if (s.ctx? c).isSome then f s
  else match s.savedAt c with
    | none => s
    | some (v, g, a) =>
      match s.inImageAt v.cluster v.asn v.world a g f with
      | none => s
      | some t =>
        if v.isTeam then
          match t.readImg v.cluster v.asn v.world v.addr 24 with
          | none => t
          | some (_, h, _) =>
            (match t.readImg v.cluster v.asn v.world v.addr (field h 0x10 4) with
            | none => t
            | some (t, bs, bad) => t.writeImg v.cluster v.asn v.world v.addr (sealImage bs) bad)
        else t

/-- A group parked at a peer load wakes when every lane's data is written, into its registers or into its image (R196, R251). -/
def execPeerLoadReturn (s : State) : Res :=
  let find (s : State) : Option Pend := (s.known s.arg.c).bind (fun g => g.pend.find? (fun p => p.id == s.arg.id && p.kind == .peer))
  match find s with
  | none => .next s
  | some p =>
    let s := s.performLoads p
    match find s with
    | some p =>
      .next (if p.complete then
        s.anywhere s.arg.c (fun s =>
          (s.land s.arg.c p).modCtx s.arg.c (fun g => if g.wait.kind = 4 ∧ g.wait.addr = p.id then g.setWait { g.wait with sat := true } else g))
      else s)
    | none => .next s

end Sys2Proof.Machine
end

