-- ==== Sys2Proof/Machine/Engines.lean ====
section
/-! DEFINITION. Copy-engine and scan commands (R299 to R313). A command runs row by row; each row is one event. -/

namespace Sys2Proof.Machine

/-! ### Creating a command (R299 to R303, R311, R313) -/

/-- The copy engine of a context. -/
def Ctx.engine (g : Ctx) : Nat :=
  match g.ids.ref.sysIndex with
  | some i => Config.nCores + i
  | none => g.ids.core

/-- Parameter k of an instruction's block. -/
def parm (f : FC) (g : Ctx) (k : Nat) : Nat := (g.rdS (f.sa.toNat + k)).toNat

/-- The address of a side from parameters k and k + 1: one register for C, K and D. -/
def sideAddr (f : FC) (g : Ctx) (sp : Space) (k : Nat) : Nat := if sp = .g then parm f g k + 2 ^ 32 * parm f g (k + 1) else parm f g k

/-- Where address 0 of a side lies; G addresses are translated. -/
def sideLoc (s : State) (sp : Space) : Nat := if sp = .g then 0 else s.place s.g sp 0

/-- The command a CPY creates. -/
def cpyCmd (f : FC) (s : State) : EngCmd :=
  let g := s.g
  let m := f.imm.toNat
  let fn := f.fn.toNat
  let dsp := Space.ofCode (m % 4)
  let ssp := Space.ofCode (m / 4 % 4)
  { id := s.nextId, c := g.ids.ref, grid := g.ids.grid, team := g.ids.team, cid := g.cmds.seq, core := g.engine, cluster := g.cluster, org := g.dom
    asn := g.ids.asn, world := g.ids.world, level := g.traps.level, pc := g.flow.pc, scn := false, fn, dsp, ssp, aon := m.testBit 4
    src := sideAddr f g ssp 0, dst := sideAddr f g dsp 2, sloc := sideLoc s ssp, dloc := sideLoc s dsp
    n := parm f g 4, rows := parm f g 5, sstride := parm f g 6, dstride := parm f g 7
    pattern := g.rd true f.sb.toNat 0 (if m.testBit 7 then 2 else 1), wide := m.testBit 7
    list := (g.rdS f.sb.toNat).toNat, iw := if m.testBit 5 then 4 else 2, wreg := f.reply.toNat, dom := g.dom }

/-- The command an SCN creates; its id has bit 31 set (R313). -/
def scnCmd (f : FC) (s : State) : EngCmd :=
  let g := s.g
  let m := f.imm.toNat
  let dsp := Space.ofCode (m % 4)
  { id := s.nextId, c := g.ids.ref, grid := g.ids.grid, team := g.ids.team, cid := 2 ^ 31 + g.cmds.seq, core := g.engine, cluster := g.cluster
    org := g.dom, asn := g.ids.asn, world := g.ids.world, level := g.traps.level, pc := g.flow.pc, scn := true, fn := f.fn.toNat, dsp, ssp := .g
    ty := (Ty.ofCode (m / 4 % 32)).getD .i32, fofs := m / 256 % 4096
    src := sideAddr f g .g 0, dst := sideAddr f g dsp 2, dloc := sideLoc s dsp
    n := ((Ty.ofCode (m / 4 % 32)).getD .i32).bits / 8, first := parm f g 4, rows := parm f g 5, sstride := parm f g 6, dstride := parm f g 7
    pattern := (g.rdS64 f.sb.toNat).toNat, wreg := f.reply.toNat, dom := g.dom }

namespace EngCmd
def fill (c : EngCmd) : Bool := !c.scn && c.fn == 3
def gath (c : EngCmd) : Bool := !c.scn && c.fn == 1
def scat (c : EngCmd) : Bool := !c.scn && c.fn == 2
/-- The source address of a row (R304), or of its compared element (R311). -/
def srcRow (c : EngCmd) (r : Nat) : Nat :=
  if c.scn then c.src + (c.first + r) * c.sstride + c.fofs else c.src + (if c.gath then c.idx.getD r 0 else r) * c.sstride
/-- The destination address of a row. -/
def dstRow (c : EngCmd) (r : Nat) : Nat := c.dst + (if c.scat then c.idx.getD r 0 else r) * c.dstride
/-- Nothing to do (R302). -/
def empty (c : EngCmd) : Bool := !c.scn && (c.n == 0 || c.rows == 0)
/-- The ranges a command reads; those of an indexed side only with its list. -/
def reads (c : EngCmd) : List (Nat × Nat) := if c.fill || c.empty then [] else (List.range c.rows).map (fun r => (c.srcRow r, c.n))
/-- The ranges a command writes: rows and version word, or pairs and header. -/
def writes (c : EngCmd) : List (Int × Nat) :=
  if c.scn then [(c.dst, 16 + 16 * c.dstride)]
  else if c.empty then []
  else (if c.aon then [((c.dst : Int) - 8, 8)] else []) ++ (List.range c.rows).map (fun r => ((c.dstRow r : Int), c.n))
end EngCmd

/-- Bounds, then world, of ranges of a side (R188 to R190): the failures in order. -/
def sideFaults (s : State) (sp : Space) (k : AccKind) (rs : List (Int × Nat)) : List (Nat × Nat) :=
  rs.filterMap (fun (a, n) =>
    if sp = .g then (if a < 0 ∨ (2 ^ 56 : Nat) < a + n then some (0x12, wrapTo 56 a) else none)
    else (s.judge s.g sp k 1 a a n).map (·, wrapTo 56 a))

/-- The fault of ranges: bounds before world, lane 0 reported. -/
def rangeFault (fs : List (Nat × Nat)) : Option (Nat × DWord) :=
  ((fs.find? (·.1 == 0x12)).orElse fun _ => fs.head?).map (fun (c, a) => (c, laneEval 0 a))

def natRange (r : Nat × Nat) : Int × Nat := ((r.1 : Int), r.2)

/-- The checks of a CPY at issue (R302, R303): alignment, limits, bounds, world. The manual does not say what EVAL holds when a row size or a
stride is misaligned: a free value. -/
def cpyFault (f : FC) (s : State) (c : EngCmd) : Option (Nat × DWord) :=
  let al := if c.wide && c.fill then 8 else 4
  let idx := c.gath || c.scat
  let reg (k : Nat) : Option (Nat × DWord) := some (0x12, BitVec.ofNat 64 (f.sa.toNat + k))
  let span := (c.rows - 1) * c.dstride + c.n
  if !c.fill && c.src % al != 0 then some (0x13, laneEval 0 c.src)
  else if c.dst % (if c.aon then 16 else al) ≠ 0 then some (0x13, laneEval 0 c.dst)
  else if c.n % al ≠ 0 ∨ (!c.fill && c.sstride % al != 0) ∨ c.dstride % al ≠ 0 then some (0x13, s.free 1)
  else if idx && c.list % c.iw != 0 then some (0x13, laneEval 0 c.list)
  else if c.aon && c.dsp == .g && !c.empty && !c.scat && decide (((c.dst : Int) - 8) / (2 ^ 16 : Nat) ≠ (c.dst + span - 1 : Nat) / (2 ^ 16 : Nat)) then
    some (0x13, laneEval 0 c.dst)
  else if 2 ^ 24 < c.n then reg 4
  else if 65536 < c.rows then reg 5
  else if 2 ^ 28 < c.n * c.rows then reg 4
  else if c.aon && !c.empty && !c.scat && decide (65536 < span) then reg 4
  else rangeFault
    ((if c.gath then [] else sideFaults s c.ssp .load (c.reads.map natRange)) ++
     (if c.scat then (if c.aon && !c.empty then sideFaults s c.dsp .store [((c.dst : Int) - 8, 8)] else []) else sideFaults s c.dsp .store c.writes) ++
     (if idx && !c.empty then sideFaults s .c .load [((c.list : Int), c.rows * c.iw)] else []))

/-- The checks of an SCN at issue (R311). -/
def scnFault (f : FC) (s : State) (c : EngCmd) : Option (Nat × DWord) :=
  let reg (k : Nat) : Option (Nat × DWord) := some (0x12, BitVec.ofNat 64 (f.sa.toNat + k))
  if 0 < c.rows ∧ c.srcRow 0 % c.n ≠ 0 then some (0x13, laneEval 0 (c.srcRow 0))
  else if 1 < c.rows ∧ c.srcRow 1 % c.n ≠ 0 then some (0x13, laneEval 0 (c.srcRow 1))
  else if c.dst % 16 ≠ 0 then some (0x13, laneEval 0 c.dst)
  else if 2 ^ 24 < c.rows then reg 5
  else if 2 ^ 20 < c.dstride then reg 7
  else rangeFault (sideFaults s .g .load (c.reads.map natRange) ++ sideFaults s c.dsp .store c.writes)

/-! ### Replies (R307, R313) -/

/-- Change one command. -/
def State.modCmd (s : State) (id : Nat) (f : EngCmd → EngCmd) : State :=
  { s with cmds := s.cmds.map (fun x => if x.id = id then f x else x) }

/-- A reply reaches a context: its W register, its counter, and the wait of a CPY .YC. -/
def replyIn (c : EngCmd) (w : DWord) (g : Ctx) : Ctx :=
  let g := { g.wrW c.wreg w with pend := g.pend.filter (fun p => p.id != c.id) }
  let g := if c.scn then { g with cmds := { g.cmds with sc := g.cmds.sc - 1 } } else { g with cmds := { g.cmds with cp := g.cmds.cp - 1 } }
  if g.wait.kind = 8 ∧ g.wait.comparand = c.cid then { g with wait := { g.wait with witness := w } } else g

/-- The reply of a command is formed, in the group or in its image (R307, R310). -/
def State.cmdReply (s : State) (c : EngCmd) (w : DWord) : State :=
  let s := ({ s with cmds := s.cmds.filter (fun x => x.id != c.id) } : State).anywhere c.c (·.modCtx c.c (replyIn c w))
  if c.c.isSys then s else s.gridCovers c.grid w

/-- A command ends with an engine fault (R277, R306). -/
def State.cmdFault (s : State) (c : EngCmd) (cause va : Nat) : State :=
  (s.cmdReply c 0).deliver c.c { cause, value := va, level := c.level }

/-- The context of a command, resident or saved. -/
def State.cmdCtx (s : State) (c : EngCmd) : Option Ctx := (s.ctx? c.c).orElse fun _ => (s.savedAt c.c).map (·.2.1)

/-- An absent or denied page goes to the Prefect and the command waits (R306); a system core has nobody to ask. -/
def State.cmdAsk (s : State) (c : EngCmd) (cause va access : Nat) : State :=
  match s.cmdCtx c with
  | none => s.cmdFault c cause va
  | some g =>
    if g.isSys then s.cmdFault c cause va
    else (s.post g.cluster g.ids.core g.ids.slot
      { s.record g 1 with pc := c.pc, tag := 0x80, cause, access, value := BitVec.ofNat 64 va, cmd := c.cid }).modCmd c.id
        (fun x => { x with phase := 2, cause, va })

/-! ### Issue -/

/-- A command is created (R299, R313): its number, its counter, its pending reply. One with nothing to do replies at once (R302). -/
def State.create (s : State) (c : EngCmd) : State :=
  let s := { s.modG (fun g => { g with
    cmds := { g.cmds with seq := (g.cmds.seq + 1) % 0x7FFFFFFF, last := c.cid
                          cp := if c.scn then g.cmds.cp else g.cmds.cp + 1, sc := if c.scn then g.cmds.sc + 1 else g.cmds.sc }
    pend := if c.wreg = 15 then g.pend
            else g.pend ++ [{ id := c.id, kind := .witness, marks := [.w c.wreg], wreg := c.wreg, ready := false, level := g.traps.level }] }) with
    nextId := s.nextId + 1, cmds := s.cmds ++ [c] }
  if c.empty then s.cmdReply c (mkWit c.org s.now) else s

/-- A CPY of any function (R299 to R303, R309). -/
def copyOp (f : FC) (s : State) : Eff :=
  let c := cpyCmd f s
  match cpyFault f s c with
  | some (cause, v) => .trap cause v
  | none =>
    if 31 ≤ s.g.cmds.cp then .stall s
    else if f.yc then
      .rest (s.create c) { kind := 8, addr := contTarget s.g.flow.pc f, comparand := c.cid, witness := if c.empty then mkWit c.org s.now else 0 }
    else .done (s.create c)

/-- CPY.MOVE (R304). -/
def execCpyMove (f : FC) (s : State) : Res := issue (.cpyMove f) s (copyOp f)
/-- CPY.GATH (R304). -/
def execCpyGath (f : FC) (s : State) : Res := issue (.cpyGath f) s (copyOp f)
/-- CPY.SCAT (R304). -/
def execCpyScat (f : FC) (s : State) : Res := issue (.cpyScat f) s (copyOp f)
/-- CPY.FILL (R304). -/
def execCpyFill (f : FC) (s : State) : Res := issue (.cpyFill f) s (copyOp f)

/-- SCN (R311). -/
def execScn (f : FC) (s : State) : Res :=
  issue (.scn f) s fun s =>
    let c := scnCmd f s
    match scnFault f s c with
    | some (cause, v) => .trap cause v
    | none => if 15 ≤ s.g.cmds.sc then .stall s else .done (s.create c)

/-! ### CPQ (R313) -/

/-- The state of a live command as CPQ gives it. -/
def EngCmd.code (c : EngCmd) : Nat := match c.phase with | 0 => 1 | 2 => 3 | _ => 2

/-- Has a command completed: all its writes have passed, and its reply alone is due (R307, R313)? -/
def EngCmd.complete (c : EngCmd) : Bool := c.phase == 4 || (c.phase == 3 && !c.scn && (!c.aon || c.done || c.lost))

/-- The live commands of the issuing context, and the one with an id. -/
def State.myCmds (s : State) : List EngCmd := s.cmds.filter (fun c => c.c == s.g.ids.ref && !c.complete)
def State.myCmd (s : State) (cid : Nat) : Option EngCmd := s.myCmds.find? (·.cid == cid)

/-- Cancel a command: a queued one ends at once and writes nothing, a queued scan too (DESIGN CHOICE, log 104); another stops at its next row boundary. -/
def State.cancel (s : State) (c : EngCmd) : State :=
  if c.phase = 0 then s.cmdReply c 0
  else s.modCmd c.id (fun x => { x with cancelled := true, phase := if x.phase = 2 ∧ !x.aon then 1 else x.phase })

/-- Write a CPQ result when RE asks for it. -/
def cpqResult (f : FC) (x : Nat) (s : State) : Eff :=
  .done (if f.re then s.modG (·.wrS f.reply.toNat (BitVec.ofNat 32 x)) else s)

/-- CPQ.LAST (R313). -/
def execCpqLast (f : FC) (s : State) : Res := issue (.cpqLast f) s fun s => cpqResult f s.g.cmds.last s
/-- CPQ.QRY (R313). -/
def execCpqQry (f : FC) (s : State) : Res :=
  issue (.cpqQry f) s fun s => cpqResult f (((s.myCmd (s.g.rdS f.sa.toNat).toNat).map EngCmd.code).getD 0) s
/-- CPQ.CAN (R313). -/
def execCpqCan (f : FC) (s : State) : Res :=
  issue (.cpqCan f) s fun s =>
    match s.myCmd (s.g.rdS f.sa.toNat).toNat with
    | none => cpqResult f 0 s
    | some c => cpqResult f c.code (s.cancel c)
/-- CPQ.CANALL (R313). -/
def execCpqCanall (f : FC) (s : State) : Res :=
  issue (.cpqCanall f) s fun s =>
    cpqResult f s.myCmds.length (s.myCmds.foldl State.cancel s)

/-! ### Running (R304 to R308) -/

/-- Stores that the group issued before a command, and the command's own writes, perform before it reads a range (R304, R308); none when one
of them is blocked, or waits in the operand log. -/
def State.settleCmd (s : State) (c : EngCmd) (l n : Nat) : Option State :=
  if s.tiles.any (fun w => w.owner == some c.c && decide (w.id < c.id) && decide (w.ver < l + n ∧ l < w.ver + 8)) || s.storeLogged c.c c.id l n then none
  else (s.accs.filter (fun a => ((a.owner == some c.c && decide (a.seq < c.id)) || a.job == some c.id) && a.overlaps l n)).foldl
    (fun r a => r.bind (fun s => State.perform (s.accs.length + 1) s a.id)) (some s)

/-- The location and key of a byte of a side; none when its peer is down. -/
def sideAt (s : State) (c : EngCmd) (sp : Space) (base a : Nat) : Option (Nat × Crypt) :=
  if sp = .g then
    match (c.trs.find? (fun e => e.1 == a / 2 ^ 16)).map (·.2) with
    | some t => if leafTgt t.entry.toNat = 2 ∧ !s.peerUp (bitsAt t.entry.toNat 24 8) then none else some (t.loc a, t.crypt)
    | none => none
  else some (base + a, {})

/-- The pieces of a range that lie in one aligned 8-byte unit: address and length. -/
def pieces (a n : Nat) : List (Nat × Nat) :=
  (List.range ((a + n + 7) / 8 - a / 8)).map (fun i =>
    let lo := max a ((a / 8 + i) * 8)
    (lo, min (a + n) ((a / 8 + i) * 8 + 8) - lo))

/-- What a read of a range gives. -/
inductive Got where
  | wait
  | down (va : Nat)
  | data (s : State) (bs : List (Byte × Bool))

/-- Read a range of a side with its poison. -/
def readSide (s : State) (c : EngCmd) (sp : Space) (base a n : Nat) : Got :=
  (pieces a n).foldl (fun acc (a, k) =>
    match acc with
    | .data s bs =>
      (match sideAt s c sp base a with
      | none => .down a
      | some (l, cr) =>
        match s.settleCmd c l k with
        | none => .wait
        | some s =>
          let (s, v, bad) := s.peek cr l k
          .data s (bs ++ (toBytes k v).map (·, bad.isSome)))
    | e => e) (.data s [])

/-- The scan unit of a row of a scan: that of the die whose HBM holds the row's element (R218). A scan of no row is the work of a unit of its
context's die, and a scan's header that of its first row's unit (DESIGN CHOICE, log 104). -/
def scanUnit (s : State) (c : EngCmd) (r : Nat) : Dom :=
  match (if c.rows = 0 then none else sideAt s c .g 0 (c.srcRow r)) with
  | some (l, _) => destDom l
  | none => c.org.atScope 3 5

/-- The smallest domain of the dies that a scan reads, and of its context. -/
def scanDom (s : State) (c : EngCmd) : Dom := (List.range c.rows).foldl (fun d r => d.join (scanUnit s c r)) c.dom

/-- Write a range of a side from an origin: its units begin; the first address whose peer is down. -/
def writeSide (s : State) (c : EngCmd) (org : Dom) (a : Nat) (bs : List (Byte × Bool)) : State × Dom × Option Nat :=
  (pieces a bs.length).foldl (fun (s, d, down) (p, k) =>
    match down, sideAt s c c.dsp c.dloc p with
    | none, some (l, cr) =>
      let part := (bs.drop (p - a)).take k
      (s.jobWrite org c.id l (part.map (·.1)) (part.any (·.2)) cr (if c.aon then some c.id else none), d.join (destDom l), none)
    | none, none => (s, d, some p)
    | some x, _ => (s, d, some x)) (s, c.dom, none)

/-- The index list of a command, read once (R304): none while an earlier store to it is blocked; poison in it escalates (R431). -/
def readList (s : State) (c : EngCmd) : Option (State × List Nat × Bool) :=
  if !(c.gath || c.scat) then some (s, [], false)
  else
    let l := (match c.c.sysIndex with | some i => Loc.sys i 0 | none => s.padAt c.grid c.team 0) + c.list
    (s.settleCmd c l (c.rows * c.iw)).map (fun s =>
      (s, (List.range c.rows).map (fun r => s.mem.readN (l + r * c.iw) c.iw), s.rangeBad l (c.rows * c.iw)))

/-- Translate the pages of ranges for a command: the first failure with its address, or the pages. -/
def cmdPages (s : State) (c : EngCmd) (k : AccKind) : List (Nat × Nat) → List Nat → Except (Nat × Nat) (State × List (Nat × Tr))
  | _, [] => .ok (s, [])
  | rs, p :: ps =>
    let va := ((rs.find? (fun (a, n) => decide (p * 2 ^ 16 < a + n ∧ a < (p + 1) * 2 ^ 16))).map (fun (a, _) => max a (p * 2 ^ 16))).getD (p * 2 ^ 16)
    match s.engTranslate c.cluster c.asn c.world va k with
    | .error e => .error (e, va)
    | .ok (s, t) =>
      if c.scn ∧ k = .load ∧ leafTgt t.entry.toNat ≠ 0 then .error (0x11, va)
      else match cmdPages s c k rs ps with
        | .error e => .error e
        | .ok (s, ts) => .ok (s, (p, t) :: ts)

/-- The checks of the indexed side, made by the engine (R306); an all-at-once scatter to G also lies in one page (R302; DEDUCED, log 35). -/
def indexFault (s : State) (c : EngCmd) : Option (Nat × Nat) :=
  match s.cmdCtx c with
  | none => none
  | some g =>
    let s := { s with g }
    let fs := (if c.gath then sideFaults s c.ssp .load (c.reads.map natRange) else []) ++ (if c.scat then sideFaults s c.dsp .store c.writes else [])
    let starts := (List.range c.rows).map c.dstRow
    let fs := if c.scat && c.aon && decide (65536 < starts.foldl max 0 + c.n - starts.foldl min (c.dstRow 0)) then (0x12, c.dst) :: fs else fs
    let split := c.scat && c.aon && c.dsp == .g &&
      starts.any (fun x => decide (x / 2 ^ 16 ≠ (c.dst - 8) / 2 ^ 16 ∨ (x + c.n - 1) / 2 ^ 16 ≠ (c.dst - 8) / 2 ^ 16))
    if split then some (0x13, c.dst) else (fs.find? (·.1 == 0x12)).orElse fun _ => fs.head?

/-- A command starts, or goes on after the Prefect has resolved a page: its list, its indexed rows, its pages (R306). -/
def State.startCmd (s : State) (c : EngCmd) : State :=
  if c.scn && c.cancelled then s.modCmd c.id (fun x => { x with phase := 1 })
  else match readList s c with
  | none => s
  | some (s, idx, bad) =>
    if bad then
      let l := match c.c.sysIndex with | some i => Loc.sys i c.list | none => s.padAt c.grid c.team c.list
      ((s.logError (Loc.source l) 2 l (((s.ctx? c.c).map Ctx.handle).getD 0)).cmdReply c 0).escalate c.c 0x40 c.pc (BitVec.ofNat 64 c.list)
    else
      let c := { c with idx }
      match indexFault s c with
      | some (cause, va) => s.cmdFault c cause va
      | none =>
        let srcs := if c.ssp = .g then c.reads else []
        let dsts := if c.dsp = .g then c.writes.map (fun (a, n) => (a.toNat, n)) else []
        let fail (e : Nat × Nat) (access : Nat) : State :=
          if c.scn ∧ e.1 = 0x11 ∧ access = 3 ∧ ((s.engTranslate c.cluster c.asn c.world e.2 .load).toOption).isSome then s.cmdFault c e.1 e.2
          else if e.1 = 0x10 ∨ e.1 = 0x11 then s.cmdAsk c e.1 e.2 access
          else s.cmdFault c e.1 e.2
        match cmdPages s c .load srcs (pagesOf srcs) with
        | .error e => fail e 3
        | .ok (s, ts) =>
          match cmdPages s c .store dsts (pagesOf dsts) with
          | .error e => fail e 4
          | .ok (s, us) => s.modCmd c.id (fun _ => { c with trs := ts ++ us, phase := 1 })

/-- Copy engine arg.id starts its earliest queued command, at most 8 running (R299). -/
def execCopyCommandStart (s : State) : Res :=
  let mine := s.cmds.filter (fun c => c.core == s.arg.id)
  match mine.find? (·.phase == 0) with
  | none => .next s
  | some c => event s ((mine.filter (·.phase != 0)).length < 8) (·.startCmd c)

/-- The bytes a row writes (R304). -/
def rowData (s : State) (c : EngCmd) : Got :=
  if c.fill then
    let w := if c.wide then 8 else 4
    .data s ((List.range c.n).map (fun i => (BitVec.ofNat 8 (c.pattern / 2 ^ (8 * (i % w))), false)))
  else readSide s c c.ssp c.sloc (c.srcRow c.row) c.n

/-- A peer went down: the command ends once what it wrote has performed, and its reply covers that (R306). -/
def State.cmdLost (s : State) (c : EngCmd) (va : Nat) : State :=
  s.modCmd c.id (fun _ => { c with phase := if c.scn then 4 else 3, lost := true, va, wit := mkWit c.dom s.now })

/-- A command whose writes have begun replies after the last of them has performed (R214). -/
def State.cmdEnd (s : State) (c : EngCmd) : Res :=
  event s (if c.aon && !c.lost then c.done else !s.accs.any (fun a => a.job == some c.id)) fun s =>
    let s := s.cmdReply c c.wit
    if c.lost then s.deliver c.c { cause := 0x10, value := c.va, level := c.level } else s

/-- One row of a copy. -/
def State.rowStep (s : State) (c : EngCmd) : State :=
  match rowData s c with
  | .wait => s
  | .down va => s.cmdLost c va
  | .data s bs =>
    match (if c.aon ∧ c.row = 0 then
        match sideAt s c c.dsp c.dloc (c.dst - 8) with
        | some (l, cr) => (s.settleCmd c l 8).map (fun s =>
            { s with tiles := s.tiles ++ [{ id := c.id, ver := l, owner := none, tick := s.clock, org := c.org, dst := destDom l, crypt := cr, job := some c.id }] })
        | none => some s
      else some s) with
    | none => s
    | some s =>
    match writeSide s c c.org (c.dstRow c.row) bs with
    | (s, dom, some va) => s.cmdLost { c with dom } va
    | (s, dom, none) =>
      let c := { c with dom, row := c.row + 1, wit := mkWit dom s.now }
      s.modCmd c.id (fun _ => if c.row < c.rows then c else { c with phase := 3 })

/-- A copy does its next row; after its last it completes and replies (R307). -/
def copyTurn (s : State) (c : EngCmd) : Res :=
    if c.phase = 3 then s.cmdEnd c
    else if c.phase ≠ 1 then .next s
    else if c.cancelled && !c.aon then .next (s.modCmd c.id (fun c => { c with phase := 3, wit := mkWit c.dom s.now }))
    else .next (s.rowStep c)

/-- Does an element match (R311, R312)? -/
def scnMatch (c : EngCmd) (v : Nat) : Bool :=
  let x := v % 2 ^ c.ty.bits
  let t := c.pattern % 2 ^ c.ty.bits
  if c.ty.isF then
    let x := FV.read (fmtOf c.ty) x
    let t := FV.read (fmtOf c.ty) t
    !x.isNan && !t.isNan && (if c.fn = 0 then !fvLt x t else !fvLt t x)
  else if c.ty.signed then (if c.fn = 0 then decide (signedOf c.ty.bits t ≤ signedOf c.ty.bits x) else decide (signedOf c.ty.bits x ≤ signedOf c.ty.bits t))
  else if c.fn = 0 then decide (t ≤ x) else decide (x ≤ t)

/-- The matching rows of a scan: row index and element bits; none while a store before it is blocked. -/
def scanRows (s : State) (c : EngCmd) : Option (State × List (Nat × Nat)) :=
  (List.range c.rows).foldl (fun acc r => acc.bind (fun (s, ms) =>
    match readSide s c .g 0 (c.srcRow r) c.n with
    | .data s bs =>
      let v := ofBytes (bs.map (·.1))
      some (s, if !bs.any (·.2) && scnMatch c v then ms ++ [(c.first + r, v)] else ms)
    | _ => none)) (some (s, []))

/-- A scan's header (R312). -/
def scanHeader (m pairs status : Nat) : List (Byte × Bool) := (toBytes 8 m ++ toBytes 4 pairs ++ toBytes 4 status).map (·, false)

/-- A scan's header is written: its reply will cover the core, the dies scanned and the destination. -/
def State.scanEnd (s : State) (c : EngCmd) (hdr : List (Byte × Bool)) : State :=
  let all := scanDom s c
  match writeSide s c (scanUnit s c 0) c.dst hdr with
  | (s, dom, none) => s.modCmd c.id (fun _ => { c with phase := 4, dom := dom.join all, wit := mkWit (dom.join all) s.now })
  | (s, dom, some va) => s.cmdLost { c with dom := dom.join all } va

/-- A cancelled scan writes its header alone; an absent or denied page of it goes to the Prefect first (R313). -/
def State.scanCancelled (s : State) (c : EngCmd) : State :=
  let pages := if c.dsp = .g then [(c.dst, 16)] else []
  match cmdPages s c .store pages (pagesOf pages) with
  | .ok (s, ts) => s.scanEnd { c with trs := c.trs ++ ts } (scanHeader 0 0 2)
  | .error (e, va) => if e = 0x10 ∨ e = 0x11 then s.cmdAsk c e va 4 else s.cmdFault c e va

/-- The pairs of a scan begin their writes, each from its row's scan unit. -/
def State.scanPairs (c : EngCmd) : List ((Nat × Nat) × Nat) → State → Dom → State × Dom × Option Nat
  | [], s, d => (s, d, none)
  | ((r, v), p) :: ps, s, d =>
    match writeSide s { c with dom := d } (scanUnit s c (r - c.first)) (c.dst + 16 + 16 * p) ((toBytes 8 r ++ toBytes 8 v).map (·, false)) with
    | (s, d, none) => scanPairs c ps s d
    | (s, d, some va) => (s, d, some va)

/-- A scan (R312): its pairs are written, then its header. A cancelled scan writes the header alone. -/
def scanTurn (s : State) (c : EngCmd) : Res :=
    if c.phase = 1 then
      if c.cancelled then .next (s.scanCancelled c)
      else match scanRows s c with
        | none => .next s
        | some (s, ms) =>
          match State.scanPairs c (ms.take c.dstride).zipIdx s c.dom with
          | (s, dom, some va) => .next (s.cmdLost { c with dom } va)
          | (s, dom, none) => .next (s.modCmd c.id (fun _ => { c with phase := 3, dom, row := ms.length }))
    else if c.phase = 3 then
      event s (!s.accs.any (fun a => a.job == some c.id)) fun s =>
        if c.cancelled then s.scanCancelled c
        else s.scanEnd c (scanHeader c.row (min c.row c.dstride) (if c.dstride < c.row then 1 else 0))
    else if c.phase = 4 then s.cmdEnd c
    else .next s

/-- A group parked on CPY .YC becomes ready at its continuation: its command has ended and the reply is satisfied at its core (R309). -/
def execYcContinue (s : State) : Res :=
  match s.ctx? s.arg.c with
  | none => .next s
  | some g =>
    event s (g.wait.kind == 8 && !g.wait.sat && !s.cmds.any (fun c => c.c == s.arg.c && c.cid == g.wait.comparand) && s.satisfied g.wait.witness g.dom) fun s =>
      s.modCtx s.arg.c (fun g => { g with wait := { g.wait with sat := true }, flow := { g.flow with pc := g.wait.addr, line := none } })

end Sys2Proof.Machine
end

