-- ==== Sys2Proof/Machine/Population.lean ====
section
/-! DEFINITION. Populations: the resample collective (R315 to R325), lineage and record (R326), the generator stream (R327, R328). -/

namespace Sys2Proof.Machine

/-! ### Members (R315) -/

/-- Is a grid a population? -/
def State.isPop (s : State) (gid : Nat) : Bool := s.grids.any (fun x => x.gid == gid && x.desc.flags.testBit 0)

/-- The issuing context belongs to a population, or the instruction raises POP_NONE (R317). -/
def inPop (s : State) (e : State → Eff) : Eff := if !s.g.isSys && s.isPop s.g.ids.grid then e s else .trap 0x31 0

/-- A group of a grid that has not ended. -/
def Ctx.member (g : Ctx) (gid : Nat) : Bool := !g.isSys && g.ids.grid == gid && !g.sched.ended && !g.sched.finalWait

/-- The resident members of a population. -/
def State.membersOf (s : State) (gid : Nat) : List Ctx := s.ctxs.filter (·.member gid)

/-- The members of a population that lie in images. -/
def State.savedMembers (s : State) (gid : Nat) : List Ctx := ((s.saved.map (·.ctxs)).flatten.map (·.1)).filter (·.member gid)

/-- Has a member arrived? -/
def State.arrived (s : State) (c : CtxRef) : Option Arrival := s.arrivals.find? (·.c == c)

/-- A lane is live: neither dead nor vacant (R315). -/
def Ctx.liveMask (g : Ctx) : Word := ~~~(g.flow.dead ||| g.flow.exited)

/-! ### RSMP: arrival (R318) -/

/-- Step 1 of R318 holds. -/
def Ctx.quiet (g : Ctx) : Bool :=
  g.ld == 0 && g.log.isEmpty && g.storesFormed &&
  !g.pend.any (fun p => p.marks.any (fun r => match r with | .v _ | .p _ => true | _ => false))

/-- The lanes of EXEC that consume poison as RSMP reads N and its weights (R318, R430). -/
def rsmpDeaths (f : F3) (g : Ctx) : Word :=
  let all := readsBad (.rsmp f) g
  maskWhere (fun l => bit (g.exec f.h) l && (all || g.vpois f.a.toNat l))

/-- RSMP (R318). -/
def execRsmp (f : F3) (s : State) : Res :=
  issue (.rsmp f) s fun s => inPop s fun s =>
    let g := s.g
    if g.flow.stack ≠ [] then .trap 0x30 (BitVec.ofNat 64 (3 * 2 ^ 56 + g.flow.stack.length))
    else if !g.quiet then .stall s
    else
      let dead := rsmpDeaths f g
      let s := if dead = 0 then s else buried s dead (s.modG (·.kill dead))
      let g := s.g
      let a : Arrival := { c := g.ids.ref, gid := g.ids.grid, n := g.bWord f 0
                           weights := (lanes (g.exec f.h &&& g.liveMask)).map (fun l => (l, g.rdV f.a.toNat l))
                           mark := g.mark, pd := f.d.toNat, wx := f.x.toNat }
      .park { s with arrivals := s.arrivals.filter (fun x => x.c != g.ids.ref) ++ [a] }
        { kind := 9, addr := g.ids.grid, comparand := g.pop.gen }

/-! ### The resample (R320 to R322) -/

/-- A weight in units of 2^-149, and whether it counts as 0 with a flag (R320). -/
def weightOf (x : Word) : Nat × Bool :=
  match FV.read .f32 x.toNat with
  | .fin neg m e => if m = 0 then (0, false) else if neg then (0, true) else (m * 2 ^ (e + 149).toNat, false)
  | _ => (0, true)

/-- A sum of weights rounded to 53 bits, to nearest, ties to even. -/
def round53 (n : Nat) : Nat :=
  let k := n.log2 - 52
  (roundAt .rn 0 false n 0 k).1 * 2 ^ k

/-- A lane of the population. -/
structure Particle where
  g : Nat
  l : Nat
  home : Nat
  dead : Bool
  live : Bool
  w : Nat
  deriving DecidableEq, Repr

namespace Particle
/-- The population index (R315). -/
def ix (p : Particle) : Nat := 32 * p.g + p.l
end Particle

/-- Put a member at its place in the order of groups. -/
def insertMember (m : Ctx × Arrival) : List (Ctx × Arrival) → List (Ctx × Arrival)
  | [] => [m]
  | x :: xs => if m.1.pop.index < x.1.pop.index then m :: x :: xs else x :: insertMember m xs

/-- The lanes of the members in population order. -/
def particles (ms : List (Ctx × Arrival)) : List Particle :=
  let one (m : Ctx × Arrival) : List Particle := (List.range 32).map (fun l =>
    { g := m.1.pop.index, l, home := m.1.pop.home, dead := bit m.1.flow.dead l, live := bit m.1.liveMask l
      w := if bit m.1.liveMask l then (((m.2.weights.find? (·.1 == l)).map (fun e => (weightOf e.2).1)).getD 0) else 0 })
  ((ms.foldl (fun acc m => insertMember m acc) []).map one).flatten

/-- The exact prefix sums. -/
def prefixSums : Nat → List Nat → List Nat
  | _, [] => []
  | a, w :: ws => (a + w) :: prefixSums (a + w) ws

/-- The copy counts (R321): `off` in units of 2^-53. -/
def copyCounts (n off : Nat) (ps : List Particle) : List Nat :=
  let cs := (prefixSums 0 (ps.map (·.w))).map round53
  let W := cs.getLastD 0
  if W = 0 then
    let live := (ps.filter (·.live)).length
    (ps.zip (prefixSums 0 (ps.map (fun p => p.live.toNat)))).map (fun (p, k) =>
      if p.live then n / live + (if k - 1 < n % live then 1 else 0) else 0)
  else
    let fl (c : Nat) : Nat := (c * n * 2 ^ 53 + off * W) / (W * 2 ^ 53)
    (cs.zip (0 :: cs)).map (fun (c, b) => fl c - fl b)

/-- The vacancy a copy of a lane takes (R322). -/
def pickVacancy (p : Particle) (free : List Particle) : Option Particle :=
  ((((free.find? (·.g == p.g)).orElse fun _ => free.find? (·.home == p.home)).orElse fun _ => free.find? (fun v => v.home / 16 == p.home / 16)).orElse
    fun _ => free.find? (fun v => v.home / 160 == p.home / 160)).orElse fun _ => free.head?

/-- The copies k = 1 to `n` of a lane: destination, source, ordinal. -/
def placeCopies (p : Particle) : Nat → Nat → List Particle → List (Particle × Particle × Nat) × List Particle
  | 0, _, free => ([], free)
  | n + 1, k, free =>
    match pickVacancy p free with
    | none => ([], free)
    | some v =>
      let (cs, free) := placeCopies p n (k + 1) (free.filter (fun x => x.ix != v.ix))
      ((v, p, k) :: cs, free)

/-- The assignment of R322. -/
def assign (ps : List (Particle × Nat)) : List (Particle × Particle × Nat) :=
  let free := (ps.filter (fun (p, c) => !p.dead && (!p.live || c == 0))).map (·.1)
  (ps.foldl (fun (cs, free) (p, c) =>
    let (ds, free) := placeCopies p (c - 1) 1 free
    (cs ++ ds, free)) (([] : List (Particle × Particle × Nat)), free)).1

/-! ### The collective (R319, R323, R324) -/

/-- The members with their arrivals, when every member is resident and has arrived (R318, R325). -/
def State.collective (s : State) (gid : Nat) : Option (List (Ctx × Arrival)) :=
  if (s.savedMembers gid).isEmpty && !(s.membersOf gid).isEmpty then
    (s.membersOf gid).foldl (fun acc g => acc.bind (fun ms => (s.arrived g.ids.ref).map (fun a => ms ++ [(g, a)]))) (some [])
  else none

/-- The verdict of the root (R319): the code of a failure. -/
def rsmpVerdict (ms : List (Ctx × Arrival)) : Option Nat :=
  let n := (ms.head?.map (·.2.n)).getD 0
  let alive : Nat := (ms.map (fun (g, _) => (lanes (~~~g.flow.dead)).length)).sum
  let live : Nat := (ms.map (fun (g, _) => (lanes g.liveMask).length)).sum
  if ms.any (fun (_, a) => a.n != n) then some 2
  else if alive < n ∨ (0 < n ∧ live = 0) then some 1
  else none

/-- Every member of a population has arrived, resident or saved. -/
def State.allArrived (s : State) (gid : Nat) : Bool := (s.membersOf gid ++ s.savedMembers gid).all (fun g => (s.arrived g.ids.ref).isSome)

/-- An image that holds a member and has not been asked for. -/
def Saved.toAsk (gid : Nat) (v : Saved) : Bool := !v.asked && v.ctxs.any (fun e => e.1.member gid)

/-- All members of population arg.id have arrived: the Roll unit asks the Prefects to restore those that are saved (R325); when all are resident
the root checks them, and a failure raises RSMP_BAD in each (R319). -/
def execRsmpCollectiveReady (s : State) : Res :=
  match s.collective s.arg.id with
  | none => event s (s.allArrived s.arg.id && s.saved.any (Saved.toAsk s.arg.id)) fun s =>
      { s with saved := s.saved.map (fun v => if v.toAsk s.arg.id then { v with asked := true } else v) }
  | some ms =>
    if ms.all (·.2.ready) then .next s
    else match rsmpVerdict ms with
    | none => .next { s with arrivals := s.arrivals.map (fun a => if a.gid = s.arg.id then { a with ready := true } else a) }
    | some code =>
      let s := { s with arrivals := s.arrivals.filter (fun a => a.gid != s.arg.id) }
      .next (ms.foldl (fun s (g, a) => s.via g.ids.ref fun s => s.raise 0x30 s.g.flow.pc (BitVec.ofNat 64 (code * 2 ^ 56 + a.n))) s)

/-- A lane receives the registers of a copy's source, their poison marks with them: a P register is one mark (R323, R429). -/
def copyLane (src : Ctx) (from_ to_ : Nat) (g : Ctx) : Ctx :=
  let g := (List.range g.bound).foldl (fun g r =>
    if r < 64 then
      let g := g.wrV r to_ (src.rdV r from_)
      if src.vpois r from_ then g.poisonV r to_ else g
    else g.wrV r to_ 0) g
  (List.range 7).foldl (fun g i =>
    let g := g.wrP i (maskOf [to_]) (if bit (src.rdP i) from_ then maskOf [to_] else 0)
    if src.upois (.p i) then { g with regs := { g.regs with up := SMap.set false g.regs.up (64 + i) true } } else g) g

/-- What completion gives a member (R323, R324): `keep` are its lanes that stay live, `into` the copies placed in it. -/
def memberDone (ms : List (Ctx × Arrival)) (n : Nat) (total w : DWord) (a : Arrival) (keep : List Nat) (into : List (Nat × Particle × Nat)) (g : Ctx) : Ctx :=
  let copied := into.foldl (fun h (l, p, _) =>
    match ms.find? (fun m => m.1.pop.index == p.g) with
    | some (src, _) => copyLane src p.l l h
    | none => h) g
  let live := maskOf (keep ++ into.map (·.1))
  let exited := ~~~(live ||| g.flow.dead) ||| (g.flow.exited &&& g.flow.dead)
  let gen := (g.pop.gen + 1) % 2 ^ 32
  let line (parent k : Nat) : DWord := BitVec.ofNat 64 (gen % 2 ^ 20 * 2 ^ 44 + parent % 2 ^ 28 * 2 ^ 16 + min k 0xFFFF)
  let lineage := keep.foldl (fun m l => SMap.set 0 m l (line (32 * g.pop.index + l) 0)) g.pop.lineage
  let lineage := into.foldl (fun m (l, p, k) => SMap.set 0 m l (line p.ix k)) lineage
  { (copied.wrP a.pd allLanes live).wrW a.wx w with
    flow := (({ g with flow := { g.flow with active := allLanes } } : Ctx).exclude exited).flow
    gstat := if a.weights.any (fun e => (weightOf e.2).2) then g.gstat ||| 0x20 else g.gstat
    pop := { g.pop with size := n, gen, total, lineage } }

/-- The seed of a grid (R316). -/
def State.seedOf (s : State) (gid : Nat) : DWord := ((s.grids.find? (·.gid == gid)).map (·.desc.seed)).getD 0

/-- Population arg.id resamples: weights, counts, copies, and each member's completion (R320 to R324). -/
def execRsmpComplete (s : State) : Res :=
  match s.collective s.arg.id with
  | none => .next s
  | some ms =>
    if !ms.all (·.2.ready) then .next s
    else
      let n := (ms.head?.map (·.2.n)).getD 0
      let gen0 := (ms.head?.map (·.1.pop.gen)).getD 0
      let ps := particles ms
      let off := (gen (s.seedOf s.arg.id) (BitVec.ofNat 64 gen0)).toNat / 2 ^ 11
      let counts := copyCounts n off ps
      let pairs := ps.zip counts
      let copies := assign pairs
      let total := BitVec.ofNat 64 (rn64 (.fin false (round53 ((ps.map (·.w)).sum)) (-149)))
      let w := ms.foldl (fun w (_, a) => mergeWit s.now w a.mark) 0
      let s := { s with arrivals := s.arrivals.filter (fun a => a.gid != s.arg.id) }
      .next (ms.foldl (fun s (g, a) => s.via g.ids.ref fun s =>
        let keep := (pairs.filter (fun (p, c) => p.g == g.pop.index && 0 < c)).map (·.1.l)
        let into := (copies.filter (fun (v, _, _) => v.g == g.pop.index)).map (fun (v, p, k) => (v.l, p, k))
        retire 0x98 s (s.modG (memberDone ms n total w a keep into)) (nextPc s.g.flow.pc)) s)

/-! ### Lineage, record, stream (R326 to R328) -/

/-- What LINRD gives a lane (R326). -/
def linField (g : Ctx) (k l : Nat) : Nat :=
  let x := (g.pop.lineage.get 0 l).toNat
  match k with
  | 0 => x
  | 1 => x / 2 ^ 44
  | 2 => x / 2 ^ 16 % 2 ^ 28
  | 3 => x % 2 ^ 16
  | _ => 32 * g.pop.index + l

/-- LINRD (R326). -/
def execLinrd (f : F3) (s : State) : Res :=
  issue (.linrd f) s fun s => inPop s fun s => putD f (if f.var = 0 then 2 else 1) (fun g l => linField g f.var.toNat l) s

/-- RNGS.SET (R327). -/
def execRngsSet (f : F3) (s : State) : Res :=
  issue (.rngsSet f) s fun s => .done (s.modG (fun g => { g with ks := g.rdS64 f.a.toNat, ns := g.rdS64 f.b.toNat }))
/-- RNGS.GETK (R327). -/
def execRngsGetk (f : F3) (s : State) : Res := issue (.rngsGetk f) s fun s => .done (s.modG (fun g => g.wrS64 f.d.toNat g.ks))
/-- RNGS.GETN (R327). -/
def execRngsGetn (f : F3) (s : State) : Res := issue (.rngsGetn f) s fun s => .done (s.modG (fun g => g.wrS64 f.d.toNat g.ns))

/-- The result of RNG from a generator output (R328). -/
def rngValue (t : Ty) (x : Nat) : Nat :=
  match t with
  | .b64 => x
  | .f32 => (RoundCtl.of { f := .f32 } (.fin false (x / 2 ^ 40) (-24))).1
  | .f64 => rn64 (.fin false (x / 2 ^ 11) (-53))
  | _ => x / 2 ^ 32

/-- RNG (R328); the frame of every instruction advances NS. -/
def execRng (f : F3) (s : State) : Res :=
  issue (.rng f) s (putD f f.ty.regs (fun g l => rngValue f.ty (draw g f.h.y 0 l).toNat))

/-- POPQ (R326). -/
def execPopq (f : F3) (s : State) : Res :=
  issue (.popq f) s fun s => inPop s fun s =>
    .done (s.modG (fun g =>
      if f.var = 0 then g.wrS f.d.toNat (BitVec.ofNat 32 g.pop.size)
      else if f.var = 1 then g.wrS f.d.toNat (BitVec.ofNat 32 g.pop.gen)
      else g.wrS64 f.d.toNat g.pop.total))

end Sys2Proof.Machine
end

