-- ==== Sys2Proof/Machine/Hub.lean ====
section
/-! DEFINITION. The hub die's control space: BAR0 (R433, R434, R438, R440, R444, R445), IOCFG (R367), the queue registers (R397, R399),
messages (R366, R369, R370). -/

namespace Sys2Proof.Machine

/-- One second in ticks (R3, R367). -/
def oneSecond : Nat := 1250000000

/-! ### Reading -/

/-- DEVSTAT (R440). -/
def Hub.devstat (h : Hub) : Nat :=
  h.ready.toNat + 2 * h.fail.toNat + 4 * h.warm.toNat + 8 * h.cap.toNat + 16 * h.step + 256 * h.failcode

/-- IOCFG (R367). -/
def Hub.iocfg (h : Hub) : Nat := h.nports + 2 ^ 8 * h.eports + 2 ^ 31 * h.go.toNat + 2 ^ 32 * h.efail + 2 ^ 40 * h.nfail

/-- A BAR0 register by the offset of its 8 bytes; an offset that names none reads zero (R438, R365). -/
def State.bar0Read (s : State) (o : Nat) : Nat :=
  let h := s.hub
  if o = 0 then h.devstat
  else if o = 0x10 then h.bar4base
  else if o = 0x20 then h.pwrcap
  else if o = 0x100000 then h.qcbbase
  else if o = 0x200080 then s.errSeq
  else if 0x200000 ≤ o ∧ o < 0x200000 + 8 * 13 then
    let k := (o - 0x200000) / 8
    s.errCE.get 0 k + 2 ^ 32 * s.errUE.get 0 k
  else if 0x201000 ≤ o ∧ o < 0x203000 then
    let k := (o - 0x201000) / 8
    ((s.errLog.find? (fun e => e.seq % 256 == k / 4)).map (fun e => ofBytes ((e.bytes.drop (8 * (k % 4))).take 8))).getD 0
  else if 0x300000 ≤ o ∧ o < 0x301000 then
    let e := s.peers.get {} ((o - 0x300000) / 16)
    if o % 16 = 0 then e.mac + 2 ^ 48 * e.mask + 2 ^ 56 * e.state else e.discards
  else if 0x310000 ≤ o ∧ o < 0x310200 ∧ o % 64 < 32 then h.counters.get 0 ((o - 0x310000) / 64 * 4 + o % 64 / 8)
  else if o = 0x320000 then h.iocfg
  else 0

/-! ### Writing -/

/-- A new power cap, clamped to its range; the Prefects are told of it (R444, R366). -/
def State.setCap (s : State) (x : Nat) : State :=
  let w := max 1000 (min 2800 (x % 2 ^ 16))
  { s with hub := { s.hub with pwrcap := w, announce := some w } }

/-- A write of STATE in the peer table (R445): 1 brings the peer up, 0 retires it, and any other value is ignored. -/
def State.setPeer (s : State) (p x : Nat) : State :=
  let e := s.peers.get {} p
  if x = 1 ∧ e.state ≠ 1 then
    { s with peers := SMap.set {} s.peers p { e with state := 1 }, peerSeen := SMap.set none s.peerSeen p (some (s.sysSeen, s.clock)) }
  else if x = 0 then { s with peers := SMap.set {} s.peers p { e with state := 0 }, peerSeen := SMap.set none s.peerSeen p none }
  else s

/-- The first eight bytes of a peer entry written through the hub window. -/
def State.peerWrite (s : State) (p v : Nat) : State :=
  ({ s with peers := SMap.set {} s.peers p { s.peers.get {} p with mac := v % 2 ^ 48, mask := v / 2 ^ 48 % 2 ^ 8 } } : State).setPeer p (v / 2 ^ 56 % 2 ^ 8)

/-- The ports that a mask names: NVMe 0 to 7, Ethernet 8 to 15. -/
def portsOf (n e : Nat) : List Nat := (List.range 8).filter (fun i => n.testBit i) ++ ((List.range 8).filter (fun i => e.testBit i)).map (· + 8)

/-- A write of IOCFG (R367): GO = 1 starts bring-up while READY = 0 and GO reads 0. -/
def State.iocfgWrite (s : State) (v : Nat) : State :=
  let n := v % 2 ^ 8
  let e := v / 2 ^ 8 % 2 ^ 8
  let h := { s.hub with nports := n, eports := e }
  if v.testBit 31 ∧ !h.ready ∧ !h.go then
    { s with hub := { h with go := !(portsOf n e).isEmpty, goAt := s.clock, todo := portsOf n e, up := h.up.filter (fun p => !(portsOf n e).contains p)
                             nfail := h.nfail &&& (255 - n), efail := h.efail &&& (255 - e) } }
  else { s with hub := h }

/-- QCTL (R399): the operation applies after every earlier event of its queue. -/
def State.qctl (s : State) (v : Nat) : State :=
  if v / 2 ^ 16 % 4 = 3 then s
  else { s with front := { s.front with events := s.front.events ++ [{ q := v % 1024, kind := v / 2 ^ 16 % 4 + 1 }] } }

/-- A write of a BAR0 register, from a Prefect's window or from the host (R365, R438, R440). -/
def State.bar0Write (s : State) (inside : Bool) (o v : Nat) : State :=
  let errs := 0x200000 ≤ o ∧ o < 0x203000
  if !inside ∧ !s.hub.ready ∧ ¬ errs then s
  else if o = 0x10 then { s with hub := { s.hub with bar4base := v / s.hub.window * s.hub.window } }
  else if o = 0x20 then s.setCap v
  else if o = 0x100000 then { s with hub := { s.hub with qcbbase := v } }
  else if o = 0x100008 then s.qctl v
  else if 0x200000 ≤ o ∧ o < 0x200000 + 8 * 13 then
    let k := (o - 0x200000) / 8
    { s with errCE := SMap.set 0 s.errCE k (v % 2 ^ 32), errUE := SMap.set 0 s.errUE k (v / 2 ^ 32) }
  else if inside ∧ 0x300000 ≤ o ∧ o < 0x301000 ∧ o % 16 = 0 then s.peerWrite ((o - 0x300000) / 16) v
  else if inside ∧ o = 0x320000 then s.iocfgWrite v
  else s

/-! ### Messages (R366, R369, R370, R374) -/

/-- A 64-byte message. -/
def message (typ src flags tag wit : Nat) (payload : List Byte) : List Byte :=
  toBytes 2 typ ++ toBytes 1 src ++ toBytes 1 flags ++ toBytes 4 tag ++ toBytes 8 wit ++ (payload ++ List.replicate 48 (0 : Byte)).take 48

/-- Messages under way to a queue. -/
def State.underWay (s : State) (dst : Nat) (mgmt : Bool) : Nat := (s.wires.filter (fun w => w.dst == dst && w.mgmt == mgmt)).length

/-- Is there room for one more message to a mailbox, to the management block (254), or to a management queue? -/
def State.mailRoom (s : State) (dst : Nat) (mgmt : Bool) : Bool :=
  if dst = 254 then decide (s.hub.inbound.length + s.underWay 254 false < 16)
  else if mgmt then decide ((s.pref dst).mgmtq.length + s.underWay dst true < 16)
  else decide ((s.pref dst).mailbox.length + s.underWay dst false < 128)

/-- A message sets out. -/
def State.sendWire (s : State) (src dst : Nat) (mgmt : Bool) (transit : Nat) (bs : List Byte) : State :=
  let (s, id) := s.fresh
  { s with wires := s.wires ++ [{ id, src, dst, mgmt, due := s.clock + transit, bytes := bs }] }

/-- The transit time of a message in clocks: 60 on a die, 180 to another die or to the hub (R374). -/
def transit (src dst : Nat) : Nat := if src / 10 = dst / 10 ∧ dst < 80 then 60 else 180

end Sys2Proof.Machine
end

