-- ==== Sys2Proof/Machine/Launch.lean ====
section
/-! DEFINITION. Launch descriptors and grids (R387 to R392, R394), placement (R17, R395), the start and end of groups (R389, R27), completion
(R392), feed queues (R402 to R408). -/

namespace Sys2Proof.Machine

/-! ### Small operations on memory -/

/-- Write bytes at once, unit by unit; watchers of their sectors are told. -/
def State.pokeAll (s : State) (c : Crypt) (l : Nat) (bs : List Byte) : State :=
  (pieces l bs.length).foldl (fun s (a, k) => (s.poke c a ((bs.drop (a - l)).take k)).notice a) s

/-- A block of the issuing context's C space that has passed its checks, after the context's own stores to it have performed. -/
def ownBlock (a n : Nat) (s : State) (e : State → Nat → Eff) : Eff :=
  let l := s.place s.g .c a
  match s.settleRange s.g.ids.ref l n with
  | none => .stall s
  | some s => e s l

/-- Read such a block; poison in it escalates (R431). -/
def readBlock (a n : Nat) (s : State) (e : State → List Byte → Eff) : Eff :=
  ownBlock a n s fun s l =>
    if s.rangeBad l n then .lost (s.logError (Loc.source l) 2 l s.g.handle) 0x40 (BitVec.ofNat 64 a) else e s (s.mem.readB l n)

/-! ### Descriptors (R387, R388) -/

namespace Desc

/-- A descriptor from its 128 bytes. -/
def ofBytes (b : List Byte) : Desc :=
  let w (o n : Nat) : Nat := field b o n
  { entry := w 0 8, gx := w 8 2, gy := w 10 2, gz := w 12 2, gang := w 14 1, ngrp := w 15 1, cls := [w 16 4, w 20 4, w 24 4, w 28 4]
    cspad := w 0x20 4, kspad := w 0x24 4, tiles := w 0x28 1, prio := w 0x29 1, world := w 0x2A 1, flags := w 0x2B 1, lastmask := w 0x2C 4
    seed := BitVec.ofNat 64 (w 0x30 8), dep0 := BitVec.ofNat 64 (w 0x38 8), dep1 := BitVec.ofNat 64 (w 0x40 8), compl := w 0x48 8
    arg := BitVec.ofNat 64 (w 0x50 8) }

def count (c : Nat) : Nat := c % 64
def role (c : Nat) : Role := match c / 64 % 4 with | 0 => .copy | 1 => .matrix | 2 => .vector | _ => .general
def stage (c : Nat) : Nat := c / 256 % 8
def rho (c : Nat) : Nat := c / 2048 % 8

/-- Teams of the grid. -/
def teams (d : Desc) : Nat := d.gx * d.gy * d.gz
/-- Gangs of the grid. -/
def gangs (d : Desc) : Nat := d.teams / d.gang
/-- The class of each team position (R388). -/
def positions (d : Desc) : List Nat := (d.cls.map (fun c => List.replicate (count c) c)).flatten
/-- Granules of one team. -/
def granules (d : Desc) : Nat := (d.positions.map (fun c => ceilDiv (rho c) 2)).sum
/-- Reserved scratchpad bytes (R388). -/
def cbytes (d : Desc) : Nat := roundUp d.cspad 4096
def kbytes (d : Desc) : Nat := roundUp d.kspad 65536

/-- Starting lanes of a team position. -/
def startMask (d : Desc) (pos : Nat) : Word :=
  if pos + 1 = d.ngrp ∧ d.lastmask ≠ 0 then BitVec.ofNat 32 d.lastmask else allLanes

/-- A dependency field that a descriptor may hold (R388). -/
def depOk (w : DWord) : Bool := if wScope w = 7 then bitsAt w.toNat 32 29 == 0 else wValid w

/-- Teams that one empty core can hold. -/
def perCore (d : Desc) : Nat :=
  let lim (have_ need : Nat) : Nat := if need = 0 then have_ else have_ / need
  min (min (32 / d.ngrp) (lim Config.nGranules d.granules)) (min (min 32 (lim Config.nTiles d.tiles)) (min 32 (lim Config.coreSpad d.cbytes)))

/-- Can all teams be packed onto the device with no other work resident: a gang takes distinct cores of one cluster? -/
def packable (d : Desc) : Bool :=
  let byCores := 16 * d.perCore / d.gang
  let perCluster := if d.kbytes = 0 then byCores else min byCores (Config.clusterSpad / d.kbytes)
  d.gangs ≤ Config.nClusters * perCluster

/-- Does a descriptor's 128 bytes meet R388? -/
def valid (d : Desc) (b : List Byte) : Bool :=
  (b.drop 0x58).all (· == 0) && d.flags < 2 && !d.prio.testBit 3 && d.prio < 64 &&
  1 ≤ d.gang && d.gang ≤ 16 && 1 ≤ d.ngrp && d.ngrp ≤ 32 && (d.cls.map count).sum == d.ngrp &&
  d.cls.all (fun c => c < 2 ^ 14 && rho c != 7 && (count c != 0 || c == 0)) &&
  d.teams % d.gang == 0 && d.cspad ≤ Config.coreSpad && d.kspad ≤ Config.clusterSpad && d.tiles ≤ Config.nTiles &&
  d.granules ≤ Config.nGranules && depOk d.dep0 && depOk d.dep1 && d.compl % 64 == 0 && slotAddr d.entry &&
  (!d.flags.testBit 0 || (d.teams * d.ngrp ≤ 2 ^ 23 && d.packable))

end Desc

/-! ### Grids -/

/-- The observer of the global distributor and of the hub (R391, R218). -/
def package : Dom := { scope := 4, id := 0 }

def State.grid? (s : State) (gid : Nat) : Option Grid := s.grids.find? (·.gid == gid)
def State.modGrid (s : State) (gid : Nat) (f : Grid → Grid) : State := { s with grids := s.grids.map (fun x => if x.gid = gid then f x else x) }

/-- The priority of an accepted grid (R389). -/
def Grid.priority (g : Grid) : Nat := min (g.desc.prio % 8) g.cap

/-- Is a GRIDID's grid live (R391)? -/
def State.live (s : State) (gid : Nat) : Bool := s.grids.any (fun g => g.gid == gid && (g.phase != 3 || !s.satisfied g.wit package))

/-- Accept a launch: the next value of the grid counter is its GRIDID (R394, R398). -/
def State.accept (s : State) (addr asn world cap : Nat) (lwit : DWord) (after : Option Nat) : State × Nat :=
  let gid := (s.gridCtr + 1) % 2 ^ 32
  ({ s with gridCtr := gid, grids := s.grids ++ [{ gid, addr, asn, world, cap, lwit, after }] }, gid)

/-- The launch queue is full (R394). -/
def State.launchFull (s : State) : Bool := 4096 ≤ (s.grids.filter (·.phase == 0)).length

/-- LAUNCH (R394). -/
def execLaunch (f : FS) (s : State) : Res :=
  issue (.launch f) s fun s =>
    let a := (s.g.rdS64 f.a.toNat).toNat
    let w := s.g.rdW f.wf.toNat
    checkWit w (
      if a % 128 ≠ 0 then .trap 0x13 (laneEval 0 a)
      else if 2 ^ 56 ≤ a then .trap 0x12 (laneEval 0 a)
      else if !s.g.storesFormed then .stall s
      else if s.launchFull then .stall s
      else
        let (s, gid) := s.accept a s.g.ids.asn s.g.ids.world s.g.ids.prio (mergeWit s.now s.g.mark w) none
        .done (s.modG (·.wrS f.d.toNat (BitVec.ofNat 32 gid))))

/-- The front-end's own place among the clusters' translation caches: the distributor and feed units translate by themselves. -/
def hubCluster : Nat := 99

/-- Read `n` bytes of an address space as an access of a world. -/
def State.readVa (s : State) (cluster asn world va n : Nat) : Option (State × List Byte × Bool) :=
  match s.engPages cluster asn world .load (pagesOf [(va, n)]) with
  | .error _ => none
  | .ok s =>
    (pieces va n).foldl (fun acc (a, k) => acc.bind (fun (s, bs, bad) =>
      match s.engTranslate cluster asn world a .load with
      | .error _ => none
      | .ok (s, t) =>
        let (s, v, e) := s.peek t.crypt (t.loc a) k
        some (s, bs ++ toBytes k v, bad || e.isSome))) (some (s, [], false))

/-- Write bytes of an address space as an access of a world, at once; none when a page does not translate. -/
def State.writeVa (s : State) (cluster asn world va : Nat) (bs : List Byte) : Option State :=
  match s.engPages cluster asn world .store (pagesOf [(va, bs.length)]) with
  | .error _ => none
  | .ok s => some ((pieces va bs.length).foldl (fun s (a, k) =>
      match s.engTranslate cluster asn world a .store with
      | .error _ => s
      | .ok (s, t) => (s.poke t.crypt (t.loc a) ((bs.drop (a - va)).take k)).notice (t.loc a)) s)

/-- Read and judge a grid's descriptor (R388, R390, R392). -/
def State.loadDesc (s : State) (g : Grid) : State :=
  match (if 2 ^ 56 < g.addr + 128 then none else s.readVa hubCluster g.asn g.world g.addr 128) with
  | some (s, bs, false) =>
    let d := Desc.ofBytes bs
    let verdict := if !d.valid bs ∨ g.addr % 128 ≠ 0 then 3 else if d.world ≠ g.world then 4 else 0
    s.modGrid g.gid (fun g => { g with phase := 1, desc := d, verdict })
  | _ => s.modGrid g.gid (fun g => { g with phase := 1, verdict := 3 })

/-- The distributor reads the descriptor of grid arg.id once its launch witness is satisfied (R394). -/
def execDescriptorRead (s : State) : Res :=
  match s.grid? s.arg.id with
  | none => .next s
  | some g => event s (g.phase == 0 && s.satisfied g.lwit package) (·.loadDesc g)

/-! ### Completion (R392, R412, R417) -/

/-- A range of memory is cleared to zero with its poison. -/
def State.clearRange (s : State) (l n : Nat) : State :=
  { s with mem := s.mem.keep (fun a => !(decide (l ≤ a) && decide (a < l + n)))
           poison := s.poison.keep (fun u => !(decide (l / 8 ≤ u) && decide (u < (l + n) / 8))) }

/-- Perform every outstanding access to a range, and drop what cannot. -/
def State.flushRange (s : State) (l n : Nat) : State :=
  let s := (s.accs.filter (·.overlaps l n)).foldl (fun s a => s.tryPerform a.id) s
  { s with accs := s.accs.filter (fun a => !a.overlaps l n) }

/-- Dirty buffers of a world are stepped (R417). -/
def State.stepBufs (s : State) (world : Nat) : State :=
  if world = 0 then s
  else s.bufs.foldl (fun s (i, b) =>
    if b.valid && b.dirty && b.world == world then
      let (s, id) := s.fresh
      { s with bufs := SMap.set {} s.bufs i { b with dirty := false }, sweeps := s.sweeps ++ [{ id, buf := i, line := b.base * 2 ^ 16 }] }
    else s) s

/-- The 128 bytes of a completion record, STATUS left out. -/
def recordBytes (s : State) (g : Grid) (wit : DWord) : List Byte :=
  layout 128 [(0, 8, wit.toNat), (8, 4, g.gid), (0x10, 8, g.firstTick), (0x18, 8, s.clock), (0x20, 4, g.teamsDone), (0x40, 64, ofBytes g.killBlock)]

/-- Memory that is released: what is under way to it performs, and it is cleared (R27, R412). -/
def State.release (s : State) (l n : Nat) : State := (s.flushRange l n).clearRange l n

/-- Gangs release their cluster scratchpad. -/
def State.releaseGangs (s : State) (p : Gang → Bool) : State :=
  let s := (s.gangs.filter p).foldl (fun s x => s.release (Loc.cluster x.cluster x.kbase) (roundUp x.ksize 65536)) s
  { s with gangs := s.gangs.filter (fun x => !p x) }

/-- The completion record of a grid is written with STATUS last; none where COMPL does not translate (R392). -/
def State.putRecord (s : State) (g : Grid) (wit : DWord) (status : Nat) : Option State :=
  if g.desc.compl = 0 then some s
  else if 2 ^ 56 < g.desc.compl + 128 then none
  else (s.writeVa hubCluster g.asn g.world g.desc.compl (recordBytes s g wit)).map (fun s =>
    (s.writeVa hubCluster g.asn g.world (g.desc.compl + 0x3C) (toBytes 4 status)).getD s)

/-- A grid completes (R392): its witness, its record, its gangs' memory, its saved work, the steps of its world. One whose COMPL does not translate
completes with status BADDESC. -/
def State.completeGrid (s : State) (gid : Nat) : State :=
  match s.grid? gid with
  | none => s
  | some g =>
    if g.phase = 3 then s
    else
      let status := if g.killed then 2 else if g.verdict ≠ 0 then g.verdict else 1
      let own := if g.desc.teams = 0 then mkWit package s.now else 0
      let marks := (s.saved.map (fun v => (v.ctxs.filter (fun e => e.1.ids.grid == gid)).map (·.1.mark))).flatten
      let wit := if g.verdict ≠ 0 then 0 else marks.foldl (mergeWit s.now) (if g.desc.teams = 0 then own else g.wit)
      let put := s.putRecord g wit status
      let s := (put.getD s).releaseGangs (·.grid == gid)
      ({ s.modGrid gid (fun g => { g with phase := 3, wit, verdict := if put.isSome then g.verdict else 3 }) with
          saved := s.saved.filter (fun v => !v.ctxs.any (fun e => e.1.ids.grid == gid)) } : State).stepBufs g.world

/-- A dependency is satisfied (R391). -/
def State.depMet (s : State) (w : DWord) : Bool :=
  if wScope w = 7 then !s.live (w.toNat % 2 ^ 32) else s.satisfied w package

/-- The dependencies of grid arg.id are satisfied (R391): it becomes placeable, or it completes at once. -/
def execGridDependenciesSatisfied (s : State) : Res :=
  match s.grid? s.arg.id with
  | none => .next s
  | some g =>
    event s (g.phase == 1 && s.depMet g.desc.dep0 && s.depMet g.desc.dep1 && !(g.after.map s.live).getD false) fun s =>
      if g.verdict ≠ 0 ∨ g.desc.teams = 0 then s.completeGrid g.gid else s.modGrid g.gid (fun g => { g with phase := 2 })

/-! ### Placement (R17, R389, R395) -/

/-- A new slice begins for a group (R354). -/
def Ctx.newSlice (s : State) (g : Ctx) : Ctx :=
  let p := s.pref g.cluster
  { g with sched := { g.sched with sliceEnd := s.clock + p.slice.toNat, delay := p.forcedly.toNat, expiry := false } }

/-- The lowest base at which `n` bytes fit among allocations (base, length) below a limit. -/
def fitBase (limit n : Nat) (used : List (Nat × Nat)) : Option Nat :=
  let ok (b : Nat) : Bool := decide (b + n ≤ limit) && used.all (fun (u, k) => k == 0 || decide (b + n ≤ u) || decide (u + k ≤ b))
  ((0 :: used.map (fun (u, k) => u + k)).filter ok).foldl (fun m b => some ((m.map (min b)).getD b)) none

/-- Where a team's core scratchpad can lie on a core. -/
def State.padBase (s : State) (core n : Nat) : Option Nat :=
  fitBase Config.coreSpad n ((s.teams.filter (·.core == core)).map (fun t => (t.cbase, roundUp t.csize 4096)))

/-- Where a gang's cluster scratchpad can lie. -/
def State.clusterBase (s : State) (cluster n : Nat) : Option Nat :=
  fitBase Config.clusterSpad n ((s.gangs.filter (·.cluster == cluster)).map (fun t => (t.kbase, roundUp t.ksize 65536)))

/-- The free group slots of a core (R13). -/
def State.freeSlots (s : State) (core : Nat) : List Nat :=
  (List.range 32).filter (fun i => !(s.onCore core).any (·.ids.slot == i))

/-- A group at its start (R389). An instruction address has 56 bits; R388 does not turn an ENTRY down for its bits above, which are ignored (DESIGN
CHOICE, log 97). -/
def startGroup (s : State) (g : Grid) (team core slot pos cls : Nat) : Ctx :=
  let d := g.desc
  let idx := team * d.ngrp + pos
  let m := d.startMask pos
  let c : Ctx :=
    { ids := { ref := .group g.gid idx, grid := g.gid, gidx := idx, team, gang := team / d.gang, gpos := pos, stage := Desc.stage cls
               role := Desc.role cls, world := g.world, asn := g.asn, prio := g.priority, core, slot }
      flow := { pc := d.entry % 2 ^ 56, active := m, exited := ~~~m }
      ks := mix (d.seed ^^^ BitVec.ofNat 64 idx), n := Desc.rho cls, rho := Desc.rho cls, mclass := d.prio / 16 % 4, climit := d.prio / 16 % 4
      sched := { placed := s.clock }
      pop := { size := d.gx * d.gy * d.gz * (((List.range d.ngrp).map (fun p => (lanes (d.startMask p)).length)).sum), home := core, index := idx
               lineage := SMap.ofFn 0 32 (fun l => BitVec.ofNat 64 ((32 * idx + l) % 2 ^ 28 * 2 ^ 16)) } }
  ((c.wrS64 0 d.arg).newSlice s)

/-- Place one team on a core, if every resource can be reserved (R17). -/
def State.placeTeam (s : State) (g : Grid) (team core : Nat) : Option State :=
  let d := g.desc
  let slots := s.freeSlots core
  match s.padBase core d.cbytes with
  | none => none
  | some cbase =>
    if slots.length < d.ngrp ∨ s.freeGranules core < d.granules ∨ s.freeTiles core < d.tiles then none
    else
      let t : Team := { grid := g.gid, team, gang := team / d.gang, core, size := d.ngrp, cbase, csize := d.cspad
                        bells := List.replicate 24 { expect := d.ngrp }, tiles := List.replicate d.tiles {}, prio := g.priority, placed := s.clock }
      let cs := (d.positions.zip slots).zipIdx.map (fun ((cls, slot), pos) => startGroup s g team core slot pos cls)
      some { s with teams := s.teams ++ [t], others := s.others ++ cs }

/-- Place a gang on cores of one cluster, all or none (R17). -/
def State.placeGang (s : State) (g : Grid) (gang : Nat) (cores : List Nat) : Option State :=
  let c := (cores.headD 0) / 16
  if cores.length ≠ g.desc.gang ∨ cores.eraseDups.length ≠ cores.length ∨ cores.any (fun k => k / 16 != c) ∨ Config.nClusters ≤ c then none
  else match s.clusterBase c g.desc.kbytes with
    | none => none
    | some kbase =>
      (cores.zipIdx.foldl (fun acc (k, i) => acc.bind (fun s => s.placeTeam g (gang * g.desc.gang + i) k))
        (some ({ s with gangs := s.gangs ++ [{ grid := g.gid, gang, cluster := c, kbase, ksize := g.desc.kspad }] } : State))).map (fun s =>
          s.modGrid g.gid (fun x => { x with nextGang := gang + 1, firstTick := if x.firstTick = 0 then s.clock else x.firstTick, blockedAt := none
                                             around := false }))

/-- Place a gang on the first cores of a cluster that can hold its teams. -/
def State.fitIn (s : State) (g : Grid) (gang c : Nat) : Option State :=
  s.placeGang g gang (((List.range 16).map (16 * c + ·) |>.filter (fun k => (s.placeTeam g 0 k).isSome)).take g.desc.gang)

/-- The first cluster, and in it the first cores, that can hold a gang. -/
def State.fitGang (s : State) (g : Grid) (gang : Nat) : Option State := (List.range Config.nClusters).findSome? (s.fitIn g gang)

/-- Place the gangs from one on, `n` of them: on the cores given, in order, or where they first fit. -/
def State.placeGangs (g : Grid) (cores : List Nat) : Nat → Nat → State → Option State
  | 0, _, s => some s
  | n + 1, gang, s =>
    (if cores.isEmpty then s.fitGang g gang else s.placeGang g gang (cores.take g.desc.gang)).bind
      (placeGangs g (cores.drop g.desc.gang) n (gang + 1))

/-- Unplaced gangs of a placeable grid. -/
def Grid.waiting (g : Grid) : Bool := g.phase == 2 && !g.killed && decide (g.nextGang < g.desc.gangs)

/-- Does grid `a` come before grid `b` (R395)? Grids are listed in order of acceptance. -/
def State.before (s : State) (a b : Grid) : Bool :=
  b.priority < a.priority ||
    (a.priority == b.priority && ((s.grids.takeWhile (·.gid != b.gid)).any (·.gid == a.gid)))

/-- 12,500 ticks after its first failed attempt later gangs may be placed around the blocked gang of grid arg.id (R395). -/
def execPlacementHoldExpiry (s : State) : Res :=
  match s.grid? s.arg.id with
  | none => .next s
  | some g => event s ((g.blockedAt.map (fun t => decide (t + 12500 ≤ s.clock))).getD false) (·.modGrid g.gid (fun x => { x with around := true }))

/-! ### The end of groups, teams, gangs (R27, R191) -/

/-- Contexts leave the machine; the issuing one is replaced when it leaves. -/
def State.dropCtxs (s : State) (p : Ctx → Bool) : State :=
  let s := if p s.g then (match s.others.find? (fun x => !p x) with | some x => s.switch x.ids.ref | none => s) else s
  { s with others := s.others.filter (fun x => !p x) }

/-- Attached locks of a group are released. -/
def State.releaseLocks (s : State) (c : CtxRef) : State := { s with locks := s.locks.filter (fun e => e.2 != some (.attached c)) }

/-- Is a context a group of a team? -/
def Ctx.inTeam (g : Ctx) (grid team : Nat) : Bool := !g.isSys && g.ids.grid == grid && g.ids.team == team

/-- Groups of a team that lie in images of their own (R355). -/
def State.savedAlone (s : State) (grid team : Nat) : Bool := s.saved.any (fun v => !v.isTeam && v.ctxs.any (fun e => e.1.inTeam grid team))

/-- A team's resources are cleared and released. -/
def State.freeTeam (s : State) (t : Team) : State :=
  let s := s.release (Loc.core t.core t.cbase) (roundUp t.csize 4096)
  ({ s with teams := s.teams.filter (fun x => !(x.grid == t.grid && x.team == t.team)) } : State).dropCtxs (·.inTeam t.grid t.team)

/-- Commands of groups that run on (R310, R356). -/
def State.copies (s : State) (p : EngCmd → Bool) : Bool := s.cmds.any (fun c => !c.c.isSys && p c)

/-- Has the grid nothing left to run? One that is killed lets running commands of its saved groups complete first (R356; DEDUCED, log 49). -/
def State.gridOver (s : State) (g : Grid) : Bool :=
  if g.killed then !s.teams.any (·.grid == g.gid) && !s.copies (·.grid == g.gid) else decide (g.teamsOver = g.desc.teams)

/-- The core that a saved team left, or a saved group's team is on now. -/
def State.homeOf (s : State) (v : Saved) : Nat :=
  if v.isTeam then v.core else (((v.ctxs.head?).bind (fun e => s.team? e.1)).map (·.core)).getD v.core

/-- A team's end makes the next attempt due to restore what was saved on its core, and the teams that await their turn (R354, R381, R395). -/
def State.retrySaved (s : State) (core : Nat) : State :=
  { s with saved := s.saved.map (fun v => if v.retry ≠ 0 ∧ (s.homeOf v = core ∨ v.awaits) then { v with retry := max 1 s.clock } else v) }

/-- A team ends; so may its gang and its grid. -/
def State.endTeam (s : State) (t : Team) : State :=
  let s := (s.freeTeam t).retrySaved t.core
  let s := s.modGrid t.grid (fun g => { g with teamsOver := g.teamsOver + 1, teamsDone := if t.killed then g.teamsDone else g.teamsDone + 1 })
  let rest := s.teams.any (fun x => x.grid == t.grid && x.gang == t.gang) ||
    s.saved.any (fun v => v.isTeam && v.ctxs.any (fun e => e.1.ids.grid == t.grid && e.1.ids.gang == t.gang))
  let s := if rest then s else s.releaseGangs (fun x => x.grid == t.grid && x.gang == t.gang)
  match s.grid? t.grid with
  | some g => if s.gridOver g then s.completeGrid g.gid else s
  | none => s

/-- May a team end: all its resident groups have, with their commands, and none lies in an image of its own, unless its grid is killed (R355, R356)? -/
def State.teamOver (s : State) (t : Team) : Bool :=
  !s.copies (fun c => c.grid == t.grid && c.team == t.team) &&
  s.ctxs.all (fun x => !x.inTeam t.grid t.team || x.sched.ended) && (!s.savedAlone t.grid t.team || ((s.grid? t.grid).map (·.killed)).getD false)

/-- Nothing of an exited group is outstanding any more (R27). -/
def State.drained (s : State) (g : Ctx) : Bool :=
  !s.mxq.any (fun o => o.c == g.ids.ref) && !s.cmds.any (fun c => c.c == g.ids.ref) && g.storesFormed &&
  !g.log.any (fun e => e.op.kind != .load && e.state != 3)

/-- The final wait of group arg.c ends (R27): its locks are released, its mark joins its grid's witness, and its team may end. -/
def execGroupEnd (s : State) : Res :=
  match s.ctx? s.arg.c with
  | none => .next s
  | some g =>
    event s (g.sched.finalWait && !g.sched.ended && !g.sched.escalated && s.drained g) fun s =>
      let s := (s.releaseLocks g.ids.ref).gridCovers g.ids.grid g.mark
      let s := s.modCtx g.ids.ref (fun g => { g with sched := { g.sched with ended := true }, pend := [], log := [] })
      let s := { s with accs := s.accs.filter (fun a => !(a.owner == some g.ids.ref && !a.isWrite))
                        arrivals := s.arrivals.filter (fun a => a.c != g.ids.ref) }
      match s.team? g with
      | none => s
      | some t =>
        if s.teamOver t then s.endTeam t else s

/-- The teams of a killed grid that can end do, and it completes when nothing of it is left (R356). -/
def State.killedOver (s : State) (gid : Nat) : State :=
  match s.grid? gid with
  | none => s
  | some g =>
    if g.killed && g.phase != 3 then
      let s := (s.teams.filter (fun t => t.grid == gid && s.teamOver t)).foldl State.endTeam s
      if s.gridOver g then s.completeGrid gid else s
    else s

/-- A turn of an engine command; the last command of a killed grid lets it complete. -/
def cmdTurn (scn : Bool) (turn : State → EngCmd → Res) (s : State) : Res :=
  match s.cmds.find? (fun c => c.id == s.arg.id && c.scn == scn) with
  | none => .next s
  | some c =>
    match turn s c with
    | .next t => .next (t.killedOver c.grid)
    | r => r

/-- Copy command arg.id does its next row; after its last it completes and replies (R307). -/
def execCopyCommandComplete (s : State) : Res := cmdTurn false copyTurn s

/-- Scan arg.id (R312): its pairs are written, then its header. -/
def execScnComplete (s : State) : Res := cmdTurn true scanTurn s

/-! ### Feed queues (R402 to R406) -/

/-- Write a counter of a header. -/
def State.feedSet (s : State) (sel off x : Nat) : State := s.pokeAll {} (feedAt sel + off) (toBytes 8 (x % 2 ^ 64))

/-- The queue's checks (R404): missing or disabled, now or since the instruction began to wait (R406), then another world's. -/
def feedGate (sel : Nat) (s : State) (e : Feed → Eff) : Eff :=
  match s.feed sel with
  | none => .trap 0x12 (BitVec.ofNat 64 sel)
  | some q =>
    if !q.enabled || s.g.sched.shut then .trap 0x12 (BitVec.ofNat 64 sel)
    else if q.world ≠ s.g.ids.world then .trap 0x14 (BitVec.ofNat 64 sel)
    else e q

/-- A record is appended with its witness (R404). -/
def State.feedPush (s : State) (q : Feed) (rcd : List Byte) (w : DWord) : State :=
  (s.pokeAll {} (q.slot q.tail) (rcd.take 56 ++ toBytes 8 w.toNat)).feedSet q.sel 0x18 (q.tail + 1)

/-- WPUSH (R404). -/
def execWpush (f : FS) (s : State) : Res :=
  issue (.wpush f) s fun s =>
    let a := (s.g.rdS f.a.toNat).toNat
    let w := s.g.rdW f.wf.toNat
    checkWit w (padCheck 64 a 64 .load s fun s =>
      if !s.g.storesFormed then .stall s
      else feedGate f.sel.toNat s fun q =>
        if q.count < q.cap then
          readBlock a 64 s fun s bs => .done ((s.feedPush q bs (mergeWit s.now s.g.mark w)).modG (·.wrC f.d.toNat true))
        else if f.var8 = 1 then .stall (s.modG (fun g => { g with sched := { g.sched with pushes := some f.sel.toNat } }))
        else .done (s.modG (·.wrC f.d.toNat false)))

/-- A deadline has passed (R403). -/
def passedAt (deadline now : Nat) : Bool := deadline != 0 && decide ((now + 2 ^ 50 - deadline % 2 ^ 50) % 2 ^ 50 < 2 ^ 49)

/-- The completion block of an expired record is written, witness first (R405): none when that is refused. -/
def State.expireBlock (s : State) (q : Feed) (done : Nat) : Option State :=
  if done % 16 ≠ 0 ∨ 2 ^ 56 ≤ done then none
  else (s.writeVa (100 + q.sel / 256 % 8) q.asn q.world done (toBytes 8 0)).bind (fun s =>
    s.writeVa (100 + q.sel / 256 % 8) q.asn q.world (done + 8) (toBytes 8 0xFFFFFFFF))

/-- Retire expired records at the head (R405). -/
def State.retireExpired : Nat → Nat → State → State
  | 0, _, s => s
  | n + 1, sel, s =>
    match s.feed sel with
    | none => s
    | some q =>
      if q.count ≠ 0 ∧ passedAt (s.mem.readN (q.slot q.head) 8) s.now then
        let done := s.mem.readN (q.slot q.head + 0x30) 8
        let s := if done = 0 then s else (match s.expireBlock q done with | some s => s | none => s.feedSet sel 0x30 (q.fails + 1))
        retireExpired n sel ((s.feedSet sel 0x20 (q.expired + 1)).feedSet sel 0x10 (q.head + 1))
      else s

/-- WPOP (R405). -/
def execWpop (f : FS) (s : State) : Res :=
  issue (.wpop f) s fun s =>
    let a := (s.g.rdS f.a.toNat).toNat
    let sel := f.sel.toNat
    let try_ := f.var8 == 1
    padCheck 64 a 64 .store s fun s => feedGate sel s fun q =>
      ownBlock a 64 s fun s l =>
        let s := State.retireExpired q.cap sel s
        match s.feed sel with
        | none => .stall s
        | some q =>
          if q.count = 0 then
            (if try_ then .done (s.modG (·.wrC f.d.toNat false)) else .park s { kind := 2, addr := sel })
          else
            let r := q.slot q.head
            if s.rangeBad r 64 then .lost (s.logError 4 2 r s.g.handle) 0x40 (BitVec.ofNat 64 (r - Loc.die 0))
            else
              let s := (s.pokeAll {} l (s.mem.readB r 64)).feedSet sel 0x10 (q.head + 1)
              .done (s.modG (fun g =>
                let g := g.wrW f.wf.toNat (BitVec.ofNat 64 (s.mem.readN (r + 0x38) 8))
                if try_ then g.wrC f.d.toNat true else g))

/-- Does one waiter come before another: by the tick of its park, then core, then slot (R405)? -/
def Ctx.parkedBefore (a b : Ctx) : Bool :=
  a.sched.parkedAt < b.sched.parkedAt ||
    (a.sched.parkedAt == b.sched.parkedAt && (a.ids.core < b.ids.core || (a.ids.core == b.ids.core && a.ids.slot < b.ids.slot)))

/-- The oldest of a list of waiters by `parkedBefore`. -/
def firstParked : List Ctx → Option Ctx
  | [] => none
  | g :: gs => match firstParked gs with | some h => if h.parkedBefore g then some h else some g | none => some g

/-- The oldest WPOP parked on queue arg.id wakes, one for each record (R404, R405). -/
def execWpopWake (s : State) : Res :=
  match s.feed s.arg.id, firstParked ((s.poppers s.arg.id).filter (!·.wait.sat)) with
  | some q, some g => event s (decide (((s.poppers s.arg.id).filter (·.wait.sat)).length < q.count)) (·.wake g.ids.ref)
  | _, _ => .next s

/-- The device kernel disables queue arg.id by a store to CTRL (arg.x 1), whose performing wakes the waiters; a WPOP that parks on a queue already
disabled, as one restored there does, wakes too (R406). -/
def execFeedQueueDisable (s : State) : Res :=
  match (s.feed s.arg.id).filter (·.enabled) with
  | some q => event s (s.arg.x == 1) fun s => s.pokeAll {} (feedAt q.sel + 8) (toBytes 4 (q.ctrl - 1))
  | none => .next (s.wakePoppers s.arg.id)

/-- The device kernel enables the configured queue arg.id by a store to CTRL (R406). -/
def execFeedQueueEnable (s : State) : Res :=
  match s.feed s.arg.id with
  | none => .next s
  | some q => event s (!q.enabled) fun s => s.pokeAll {} (feedAt q.sel + 8) (toBytes 4 (q.ctrl + 1))

/-- WDONE (R407): the witness, then the status once the witness has performed. The addresses of both stores are judged before either
(DESIGN CHOICE, log 97). -/
def execWdone (f : FS) (s : State) : Res :=
  issue (.wdone f) s fun s =>
    let w := s.g.rdW f.wf.toNat
    let a := (s.g.rdS64 f.a.toNat).toNat
    checkWit w (
      if !s.g.storesFormed then .stall s
      else
        let x := mergeWit s.now s.g.mark w
        if a = 0 then .done (s.modG (·.wrW f.d.toNat x))
        else match s.judge s.g .g .store 8 a a 8, s.judge s.g .g .store 4 (a + 8 : Nat) (a + 8 : Nat) 4 with
          | some c, _ => .trap c (laneEval 0 a)
          | none, some c => .trap c (laneEval 0 (a + 8 : Nat))
          | none, none =>
            startOp (.wdone f)
              { kind := .store, space := .g, width := .b64, uni := true, wo := f.d.toNat
                tail := some (2 ^ 31 + (s.g.rdS f.b.toNat).toNat % 2 ^ 31), reqs := [{ lane := 0, addr := a, reg := 0, data := x.toNat }] }
              { id := 0, kind := .witness, marks := if f.d = 15 then [] else [.w f.d.toNat], uni := true, wreg := f.d.toNat
                wit := mkWit s.g.dom s.clock, store := true, plus := x } s)

/-- DLCHK (R408). -/
def execDlchk (f : FS) (s : State) : Res :=
  issue (.dlchk f) s fun s =>
    .done (s.modG (·.wrC f.d.toNat (passedAt (s.g.rdS64 f.a.toNat).toNat (s.now + f.imm.toNat))))

end Sys2Proof.Machine
end

