-- ==== Sys2Proof/Machine/System.lean ====
section
/-! DEFINITION. Trap and system instructions (R330 to R361, R210, R211, R363 to R365). -/

namespace Sys2Proof.Machine

/-! ### TRAP (R332) -/

/-- A lane's row of a TRAP record (R333). -/
def Ctx.trapRow (g : Ctx) (m : Word) (va l : Nat) : List DWord :=
  (List.range 4).map (fun k => if bit m l then BitVec.ofNat 64 (g.rd false (va + 2 * k) l 2) else 0)

/-- TRAP (R332). -/
def execTrap (f : FS) (s : State) : Res :=
  issue (.trap f) s fun s =>
    let t := s.g.exec f.h
    let va := f.a.toNat
    if t = 0 then .done s
    else if !s.g.storesFormed then .stall s
    else if s.g.slot.mode ≠ .idle then .park s s.g.trapWait
    else
      let next := nextPc s.g.flow.pc
      pushing s [{ kind := .trap, addr := next, mask := t }] fun s =>
        let s := s.modG (fun g => { g with slot := { mode := if f.var8 = 0 then .all else .any, rem := t, va, wd := f.wf.toNat } })
        let r := { s.record s.g 0 with
                   va, flags := if f.var8 = 1 then 1 else 0, code := f.imm.toNat, mask := t, pc := next
                   body := ((List.range 32).map (s.g.trapRow t va)).flatten }
        .rest (s.post s.g.cluster s.g.ids.core s.g.ids.slot r) s.g.trapWait

/-- TRET (R342). -/
def execTret (f : FS) (s : State) : Res :=
  issue (.tret f) s fun s =>
    if s.g.traps.level = 0 then .trap 0x03 0
    else match s.g.trets with
      | some w => follow s w
      | none => .trap 0x03 (BitVec.ofNat 64 s.g.flow.stack.length)

/-! ### System registers (R346, R347, R363, R365) -/

/-- The completions in the queue of 256 entries; those after them wait in the hub (R385). -/
def Prefect.queued (p : Prefect) : List (List Byte) := p.completions.take 256

/-- EVPEND (R358). -/
def Prefect.evpend (p : Prefect) : Nat :=
  (!p.trapq.isEmpty).toNat + 2 * (!p.mailbox.isEmpty).toNat +
  4 * (p.queued.any (fun c => field c 0 1 == 0)).toNat + 8 * (p.queued.any (fun c => field c 0 1 != 0)).toNat +
  16 * (!p.mgmtq.isEmpty).toNat

/-- The number of a system core's own registers. -/
def Ctx.own (g : Ctx) : Nat := g.ids.ref.sysIndex.getD 0

def roleCode : Role → Nat
  | .copy => 0
  | .matrix => 1
  | .vector => 2
  | .general => 3

/-- TLEVEL (R341). -/
def Ctx.tlevel (g : Ctx) : Nat := g.traps.word g.sched.attached

/-- A system register's value in a lane. A system core has no place in a launch, so the registers that name one are open there (DESIGN CHOICE, log 22). -/
def State.sysVal (s : State) (k l : Nat) : Nat :=
  let g := s.g
  let t := g.traps
  let p := s.pref g.own
  let launch (x : Nat) : Nat := if g.isSys then (s.free (2000 + k)).toNat % 2 ^ 32 else x
  match k with
  | 0x000 => l
  | 0x001 => launch g.ids.gidx
  | 0x002 => launch g.ids.team
  | 0x003 => launch g.ids.gang
  | 0x004 => launch g.ids.grid
  | 0x005 => g.ids.stage
  | 0x006 => roleCode g.ids.role
  | 0x007 => g.ids.world
  | 0x008 => g.flow.dead.toNat
  | 0x009 => g.flow.active.toNat
  | 0x00A => g.flow.sig.toNat
  | 0x00B => g.gmode.toNat
  | 0x00C => g.gstat.toNat
  | 0x00D => launch g.ids.core
  | 0x00E => launch g.ids.gpos
  | 0x00F => g.mclass
  | 0x010 => g.tlevel
  | 0x011 => t.epc1.toNat
  | 0x012 => t.epc2.toNat
  | 0x013 => t.ecause1.toNat
  | 0x014 => t.ecause2.toNat
  | 0x015 => t.eval1.toNat
  | 0x016 => t.eval2.toNat
  | 0x017 => t.tvec1.toNat
  | 0x018 => t.tvec2.toNat
  | 0x020 => if g.isSys then (s.free (2100 + l)).toNat else (g.pop.lineage.get 0 l).toNat
  | 0x100 => (match g.ids.ref with | .prefect p => p | _ => (s.free 2200).toNat % 2 ^ 32)
  | 0x101 => p.trapq.length
  | 0x102 => p.evpend
  | 0x103 => p.slice.toNat
  | 0x104 => p.forcedly.toNat
  | 0x105 => p.rmapsel.toNat
  | 0x106 => (s.rmap.get 0 p.rmapsel.toNat).toNat
  | 0x107 => p.asnsel.toNat
  | 0x108 => (s.roots.get 0 p.asnsel.toNat).toNat
  | 0x109 => p.mailbox.length
  | 0x10A => p.queued.length
  | 0x10B => s.hub.secring.toNat
  | 0x10C => p.hubsel.toNat
  | _ => s.bar0Read (p.hubsel.toNat % 2 ^ 24)

/-- The registers a system register takes in D. -/
def sysRegs (k : Nat) : Nat := if ((sysReg? k).map (·.wide)).getD false then 2 else 1

/-- Read a system register into D. -/
def sysRead (f : FS) (s : State) : Eff :=
  let k := f.sel.toNat
  if k = 8 ∧ s.g.vPending then .stall s
  else .done (putRegs f.h f.d.toNat (sysRegs k) (s.sysVal k) s)

/-- SRGET (R346, R347). -/
def execSrget (f : FS) (s : State) : Res := issue (.srget f) s (sysRead f)
/-- SRGET of HUBDATA (R365). -/
def execSrgetHubdata (f : FS) (s : State) : Res := issue (.srgetHubdata f) s (sysRead f)

/-- Write a register of the issuing context or of its system core: reserved fields stay zero. -/
def State.sysWrite (s : State) (k : Nat) (x : Word) (xx : DWord) : State :=
  let me := s.g.own
  let t (u : Traps → Traps) : State := s.modG (fun g => { g with traps := u g.traps })
  match k with
  | 0x00B => s.modG (fun g => { g with gmode := x &&& gmodeMask })
  | 0x00C => s.modG (fun g => { g with gstat := g.gstat &&& ~~~x })
  | 0x011 => t (fun t => { t with epc1 := xx, epcw1 := true })
  | 0x012 => t (fun t => { t with epc2 := xx, epcw2 := true })
  | 0x013 => t (fun t => { t with ecause1 := x &&& ecauseMask })
  | 0x014 => t (fun t => { t with ecause2 := x &&& ecauseMask })
  | 0x015 => t (fun t => { t with eval1 := xx })
  | 0x016 => t (fun t => { t with eval2 := xx })
  | 0x017 => t (fun t => { t with tvec1 := xx &&& tvecMask })
  | 0x018 => t (fun t => { t with tvec2 := xx &&& tvecMask })
  | 0x103 => s.modPref me (fun p => { p with slice := x })
  | 0x104 => s.modPref me (fun p => { p with forcedly := x })
  | 0x105 => s.modPref me (fun p => { p with rmapsel := x &&& 0xFFF })
  | 0x107 => s.modPref me (fun p => { p with asnsel := x &&& 0xFFF })
  | 0x10C => s.modPref me (fun p => { p with hubsel := x &&& 0xFFFFF8 })
  | _ => s

/-- SRSET (R346, R347). -/
def execSrset (f : FS) (s : State) : Res :=
  issue (.srset f) s fun s => .done (s.sysWrite f.sel.toNat (s.g.rdS f.a.toNat) (s.g.rdS64 f.a.toNat))

/-- Does a range of a space D side touch a region of 64 KiB? -/
def touches (rs : List (Int × Nat)) (lo : Nat) : Bool := rs.any (fun (a, n) => decide (a < lo + 2 ^ 16 ∧ (lo : Int) < a + n))

/-- Accesses to a region of die scratchpad that were checked against its entry and have not performed (R363): units in flight, tile
writes, commands and drains that name it. -/
def State.regionBusy (s : State) (k : Nat) : Bool :=
  let lo := k * 2 ^ 16
  s.accs.any (·.overlaps (Loc.die lo) (2 ^ 16)) || s.tiles.any (fun w => decide (Loc.die lo ≤ w.ver ∧ w.ver < Loc.die lo + 2 ^ 16)) ||
  s.cmds.any (fun c => (c.ssp == .d && !(c.gath && c.phase == 0) && touches (c.reads.map natRange) lo) ||
    (c.dsp == .d && !(c.scat && c.phase == 0) && touches c.writes lo)) ||
  s.mxq.any (fun o => match o.what with
    | .drain d => d.space == .d && touches (((if d.aon then [(d.dest - 8, 8)] else []) ++ d.regions.map (fun (e : Nat × Nat) => (d.dest + e.1, e.2))).map natRange) lo
    | _ => false)

/-- SRSET of RMAPENT (R363, R412): a region that changes its owner is zeroed first. -/
def execSrsetRmapent (f : FS) (s : State) : Res :=
  issue (.srsetRmapent f) s fun s =>
    let k := (s.pref s.g.own).rmapsel.toNat
    let e := s.g.rdS f.a.toNat &&& 0xFF0F
    if s.regionBusy k then .stall s
    else
      let s := if bitsAt (s.rmap.get 0 k).toNat 8 8 = bitsAt e.toNat 8 8 then s else s.clearRange (Loc.die (k * 2 ^ 16)) (2 ^ 16)
      .done { s with rmap := SMap.set 0 s.rmap k e }

/-- SRSET of ASNROOT (R363). -/
def execSrsetAsnroot (f : FS) (s : State) : Res :=
  issue (.srsetAsnroot f) s fun s => .done { s with roots := SMap.set 0 s.roots (s.pref s.g.own).asnsel.toNat (s.g.rdS64 f.a.toNat) }

/-- SRSET of HUBDATA (R365). -/
def execSrsetHubdata (f : FS) (s : State) : Res :=
  issue (.srsetHubdata f) s fun s => .done (s.bar0Write true (s.pref s.g.own).hubsel.toNat (s.g.rdS64 f.a.toNat).toNat)

/-! ### Handles and images -/

/-- The group a handle names (R331). -/
def refOf (h : Nat) : CtxRef := .group (h / 2 ^ 32) (h % 2 ^ 32)

/-- Write a status code to Sd. -/
def status (f : FS) (x : Nat) (s : State) : Eff := .done (s.modG (·.wrS f.d.toNat (BitVec.ofNat 32 x)))

/-- The resident group that a handle names; one that has ended has left its core. -/
def State.resident (s : State) (h : Nat) : Option Ctx := (s.ctx? (refOf h)).filter (!·.sched.ended)

/-- The context that a handle's image goes back into where the image is silent: as it was saved, else as its grid describes it (DESIGN CHOICE, log 42). -/
def State.shadow (s : State) (h world asn : Nat) : Ctx :=
  match s.savedAt (refOf h) with
  | some (_, g, _) => g
  | none =>
    let gid := h / 2 ^ 32
    let idx := h % 2 ^ 32
    let base : Ids := { ref := refOf h, grid := gid, gidx := idx, world, asn }
    match s.grid? gid with
    | none => { ids := base }
    | some gr =>
      let d := gr.desc
      let cls := d.positions.getD (idx % d.ngrp) 0
      { ids := { base with team := idx / d.ngrp, gang := idx / d.ngrp / d.gang, gpos := idx % d.ngrp, stage := Desc.stage cls, role := Desc.role cls
                           prio := gr.priority } }

/-- The size an image's contents call for (R349, R352); 0 when it has none. -/
def imageSize (bs : List Byte) : Nat :=
  if field bs 6 1 = 0 then 10240 + 4096 * field bs 0x122 1 + roundUp (8 * field bs 0x154 4) 64
  else field bs 0x48 4

/-- The sizes of the group images of a team image add up (R352). -/
def teamSizes : Nat → List Byte → Bool
  | 0, bs => bs.isEmpty
  | n + 1, bs =>
    let k := imageSize bs
    field bs 6 1 == 0 && field bs 0 4 == 0x4B4C4358 && decide (10240 ≤ k ∧ k ≤ bs.length) && teamSizes n (bs.drop k)

/-- MAGIC, VERSION, SIZE and CRC (R355). Bytes of an image that no rule lists are zero when it is written; an image with others is accepted, and they
are ignored (DESIGN CHOICE, log 76). -/
def imageOk (bs : List Byte) : Bool :=
  field bs 0 4 == 0x4B4C4358 && field bs 4 2 == 1 && field bs 0x10 4 == bs.length &&
  (if field bs 6 1 = 0 then imageSize bs == bs.length
   else field bs 6 1 == 1 && field bs 0x30 1 ≤ 32 && field bs 0x31 1 ≤ 32 && field bs 0x40 4 == 0x1440 + field bs 0x31 1 * tileBlock &&
     field bs 0x44 4 == field bs 0x40 4 + roundUp (8 * field bs 0x38 4) 64 &&
     field bs 0x48 4 == field bs 0x44 4 + roundUp (field bs 0x34 4) 64 && teamSizes (field bs 0x30 1) (bs.drop (field bs 0x48 4))) &&
  crcOk bs

/-- The largest image: a team of 32 groups with 6 E-blocks each, 32 tiles and a whole scratchpad. -/
def maxImage : Nat := 2 ^ 23

/-- An image at an address, checked in the order of R355: the state after its bytes were read, and they with the poisoned units, or the status. -/
def State.openImage (s : State) (a : Nat) : State × Except Nat (List Byte × List Nat) :=
  let rd (n : Nat) : Option (State × List Byte × List Nat) := if 2 ^ 56 < a + n then none else s.readImg s.g.cluster s.g.ids.asn s.g.ids.world a n
  match rd 256 with
  | none => (s, .error 7)
  | some (s0, h, _) =>
    let n := field h 0x10 4
    if field h 0 4 ≠ 0x4B4C4358 ∨ field h 4 2 ≠ 1 ∨ n < 10240 ∨ maxImage < n ∨ n % 64 ≠ 0 then (s0, .error 4)
    else match rd n with
      | none => (s0, .error 7)
      | some (s, bs, bad) =>
        (s, if !imageOk bs then .error 4
          else if (field bs 7 1).testBit 0 then .error 3
          else if ((s.grid? (field bs 0xC 4)).map (·.killed)).getD false then .error 6
          else if !s.imgPages s.g.cluster s.g.ids.asn s.g.ids.world a n .store then .error 7
          else .ok (bs, bad))

/-- The address of an image is a multiple of 64 (R349). -/
def imageAligned (a : Nat) (s : State) (e : State → Eff) : Eff := if a % 64 ≠ 0 then .trap 0x13 (laneEval 0 a) else e s

/-- Addresses in a page at which an image may begin: its MAGIC begins with 0x58, which memory lists unless the page is encrypted. -/
def State.headersOn (s : State) (cluster asn world page : Nat) : List Nat :=
  match s.imgLoc cluster asn world (page * 2 ^ 16) .load with
  | none => []
  | some (l, c) =>
    if c.enc then (List.range 1024).map (fun i => page * 2 ^ 16 + 64 * i)
    else (s.mem.filter (fun e => decide (l ≤ e.1) && decide (e.1 < l + 2 ^ 16) && e.1 % 64 == 0 && e.2 == 0x58)).map (fun e => page * 2 ^ 16 + (e.1 - l))

/-- The team images, by address and size, whose range includes an address (R350, R352, R452): wherever they came from, a header says where one lies. -/
def State.teamsAround (s : State) (cluster asn world a : Nat) : List (Nat × Nat) :=
  let first := (a - maxImage) / 2 ^ 16
  ((List.range (a / 2 ^ 16 + 1 - first)).map (fun i => s.headersOn cluster asn world (first + i))).flatten.filterMap (fun x =>
    if a ≤ x then none
    else match s.readImg cluster asn world x 24 with
      | none => none
      | some (_, h, _) =>
        let n := field h 0x10 4
        if field h 0 4 = 0x4B4C4358 ∧ field h 4 2 = 1 ∧ field h 6 1 = 1 ∧ a < x + n ∧ n ≤ maxImage then some (x, n) else none)

/-- The CRC of every team image around a changed group image is sealed again (R452). -/
def State.resealTeams (s : State) (cluster asn world a : Nat) : State :=
  (s.teamsAround cluster asn world a).foldl (fun s (x, n) =>
    match s.readImg cluster asn world x n with
    | none => s
    | some (s, bs, bad) => s.writeImg cluster asn world x (sealImage bs) bad) s

/-! ### RESUME (R336 to R338) -/

/-- The PEND entry of the trap under way: the one that still waits for lanes (those of earlier traps have them all). -/
def Entry.open_ (e : Entry) : Bool := e.kind == .pend && !e.d && e.aux != e.mask

/-- RESUME.LANES applied to a group, resident or read back from its image (R336). Every one sets the resume bit of the event latch, one that only adds
lanes to a PEND entry too (R124; DEDUCED, log 45). -/
def Ctx.resume (now : Nat) (m : Word) (rows : List (Nat × Nat × Nat)) (w : DWord) (g : Ctx) : Ctx :=
  let va := g.slot.va
  let g := rows.foldl (fun g (l, x, y) => if bit g.flow.dead l then g else (g.wr false va l 2 x).wr false (va + 2) l 1 y) g
  let g := g.wrW g.slot.wd (mergeWit now (g.rdW g.slot.wd) w)
  let rem := g.slot.rem &&& ~~~m
  let ready (g : Ctx) : Ctx := { g with wait := { g.wait with sat := true } }
  let go (g : Ctx) (a : Nat) : Ctx := ready { g with flow := { g.flow with pc := a, line := none } }
  let g := { g with slot := { g.slot with rem }, flow := { g.flow with lResume := true } }
  let g :=
    if g.flow.stack.any Entry.open_ then
      let g := g.setStack (g.flow.stack.map (fun e => if e.open_ then { e with aux := e.aux ||| (m &&& e.mask) } else e))
      if rem = 0 ∧ g.wait.kind = 6 then ready g else g
    else match g.flow.stack with
      | e :: rest =>
        if rem = 0 then go (g.setStack rest) e.addr
        else if g.slot.mode = .any then
          go ((g.setStack ({ kind := .pend, addr := e.addr, mask := rem &&& e.mask } :: rest)).setActive (g.flow.active &&& ~~~rem)) e.addr
        else g
      | [] => g
  if rem = 0 then { g with slot := { g.slot with mode := .idle } } else g

/-- Is a set of lanes one that may be resumed (R336)? -/
def Ctx.trapped (g : Ctx) (m : Word) : Bool := g.slot.mode != .idle && m != 0 && m &&& ~~~g.slot.rem == 0

/-- Apply a change to a group by handle, or by the address of its image with .IMG (R337): `test` gives the status when the change does not
apply. -/
def onTarget (f : FS) (s : State) (test : State → Ctx → Option Nat) (act : CtxRef → State → State) : Eff :=
  let h := (s.g.rdS64 f.a.toNat).toNat
  if !f.imm.getLsbD 0 then
    match s.resident h with
    | none => status f 2 s
    | some g =>
      match test s g with
      | some x => status f x s
      | none => status f 0 (act g.ids.ref s)
  else imageAligned h s fun s =>
    match s.openImage h with
    | (s, .error x) => status f x s
    | (s, .ok (bs, bad)) =>
      if field bs 6 1 ≠ 0 then status f 4 s
      else if (s.ctx? (refOf (field bs 8 8))).isSome then status f 3 s
      else
        let sh := s.shadow (field bs 8 8) (field bs 0x14 1) (field bs 0x16 2)
        match test s (groupBack s.now sh bs bad s.nextId) with
        | some x => status f x s
        | none =>
          match s.inImageAt s.g.cluster s.g.ids.asn s.g.ids.world h sh (act sh.ids.ref) with
          | none => status f 4 s
          | some s => status f 0 (s.resealTeams s.g.cluster s.g.ids.asn s.g.ids.world h)

/-- RESUME.LANES (R336, R337): the rows of the lanes named are read from C. -/
def execResumeLanes (f : FS) (s : State) : Res :=
  issue (.resumeLanes f) s fun s =>
    let m := s.g.rdS f.b.toNat
    let base := (s.g.rdS (f.b.toNat + 1)).toNat
    let w := s.g.rdW f.wf.toNat
    let nr := f.imm.getLsbD 1
    let at_ (l : Nat) : Nat := base + 16 * l
    let ls := if nr then [] else lanes m
    checkWit w (
      match ls.findSome? (fun l => (s.judge s.g .c .load 16 (at_ l) (at_ l) 16).map (fun c => (c, laneEval 0 (at_ l)))) with
      | some (c, v) => .trap c v
      | none =>
      match ls.foldl (fun (r : Option State) l => r.bind (fun s => s.settleRange s.g.ids.ref (s.place s.g .c (at_ l)) 16)) (some s) with
      | none => .stall s
      | some s =>
        match ls.find? (fun l => s.rangeBad (s.place s.g .c (at_ l)) 12) with
        | some l => .lost (s.logError 5 2 (s.place s.g .c (at_ l)) 0) 0x40 (BitVec.ofNat 64 (at_ l))
        | none =>
          let rows := ls.map (fun l => (l, s.mem.readN (s.place s.g .c (at_ l)) 8, s.mem.readN (s.place s.g .c (at_ l) + 8) 4))
          onTarget f s (fun _ g => if g.trapped m then none else some 8) (fun c t => t.modCtx c (Ctx.resume s.now m rows w)))

/-- The drain of a context that waits for the Prefect under a command id. -/
def State.waitingDrain (s : State) (c : CtxRef) (cid : Nat) : Option MxOp :=
  s.mxq.find? (fun o => o.c == c && o.phase == 2 && (match o.what with | .drain d => d.cmd == cid | _ => false))

/-- What a FAULT record's tag names is waiting (R338). -/
def State.faultWaits (s : State) (g : Ctx) (tag cid : Nat) : Bool :=
  if tag.testBit 7 then s.cmds.any (fun c => c.c == g.ids.ref && c.cid == cid && c.phase == 2) || (s.waitingDrain g.ids.ref cid).isSome
  else g.log.any (fun e => e.ix == tag % 4 && e.state == 1)

/-- A FAULT record is settled (R338): a resolved one is replayed or goes on, another is delivered or ends its command. -/
def State.settleFault (s : State) (c : CtxRef) (tag cid : Nat) (resolved : Bool) : State :=
  if tag.testBit 7 then
    match s.cmds.find? (fun x => x.c == c && x.cid == cid && x.phase == 2) with
    | some x => if resolved then s.startCmd x else s.cmdFault x x.cause x.va
    | none =>
      match s.waitingDrain c cid with
      | some o => if resolved then { s with mxq := s.mxq.map (fun x => if x.id = o.id then { x with phase := 0 } else x) } else s.mxFault o o.cause o.va
      | none => s
  else
    match (s.ctx? c).bind (fun g => g.log.find? (fun e => e.ix == tag % 4 && e.state == 1)) with
    | none => s
    | some e =>
      if resolved then s.modCtx c (fun g => { g with log := g.log.map (fun x => if x.ix = e.ix then { x with state := 2 } else x) })
      else s.settle c e

/-- RESUME.LOG (R338). -/
def execResumeLog (f : FS) (s : State) : Res :=
  issue (.resumeLog f) s fun s =>
    let b := (s.g.rdS f.b.toNat).toNat
    let tag := b % 256
    let cid := (s.g.rdS (f.b.toNat + 1)).toNat
    onTarget f s (fun s g => if s.faultWaits g tag cid then none else some 9) (fun c t => t.settleFault c tag cid (b.testBit 8))

/-! ### The trap queue (R333, R334) -/

/-- A record's bytes. -/
def TrapRec.bytes (r : TrapRec) : List Byte :=
  layout 64 [(0, 8, r.handle.toNat), (8, 1, r.typ), (9, 1, r.va), (10, 1, r.world), (11, 1, r.flags), (12, 2, r.asn), (14, 2, r.code), (16, 4, r.mask.toNat),
    (20, 4, r.active.toNat), (24, 8, r.mark.toNat), (32, 8, r.pc), (40, 4, r.core), (44, 1, r.tag), (45, 1, r.cause), (46, 1, r.access)
    , (48, 8, r.value.toNat), (56, 4, r.cmd)] ++
  (if r.typ = 0 ∨ r.typ = 2 then ((List.range 128).map (fun i => toBytes 8 (r.body.getD i 0).toNat)).flatten else [])

/-- TRQPOP (R334). -/
def execTrqpop (f : FS) (s : State) : Res :=
  issue (.trqpop f) s fun s =>
    let a := (s.g.rdS f.a.toNat).toNat
    padCheck 64 a 1088 .store s fun s =>
      match (s.pref s.g.own).trapq with
      | [] => if f.var8 = 1 then .stall s else .done (s.modG (·.wrC f.d.toNat false))
      | r :: rest =>
        ownBlock a 1088 s fun s l =>
          .done (((s.pokeAll {} l r.bytes).modPref s.g.own (fun p => { p with trapq := rest })).modG (·.wrC f.d.toNat true))

/-- Does one waiting record enter before another (R334)? -/
def Posted.sooner (a b : Posted) : Bool :=
  a.tick < b.tick || (a.tick == b.tick && (a.core < b.core || (a.core == b.core && a.slot < b.slot)))

/-- The first of the waiting records; records of one group are in the order posted. -/
def firstPosted : List Posted → Option Posted
  | [] => none
  | r :: rs => match firstPosted rs with | some q => if q.sooner r then some q else some r | none => some r

/-- A record that waits at its source enters the trap queue of Prefect arg.id (R334). -/
def execTrapRecordAdmit (s : State) : Res :=
  let p := s.pref s.arg.id
  match firstPosted p.posted with
  | none => .next s
  | some r => event s (decide (p.trapq.length < 64)) (·.modPref s.arg.id (fun p => { p with trapq := p.trapq ++ [r.rcd], posted := p.posted.erase r }))

/-! ### Saving (R353, R191) -/

/-- The exclusive-or that places an offset's lock bit. -/
def lockFold (o : Nat) : Nat := ((o >>> 8) ^^^ (o >>> 12) ^^^ (o >>> 16) ^^^ (o >>> 20)) % 16

/-- The offset within an allocation at `base` of a byte whose lock bit has a number (DEDUCED, log 41). -/
def lockOffset (base key : Nat) : Nat := key / 16 % 64 * 4 + ((key % 16) ^^^ lockFold base) * 2 ^ 8

/-- The lock bits in core scratchpad that groups of a team, saved alone, hold there detached (R191): they leave with the team's allocation. -/
def State.aloneLocks (s : State) (t : Team) : List (Nat × Nat) :=
  ((s.saved.filter (fun v => !v.isTeam && v.ctxs.any (fun e => e.1.inTeam t.grid t.team))).map (fun v => v.locks.filterMap (fun w =>
    let key := lockKey (Loc.core t.core (t.cbase + w % 2 ^ 24))
    if !w.testBit 24 ∧ s.locks.get none key = some (.detached t.grid) then some (key, w - w / 2 ^ 25 % 2 * 2 ^ 25) else none))).flatten

/-- The locks that contexts hold attached, as an image lists them: the number of the bit, and the word of R352. -/
def State.heldLocks (s : State) (gs : List Ctx) (team : Bool) : List (Nat × Nat) :=
  (gs.map (fun g =>
    ((s.locks.filter (fun e => e.2 == some (.attached g.ids.ref))).map (·.1)).map (fun key =>
      let core := key < 2 ^ 61
      let base := if core then ((s.team? g).map (·.cbase)).getD 0 else ((s.gang? g).map (·.kbase)).getD 0
      (key, lockOffset base (key % 2 ^ 22) + (!core).toNat * 2 ^ 24 + (!(team && core)).toNat * 2 ^ 25 + g.ids.gpos * 2 ^ 26)))).flatten

/-- Locks leave with a save: those in core scratchpad of a saved team are cleared, the others become detached. -/
def State.detachLocks (s : State) (ls : List (Nat × Nat)) (grid : Nat) : State :=
  { s with locks := ls.foldl (fun m (key, w) => SMap.set none m key (if w.testBit 25 then some (.detached grid) else none)) s.locks }

/-- A group is parked at a blocking point or held at one (R22, R354). -/
def Ctx.atPoint (g : Ctx) : Bool := (g.wait.kind != 0 || g.sched.held) && !g.sched.escalated

def Ctx.over (g : Ctx) : Bool := g.sched.finalWait || g.sched.ended

/-- What a save waits for (R24, R251, R283, R310, R325): matrix operations, results in flight, all-at-once writes, a resample under way; all
its commands and stores when forced. -/
def State.settledGroup (s : State) (force : Bool) (g : Ctx) : Bool :=
  let c := g.ids.ref
  !s.mxq.any (·.c == c) && !s.tiles.any (·.owner == some c) && !(s.arrivals.any (fun a => a.c == c && a.ready)) &&
  !(force && s.cmds.any (·.c == c)) &&
  g.pend.all (fun p => p.kind == .peer || p.logged || s.cmds.any (·.id == p.id)) &&
  !s.accs.any (fun a => a.owner == some c && (match a.op with
    | .store _ _ => force
    | .load p _ => !g.pend.any (fun q => q.id == p && q.kind == .peer)
    | .atomic _ _ _ _ _ _ => true))

/-- Commands of a team whose source, destination or list lies in its core scratchpad (R310). -/
def State.padCommands (s : State) (t : Team) : Bool :=
  s.cmds.any (fun c => !c.c.isSys && c.grid == t.grid && c.team == t.team && (c.dsp == .c || (c.ssp == .c && !c.fill) || c.gath || c.scat))

/-- A context on its way into an image: its slice is counted, its results are in its registers. -/
def Ctx.packed (s : State) (g : Ctx) : Ctx :=
  let g := g.leaving s.now
  { g with sched := { g.sched with sliceLeft := g.sched.sliceEnd - s.clock }, traps := { g.traps with delivered := [] } }

/-- Causes that a context takes with it. -/
def causesOf (g : Ctx) : List (CtxRef × Delivered) := g.traps.delivered.map (g.ids.ref, ·)

/-- Release the holds of groups (R353). -/
def State.releaseHolds (s : State) (gs : List Ctx) : State :=
  gs.foldl (fun s g => s.modCtx g.ids.ref (fun g => { g with sched := { g.sched with held := false, forceHeld := false } })) s

/-- The state that a step of the machine's own leaves for a context; `id` is what its condition names. -/
def State.after (ev : State → Res) (c : CtxRef) (id : Nat) (s : State) : State :=
  match ev { s with arg := { c, id } } with
  | .next t => { t with arg := s.arg }
  | _ => s

/-- A wake condition that holds now is seen before the group is saved (R23). -/
def State.wakeFirst (s : State) (g : Ctx) : State :=
  if g.wait.sat then s
  else match g.wait.kind with
    | 1 => s.after execBellWake g.ids.ref 0
    | 2 => s.after execWpopWake g.ids.ref g.wait.addr
    | 3 => s.after execWitnessSatisfiedWake g.ids.ref 0
    | 5 => (s.after execWitnessSatisfiedWake g.ids.ref 0).after execMwaitRecheck g.ids.ref 0
    | 10 => s.after execSleepWake g.ids.ref 0
    | _ => s

/-- The save itself, once the targets have drained: the status, or the witness of the image writes. What is under way to a team's core scratchpad
performs first, to be in its image; other stores of the groups stay outstanding and perform without them (R219). -/
def State.save (s : State) (gs : List Ctx) (team : Option Team) (a : Nat) (force : Bool) : State × Nat × DWord :=
  let me : Ctx := s.g
  let s : State := match team with
    | some t => (s.accs.filter (fun a => a.overlaps (Loc.core t.core t.cbase) t.csize)).foldl (fun (s : State) a => s.tryPerform a.id) s
    | none => s
  let s := gs.foldl (fun s g => s.wakeFirst ((s.ctx? g.ids.ref).getD g)) s
  let gs := gs.map (fun g => ((s.ctx? g.ids.ref).getD g).packed s)
  let ls := s.heldLocks gs team.isSome ++ (match team with | some t => s.aloneLocks t | none => [])
  let grid := (gs.headD me).ids.grid
  let core := (gs.headD me).ids.core
  let (bs, bad, offs) : List Byte × List Nat × List (Ctx × Nat) := match team, gs with
    | some t, _ => teamImage s t gs force (ls.map (·.2))
    | none, g :: _ => (groupImage s g force (ls.map (·.2)), groupBad g, [(g, 0)])
    | none, [] => ([], [], [])
  let n := bs.length
  let cl := me.cluster
  let asn := me.ids.asn
  let world := me.ids.world
  if 2 ^ 56 < a + n ∨ !s.imgPages cl asn world a n .store then (s.releaseHolds gs, 7, 0)
  else
    let wit := mkWit (s.imgDom core cl asn world a n) s.now
    let late := (gs.map (fun g => causesOf ((s.ctx? g.ids.ref).getD g))).flatten
    let s := (s.writeImg cl asn world a bs bad).detachLocks ls grid
    let s : State := { s with saved := s.saved ++ [{ isTeam := team.isSome, addr := a, asn, world, cluster := cl, ctxs := offs, team, core, locks := ls.map (·.2) }], late := s.late ++ late }
    let s : State := match team with
      | some t => s.freeTeam t
      | none => s.dropCtxs (fun x => gs.any (fun g => g.ids.ref == x.ids.ref))
    (s, 0, wit)

/-- Contexts in order of team position (R352). -/
def byPosition (gs : List Ctx) : List Ctx := ((List.range 32).map (fun i => gs.filter (·.ids.gpos == i))).flatten

/-- Save the group or team of a handle at an address (R353): the status and the witness of the image; none while the targets drain. -/
def State.saveTarget (s : State) (h a : Nat) (team force : Bool) : State × Option (Nat × DWord) :=
  let g := (s.ctx? (refOf h)).getD (s.shadow h 0 0)
  let t := s.team? g
  let gs : List Ctx := if team then (if t.isSome then byPosition (s.ctxs.filter (·.inTeam g.ids.grid g.ids.team)) else []) else (s.resident h).toList
  if gs.isEmpty then (s, some (2, 0))
  else if !force && !gs.all (fun g => g.atPoint || (g.over && !g.sched.escalated)) then (s, some (1, 0))
  else
    let s := if force then gs.foldl (fun s g => s.modCtx g.ids.ref (fun g => { g with sched := { g.sched with forceHeld := !g.over } })) s else s
    if !gs.all (s.settledGroup force) || (team && (t.map s.padCommands).getD false) then (s, none)
    else
      let (s, x, w) := s.save gs (if team then t else none) a force
      (s, some (x, w))

/-- CTXSV (R353). -/
def execCtxsv (f : FS) (s : State) : Res :=
  issue (.ctxsv f) s fun s =>
    let h := (s.g.rdS64 f.a.toNat).toNat
    let a := (s.g.rdS64 f.b.toNat).toNat
    imageAligned a s fun s =>
      match s.saveTarget h a (f.var8.getLsbD 0) (f.var8.getLsbD 1) with
      | (s, none) => .stall s
      | (s, some (x, w)) => status f x (if x = 0 then s.modG (·.wrW f.wf.toNat w) else s)

/-! ### Restoring (R355, R233) -/

/-- A witness restored on another device (R233). -/
def abroad (now : Nat) (w : DWord) : DWord := if wScope w = 0 ∨ expired now (wTick w) then 0 else mkWit { scope := 5, id := 0 } (wTick w)

/-- Every witness of a group is converted, those of stores in its operand log too. -/
def Ctx.convert (now : Nat) (g : Ctx) : Ctx :=
  { g with pend := g.pend.map (fun p => { p with wit := abroad now p.wit, plus := abroad now p.plus })
           regs := { g.regs with w := SMap.ofFn 0 15 (fun i => abroad now (g.rdW i)) }, mark := abroad now g.mark
           wait := { g.wait with witness := abroad now g.wait.witness } }

/-- The locks an image lists: the number of the bit at its new place, the holder's position, whether it was detached. -/
def listedLocks (bs : List Byte) (at_ n : Nat) (core cluster cbase kbase : Nat) : List (Nat × Nat × Bool) :=
  (List.range n).map (fun i =>
    let w := field bs (at_ + 8 * i) 8
    let o := w % 2 ^ 24
    (lockKey (if w.testBit 24 then Loc.cluster cluster (kbase + o) else Loc.core core (cbase + o)), w / 2 ^ 26 % 32, w.testBit 25))

/-- May each listed lock be set again for the groups of a grid? A detached one is still held for it; a cleared one waits while anyone holds it,
a detached holder of the same grid too (R191). -/
def State.lockable (s : State) (grid : Nat) (ls : List (Nat × Nat × Bool)) : Bool :=
  ls.all (fun (k, _, away) => match s.locks.get none k with | none => true | some (.detached g) => away && g == grid | some (.attached _) => false)

/-- Attach the listed locks; those of a group that is still saved alone are set again for its grid (R191). -/
def State.relock (s : State) (grid : Nat) (ls : List (Nat × Nat × Bool)) (who : Nat → Option CtxRef) (away : Nat → Bool) : State :=
  { s with locks := ls.foldl (fun m (k, p, _) =>
      match who p with
      | none => if away p then SMap.set none m k (some (.detached grid)) else m
      | some c => SMap.set none m k (some (.attached c))) s.locks }

/-- A restored context at its place: its slice goes on, it has been resumed, its causes are back. -/
def State.seat (s : State) (g : Ctx) (core slot : Nat) : Ctx :=
  let g := { g with ids := { g.ids with core, slot } }
  let fresh := g.newSlice s
  let late := (s.late.filter (·.1 == g.ids.ref)).map (·.2)
  { g with
    sched := { g.sched with held := false, forceHeld := false
                            sliceEnd := if g.sched.sliceLeft = 0 then fresh.sched.sliceEnd else s.clock + g.sched.sliceLeft
                            delay := fresh.sched.delay, expiredAt := s.clock, placed := s.clock, parkedAt := s.clock
                            haltedAt := s.clock, recheckAt := s.clock }
    flow := { g.flow with lResume := true }
    traps := { g.traps with delivered := late } }

/-- The group images of a team image: offset and bytes. -/
def groupImages : Nat → Nat → List Byte → List (Nat × List Byte)
  | 0, _, _ => []
  | n + 1, o, bs => (o, bs.take (imageSize bs)) :: groupImages n (o + imageSize bs) (bs.drop (imageSize bs))

/-- An image with its LOADED flag set. -/
def setLoaded (bs : List Byte) : List Byte := sealImage (bs.take 7 ++ [BitVec.ofNat 8 (field bs 7 1 ||| 1)] ++ bs.drop 8)

/-- The image is marked LOADED, and of a team image every group image in it, which RESUME .IMG may name alone (R337). -/
def State.markLoaded (s : State) (a : Nat) (bs : List Byte) (bad : List Nat) : State :=
  let o := field bs 0x48 4
  let bs := if field bs 6 1 = 0 then bs
    else bs.take o ++ ((groupImages (field bs 0x30 1) o (bs.drop o)).map (fun e => setLoaded e.2)).flatten
  s.writeImg s.g.cluster s.g.ids.asn s.g.ids.world a (setLoaded bs) bad

/-- A restore to a program counter that no slot starts at does not take place (R32). The fault follows the answers NOTRES and NOROOM and comes before
the wait for locks, and of a team's groups the first with a bad program counter is named (DESIGN CHOICE, log 105). -/
def restoring (gs : List Ctx) (e : Eff) : Eff :=
  match gs.find? (fun g => !slotAddr g.flow.pc) with
  | some g => .trap 0x04 (BitVec.ofNat 64 g.flow.pc)
  | none => e

/-- Restore a group image to its team's current core. -/
def loadGroup (f : FS) (a : Nat) (bs : List Byte) (bad : List Nat) (s : State) : Eff :=
  let sh := s.shadow (field bs 8 8) (field bs 0x14 1) (field bs 0x16 2)
  match s.team? sh with
  | none => status f 2 s
  | some t =>
    let foreign := field bs 0x18 8 ≠ Config.deviceId.toNat
    let g := groupBack s.now sh bs bad s.nextId
    let g := if foreign then g.convert s.now else g
    match s.freeSlots t.core with
    | [] => status f 5 s
    | slot :: _ =>
      if s.freeGranules t.core < g.granules then status f 5 s
      else
        let kbase := ((s.gang? sh).map (·.kbase)).getD 0
        let n := field bs 0x154 4
        let ls := listedLocks bs (bs.length - roundUp (8 * n) 64) n t.core (t.core / 16) t.cbase kbase
        let ls := if foreign then ls.map (fun (k, p, _) => (k, p, false)) else ls
        restoring [g] <|
        if !s.lockable t.grid ls then .stall s
        else
          let s := (s.markLoaded a bs bad).relock t.grid ls (fun _ => some g.ids.ref) (fun _ => false)
          let c := s.seat g t.core slot
          status f 0 { s with
            others := s.others ++ [c], nextId := s.nextId + 4, late := s.late.filter (·.1 != g.ids.ref)
            saved := s.saved.filter (fun v => !(!v.isTeam && v.ctxs.any (fun e => e.1.ids.ref == g.ids.ref))) }

/-- The BARRM arrivals of a bell's phase, from the groups parked there (R243): an image holds a group's mask in its registers alone, and one of another device
has no record beside it. -/
def State.rankedAt (s : State) (gs : List Ctx) (n : Nat) : List Ranked :=
  gs.filterMap (fun g =>
    if g.wait.kind = 1 ∧ g.wait.addr = n ∧ !g.wait.sat then
      match s.fetchLine g g.flow.pc with
      | .ok (_, d, true) =>
        (match decode (lineSlot d (slotIx g.flow.pc)) with
         | .ok (.barrm f) => some { c := g.ids.ref, mask := g.rdS f.a.toNat, level := g.traps.level }
         | _ => none)
      | _ => none
    else none)

/-- Poisoned units from an offset on, counted from there. -/
def within (o : Nat) (bad : List Nat) : List Nat := bad.filterMap (fun u => if o / 8 ≤ u then some (u - o / 8) else none)

/-- The team of a team image, without its place. -/
def teamBack (sh : Ctx) (bs : List Byte) (bad : List Nat) (prio : Nat) (saved : Option Team) (ranked : Nat → List Ranked) : Team :=
  let k := field bs 0x30 1
  { grid := sh.ids.grid, team := sh.ids.team, gang := sh.ids.gang, size := (saved.map (·.size)).getD k, csize := field bs 0x34 4
    bells := (List.range 24).map (fun i => Bell.ofCode (field bs (0x100 + 32 * i) 32) (ranked i))
    tabs := SMap.ofFn 0 4160 (fun i => bs.getD (0x400 + i) 0), tabBad := SMap.ofFn false 520 (fun k => bad.contains (0x80 + k))
    tiles := (List.range (field bs 0x31 1)).map (fun j =>
      tileBack ((bs.drop (0x1440 + j * tileBlock)).take tileBlock) (within (0x1440 + j * tileBlock) bad))
    prio, killed := (saved.map (·.killed)).getD false }

/-- Cores that can take a restored team: one given, or any; those of its gang's cluster when the gang is in place. -/
def State.coresFor (s : State) (t : Team) (gs : List Ctx) (core : Nat) : List Nat :=
  let all := if core = 0xFFFFFFFF then List.range Config.nCores else if core < Config.nCores then [core] else []
  let all := match s.gangs.find? (fun x => x.grid == t.grid && x.gang == t.gang) with
    | some x => all.filter (· / 16 == x.cluster)
    | none => all
  all.filter (fun k =>
    decide (gs.length ≤ (s.freeSlots k).length) && decide ((gs.map Ctx.granules).sum ≤ s.freeGranules k) &&
    decide (t.tiles.length ≤ s.freeTiles k) && (s.padBase k (roundUp t.csize 4096)).isSome &&
    !s.teams.any (fun x => x.core == k && x.grid == t.grid && x.gang == t.gang))

/-- Restore a team image (R355): which core placement chooses is open (R455). -/
def loadTeam (f : FS) (a core : Nat) (bs : List Byte) (bad : List Nat) (s : State) : Eff :=
  let sh := s.shadow (field bs 8 8) (field bs 0x14 1) (field bs 0x16 2)
  let foreign := field bs 0x18 8 ≠ Config.deviceId.toNat
  let imgs := groupImages (field bs 0x30 1) (field bs 0x48 4) (bs.drop (field bs 0x48 4))
  let gs := imgs.zipIdx.map (fun ((o, b), i) =>
    let g := groupBack s.now (s.shadow (field b 8 8) (field b 0x14 1) (field b 0x16 2)) b (within o bad) (s.nextId + 4 * i)
    if foreign then g.convert s.now else g)
  let rcd := s.saved.find? (fun v => v.isTeam && v.ctxs.any (fun e => e.1.ids.ref == sh.ids.ref))
  let t := teamBack sh bs bad sh.ids.prio (rcd.bind (·.team)) (fun i => match rcd.bind (·.team) with | some x => (x.bells.getD i {}).ranked | none => s.rankedAt gs i)
  let t := if foreign then { t with bells := t.bells.map (fun b => { b with pwit := abroad s.now b.pwit, acc := abroad s.now b.acc }) } else t
  let ks := s.coresFor t gs core
  let k := ks.getD ((s.free 2300).toNat % max 1 ks.length) 0
  match ks, s.padBase k (roundUp t.csize 4096) with
  | [], _ | _, none => status f 5 s
  | _ :: _, some cbase =>
    let kbase := ((s.gang? sh).map (·.kbase)).getD 0
    let n := field bs 0x38 4
    let ls := listedLocks bs (field bs 0x40 4) n k (k / 16) cbase kbase
    let ls := if foreign then ls.map (fun (x, p, _) => (x, p, false)) else ls
    restoring gs <|
    if !s.lockable t.grid ls then .stall s
    else
      let pad := field bs 0x44 4
      let s := s.markLoaded a bs bad
      let s := s.pokeAll {} (Loc.core k cbase) ((bs.drop pad).take t.csize)
      let s := (List.range (ceilDiv t.csize 8)).foldl (fun (s : State) i => if bad.contains (pad / 8 + i) then s.poisonRange (Loc.core k cbase + 8 * i) 8 else s) s
      let s := s.relock t.grid ls (fun p => (gs.find? (fun g => g.ids.gpos == p)).map (·.ids.ref))
        (fun p => s.saved.any (fun v => !v.isTeam && v.ctxs.any (fun e => e.1.inTeam t.grid t.team && e.1.ids.gpos == p)))
      let cs := (gs.zip (s.freeSlots k)).map (fun (g, slot) => s.seat g k slot)
      status f 0 { s with
        teams := s.teams ++ [{ t with core := k, cbase, placed := s.clock }], others := s.others ++ cs, nextId := s.nextId + 4 * gs.length
        late := s.late.filter (fun e => !gs.any (fun g => g.ids.ref == e.1))
        saved := s.saved.filter (fun v => !(v.isTeam && v.ctxs.any (fun e => e.1.ids.ref == sh.ids.ref))) }

/-- CTXLD (R355). -/
def execCtxld (f : FS) (s : State) : Res :=
  issue (.ctxld f) s fun s =>
    let a := (s.g.rdS64 f.a.toNat).toNat
    imageAligned a s fun s =>
      match s.openImage a with
      | (s, .error x) => status f x s
      | (s, .ok (bs, bad)) => if field bs 6 1 = 0 then loadGroup f a bs bad s else loadTeam f a (s.g.rdS f.b.toNat).toNat bs bad s

/-! ### GKILL (R356) -/

/-- A group is stopped: its log, its trap slot, its records, its causes and halts are discarded; what it has under way completes. -/
def Ctx.stop (g : Ctx) : Ctx :=
  let logged := g.log.map (·.op.pend)
  { g with
    slot := {}, wait := {}, log := [], pend := g.pend.filter (fun p => !logged.contains p.id && p.kind != .peer)
    traps := { g.traps with delivered := [] }
    sched := { g.sched with finalWait := true, killed := true, expiry := false, held := false, forceHeld := false, haltReq := false, halted := false
                            escalated := false, watch := none, yieldUntil := none } }

/-- Records of a group leave the trap queues. -/
def State.dropRecords (s : State) (h : DWord) : State :=
  { s with prefs := s.prefs.map (fun (p : Prefect) => { p with trapq := p.trapq.filter (·.handle != h), posted := p.posted.filter (·.rcd.handle != h) }) }

/-- Commands that are not running are withdrawn (R356). -/
def State.withdraw (s : State) (p : EngCmd → Bool) : State :=
  (s.cmds.filter (fun x => p x && (x.phase == 0 || x.phase == 2))).foldl (fun s x => s.cmdReply x 0) s

/-- Stop groups (R356): commands and drains that are not running are withdrawn. -/
def State.stopGroups (s : State) (gs : List Ctx) : State :=
  gs.foldl (fun s g =>
    let c := g.ids.ref
    let s := ((s.modCtx c Ctx.stop).dropRecords g.handle).withdraw (·.c == c)
    let s := (s.mxq.filter (fun o => o.c == c && o.phase == 2)).foldl (fun s o => s.mxReply o 0) s
    { s.modTeam g.ids.grid g.ids.team (fun t => { t with killed := true }) with
      arrivals := s.arrivals.filter (fun a => a.c != c) }) s

/-- The resident groups that have not stopped among those a test names. -/
def State.targets (s : State) (p : Ctx → Bool) : List Ctx := s.ctxs.filter (fun g => !g.isSys && p g && !g.sched.ended)

/-- GKILL of groups: NOTRES when none is resident. -/
def killThem (f : FS) (s : State) (p : Ctx → Bool) : Eff :=
  let gs := s.targets p
  if gs.isEmpty then status f 2 s else status f 0 (s.stopGroups gs)

/-- GKILL.GRP (R356). -/
def execGkillGrp (f : FS) (s : State) : Res :=
  issue (.gkillGrp f) s fun s => killThem f s (fun g => g.ids.ref == refOf (s.g.rdS64 f.a.toNat).toNat)

/-- The team of a handle's group. -/
def State.teamOf (s : State) (h : Nat) : Nat := (s.shadow h 0 0).ids.team

/-- GKILL.TEAM (R356). -/
def execGkillTeam (f : FS) (s : State) : Res :=
  issue (.gkillTeam f) s fun s =>
    let h := (s.g.rdS64 f.a.toNat).toNat
    let t := ((s.ctx? (refOf h)).map (·.ids.team)).getD (s.teamOf h)
    killThem f s (fun g => g.inTeam (h / 2 ^ 32) t)

/-- A grid is killed with its kill block (R356): it completes when its last group has stopped, at once when none is resident; commands of its saved
groups that run complete first (DEDUCED, log 49). -/
def State.killGrid (s : State) (gid : Nat) (block : List Byte) : State :=
  match s.grid? gid with
  | none => s
  | some g =>
    if g.phase = 3 then s
    else
      let s := if g.phase = 0 then s.loadDesc g else s
      let s := s.modGrid gid (fun g => { g with killed := true, killBlock := block })
      let s : State := { s with locks := s.locks.filter (fun e => e.2 != some (Holder.detached gid)) }
      let gs := s.targets (fun x => x.ids.grid == gid)
      ((s.stopGroups gs).withdraw (fun c => !c.c.isSys && c.grid == gid)).killedOver gid

/-- GKILL.GRID (R356). -/
def execGkillGrid (f : FS) (s : State) : Res :=
  issue (.gkillGrid f) s fun s =>
    let gid := (s.g.rdS64 f.a.toNat).toNat / 2 ^ 32
    let b := (s.g.rdS f.b.toNat).toNat
    padCheck 1 b 64 .load s fun s =>
      readBlock b 64 s fun s bs =>
        let none_ := (s.targets (fun g => g.ids.grid == gid)).isEmpty
        status f (if none_ then 2 else 0) (s.killGrid gid bs)

/-! ### HALTG (R357) -/

/-- Act on a resident group, or answer BADSTATE when the variant does not apply. -/
def halting (f : FS) (s : State) (applies : Sched → Bool) (act : Ctx → Ctx) : Eff :=
  match s.resident (s.g.rdS64 f.a.toNat).toNat with
  | none => status f 2 s
  | some g => if applies g.sched then status f 0 (s.modCtx g.ids.ref act) else status f 9 s

/-- A halt is released: the forced-save delay was suspended while it lasted (R348). -/
def Ctx.unhalt (now : Nat) (g : Ctx) : Ctx :=
  { g with sched := { g.sched with halted := false, haltReq := false
                                   expiredAt := if g.sched.halted then g.sched.expiredAt + (now - max g.sched.haltedAt g.sched.expiredAt) else g.sched.expiredAt } }

/-- HALTG.HALT (R357). -/
def execHaltgHalt (f : FS) (s : State) : Res :=
  issue (.haltgHalt f) s fun s => halting f s (fun d => !d.halted && !d.haltReq) (fun g => { g with sched := { g.sched with haltReq := true } })
/-- HALTG.GO (R357). -/
def execHaltgGo (f : FS) (s : State) : Res := issue (.haltgGo f) s fun s => halting f s (·.halted) (Ctx.unhalt s.clock)
/-- HALTG.ATT (R357). -/
def execHaltgAtt (f : FS) (s : State) : Res :=
  issue (.haltgAtt f) s fun s => halting f s (!·.attached) (fun g => { g with sched := { g.sched with attached := true } })
/-- HALTG.DET (R357). -/
def execHaltgDet (f : FS) (s : State) : Res :=
  issue (.haltgDet f) s fun s => halting f s (·.attached) (fun g =>
    let g := g.unhalt s.clock
    { g with sched := { g.sched with attached := false } })
/-- HALTG.REL (R357). -/
def execHaltgRel (f : FS) (s : State) : Res :=
  issue (.haltgRel f) s fun s => halting f s (fun d => d.held || d.forceHeld) (fun g =>
    ({ g with sched := { g.sched with held := false, forceHeld := false } } : Ctx).newSlice s)

/-- The requested halt of group arg.c takes effect at its boundary (R357, R325): a HALTED record is posted. -/
def execHaltTakesEffect (s : State) : Res :=
  match s.ctx? s.arg.c with
  | none => .next s
  | some g =>
    event s (g.sched.haltReq && !g.sched.ended && g.sched.tries == 0 && !s.arrivals.any (fun a => a.c == s.arg.c && a.ready)) fun s =>
      (s.modCtx s.arg.c (fun g => { g with sched := { g.sched with halted := true, haltReq := false, haltedAt := s.clock } })).post
        g.cluster g.ids.core g.ids.slot (s.record g 4)

/-! ### Slices (R354) -/

/-- A resample is being copied into a group's population (R325). -/
def State.copying (s : State) (c : CtxRef) : Bool := s.arrivals.any (fun a => a.c == c && a.ready)

/-- The slice of group arg.c runs out: its expiry is pending, and acts at once when the group is parked at a blocking point (R354). -/
def execSliceExpiry (s : State) : Res :=
  match s.ctx? s.arg.c with
  | none => .next s
  | some g =>
    event s (!g.isSys && !g.over && !g.sched.expiry && !g.sched.held && !g.sched.forceHeld && decide (g.sched.sliceEnd ≤ s.clock)) fun s =>
      let s := s.modCtx s.arg.c (fun g => { g with sched := { g.sched with expiry := true, expiredAt := s.clock } })
      if g.wait.kind ≠ 0 ∧ !g.wait.sat ∧ !g.sched.halted ∧ !g.sched.haltReq ∧ !g.sched.escalated ∧ !s.copying s.arg.c then s.via s.arg.c blockPoint else s

/-- No blocking point within FORCEDLY of the expiry: group arg.c is held at its next boundary (R354). -/
def execForcedlyExpiry (s : State) : Res :=
  match s.ctx? s.arg.c with
  | none => .next s
  | some g =>
    event s (g.sched.expiry && !g.over && !g.sched.halted && !g.sched.haltReq && !g.sched.escalated && g.sched.tries == 0 && !s.copying s.arg.c &&
        decide (g.sched.expiredAt + g.sched.delay ≤ s.clock)) fun s =>
      (s.modCtx s.arg.c (fun g => { g with sched := { g.sched with expiry := false, forceHeld := true } })).post
        g.cluster g.ids.core g.ids.slot (s.record g 6)

/-! ### PARK, WORLD, ICSYNC, TLBINV -/

/-- PARK (R358). -/
def execPark (f : FS) (s : State) : Res :=
  issue (.park f) s fun s =>
    let e := (s.pref s.g.own).evpend
    if e &&& f.imm.toNat ≠ 0 then .done (s.modG (·.wrS f.d.toNat (BitVec.ofNat 32 e))) else .stall s

/-- WORLD.SET (R359). -/
def execWorldSet (f : FS) (s : State) : Res :=
  issue (.worldSet f) s fun s =>
    let x := (s.g.rdS f.a.toNat).toNat
    .done (s.modG (fun g => { g with ids := { g.ids with world := x % 2 ^ 8, asn := x / 2 ^ 8 % 2 ^ 12 } }))
/-- WORLD.GET (R359). -/
def execWorldGet (f : FS) (s : State) : Res :=
  issue (.worldGet f) s fun s => .done (s.modG (fun g => g.wrS f.d.toNat (BitVec.ofNat 32 (g.ids.world + 2 ^ 8 * g.ids.asn))))

/-- ICSYNC (R360). -/
def execIcsync (f : FS) (s : State) : Res :=
  issue (.icsync f) s fun s =>
    awaitWit s (s.g.rdW f.wf.toNat) fun s =>
      let mine (k : Nat) : Bool := (match s.g.ids.ref with | .prefect p => k / 16 == p | _ => false) || k == s.g.engine
      .done ({ s with icache := if f.var8 = 1 then [] else s.icache.filter (fun e => !mine e.core) }.modG (·.wrW f.d.toNat (mkWit package s.now)))

/-- What a TLBINV removes (R210): the number of the variant, the ASN and the page. -/
def swept (v asn va : Nat) (t : Tr) : Bool :=
  match v with
  | 0 => t.covers asn va
  | 1 => t.asn == asn
  | _ => true

/-- Remove translations from the cluster TLBs and the last-page registers. -/
def State.sweepTlb (s : State) (p : Tr → Bool) : State :=
  let clean (g : Ctx) : Ctx := { g with lastPage := g.lastPage.filter (fun e => match e.2 with | some t => !p t | none => true) }
  { s with tlb := s.tlb.filter (fun e => !p e.2), g := clean s.g, others := s.others.map clean }

/-- What uses a translation now (R211, R364): engine commands, I/O commands and loads in flight that were translated with it. -/
def State.usersOf (s : State) (p : Tr → Bool) : List Nat :=
  (s.cmds.filter (fun c => c.trs.any (fun e => p e.2))).map (·.id) ++ (s.iocmds.filter (fun c => c.pages.any (fun e => p e.2))).map (·.id) ++
    (s.accs.filter (fun a => !a.isWrite && a.via.any p)).map (·.id)

/-- Is one of them still under way? -/
def State.using (s : State) (ids : List Nat) : Bool :=
  ids.any (fun i => s.cmds.any (·.id == i) || s.iocmds.any (·.id == i) || s.accs.any (·.id == i))

/-- A TLBINV: its witness is formed once what used a removed entry has finished (R211, R364); the loads and commands concerned are remembered in
the pending result. -/
def tlbinv (f : FS) (s : State) : Eff :=
  let va := (s.g.rdS64 f.a.toNat).toNat
  let p := swept f.var8.toNat f.sel.toNat va
  let (s, id) := s.fresh
  let cs := s.usersOf p
  .done ((s.sweepTlb p).modG (fun g => { g with pend := g.pend ++ [{ id, kind := .witness, marks := if f.wf = 15 then [] else [.w f.wf.toNat]
                                                                     wreg := f.wf.toNat, ready := false, level := g.traps.level, waits := cs }] }))

/-- TLBINV.PAGE (R210). -/
def execTlbinvPage (f : FS) (s : State) : Res := issue (.tlbinvPage f) s (tlbinv f)
/-- TLBINV.ASN (R210). -/
def execTlbinvAsn (f : FS) (s : State) : Res := issue (.tlbinvAsn f) s (tlbinv f)
/-- TLBINV.ALL (R210). -/
def execTlbinvAll (f : FS) (s : State) : Res := issue (.tlbinvAll f) s (tlbinv f)

/-- The sweep arg.id of system core arg.c is done and its witness is formed (R211, R364). -/
def execTlbinvSweepDone (s : State) : Res :=
  match (s.ctx? s.arg.c).bind (fun g => g.pend.find? (fun p => p.id == s.arg.id && p.kind == .witness && !p.ready && !p.store)) with
  | none => .next s
  | some p =>
    event s (s.arg.c.isSys && !s.cmds.any (·.id == p.id) && !s.using p.waits) fun s =>
      s.modCtx s.arg.c (fun g => { g.wrW p.wreg (mkWit package s.now) with pend := g.pend.filter (·.id != p.id) })

end Sys2Proof.Machine
end

