-- ==== Sys2Proof/Machine/Prefects.lean ====
section
/-! DEFINITION. Messages (R370 to R374, R386) and direct I/O (R382 to R385). -/

namespace Sys2Proof.Machine

/-! ### Messages -/

/-- The index a sender writes into SRC: its cluster, or 0xFF for a core of the hub (R369). -/
def Ctx.source (g : Ctx) : Nat := match g.ids.ref with | .prefect p => p | _ => 0xFF

/-- What waits as MSGSND does: the earlier stores have formed their witnesses (R372, R383). -/
def afterStores (s : State) (e : Eff) : Eff := if s.g.storesFormed then e else .stall s

/-- The message as it is delivered: SRC and WIT are the hardware's (R369). -/
def stamped (bs : List Byte) (src : Nat) (w : DWord) : List Byte :=
  bs.take 2 ++ toBytes 1 src ++ (bs.drop 3).take 5 ++ toBytes 8 w.toNat ++ bs.drop 16

/-- MSGSND (R372). -/
def execMsgsnd (f : FS) (s : State) : Res :=
  issue (.msgsnd f) s fun s =>
    let a := (s.g.rdS f.a.toNat).toNat
    let w := s.g.rdW f.wf.toNat
    let p := if f.var8.getLsbD 0 then (s.g.rdS f.b.toNat).toNat else f.sel.toNat
    checkWit w (padCheck 64 a 64 .load s fun s =>
      if 79 < p ∧ p ≠ 254 then .trap 0x12 (BitVec.ofNat 64 p)
      else afterStores s (
        if s.mailRoom p false then
          readBlock a 64 s fun s bs =>
            let m := stamped bs s.g.source (mergeWit s.now s.g.mark w)
            .done ((s.sendWire s.g.source p false (transit s.g.source p) m).modG (·.wrC f.d.toNat true))
        else if f.var8.getLsbD 1 then .stall s
        else .done (s.modG (·.wrC f.d.toNat false))))

/-- Take the oldest entry of a queue of the issuing core to C, with its poison (R429), or say that there is none. -/
def takeEntry (f : FS) (al n : Nat) (wait : Bool) (queue : Prefect → List (List Byte)) (rest : List (List Byte) → Prefect → Prefect)
    (s : State) : Eff :=
  let a := (s.g.rdS f.a.toNat).toNat
  padCheck al a n .store s fun s =>
    match queue (s.pref s.g.own) with
    | [] => if wait then .stall s else .done (s.modG (·.wrC f.d.toNat false))
    | m :: ms => ownBlock a n s fun s l =>
      let t := (s.pokeAll {} l m).modPref s.g.own (rest ms)
      let k := (s.g.own, m)
      let t := if s.badMail.contains k then { t.poisonRange l n with badMail := t.badMail.erase k } else t
      .done (t.modG (·.wrC f.d.toNat true))

/-- MSGRCV (R372). -/
def execMsgrcv (f : FS) (s : State) : Res :=
  issue (.msgrcv f) s
    (if f.var8.getLsbD 1 then takeEntry f 64 64 (f.var8.getLsbD 0) (·.mgmtq) (fun ms p => { p with mgmtq := ms })
     else takeEntry f 64 64 (f.var8.getLsbD 0) (·.mailbox) (fun ms p => { p with mailbox := ms }))

/-- A BOOT message starts a Prefect that is held in reset (R386). -/
def State.boot (s : State) (p : Nat) (m : List Byte) : State :=
  s.modCtx (.prefect p) (fun g =>
    if g.sched.held ∧ field m 0 2 = 1 then
      { g with sched := { g.sched with held := false }, flow := { g.flow with pc := field m 0x10 8 % 2 ^ 56, line := none }
               ids := { g.ids with world := 0, asn := 0 } }
    else g)

/-- Prefect 0 has a READY message of a cluster (R386). -/
def State.hearReady (s : State) (cluster stat : Nat) : State :=
  { s with kernel := { s.kernel with ready := s.kernel.ready.filter (·.1 != cluster) ++ [(cluster, stat)] } }

/-- Message arg.id reaches its queue (R370): in order for one receiver by tick, then by sender; a message of
the hub waits there for room (R445). -/
def execMessageArrive (s : State) : Res :=
  match s.wires.find? (·.id == s.arg.id) with
  | none => .next s
  | some w =>
    let first := s.wires.all (fun x => !(x.dst == w.dst && x.mgmt == w.mgmt) || x.id == w.id ||
      decide (w.due < x.due ∨ (w.due = x.due ∧ (w.src < x.src ∨ (w.src = x.src ∧ w.id < x.id)))))
    let room := w.dst == 254 || (if w.mgmt then decide ((s.pref w.dst).mgmtq.length < 16) else decide ((s.pref w.dst).mailbox.length < 128))
    event s (first && room && decide (w.due ≤ s.clock)) fun s =>
      let s : State := { s with wires := s.wires.filter (·.id != w.id) }
      let s := if w.dst = 0 ∧ !w.mgmt ∧ w.src < 80 ∧ field w.bytes 0 2 = 2 then s.hearReady w.src (field w.bytes 0x10 4) else s
      if w.dst = 254 then { s with hub := { s.hub with inbound := s.hub.inbound ++ [(w.src, w.bytes)] } }
      else if w.mgmt then s.modPref w.dst (fun p => { p with mgmtq := p.mgmtq ++ [w.bytes] })
      else (s.modPref w.dst (fun p => { p with mailbox := p.mailbox ++ [w.bytes] })).boot w.dst w.bytes

/-! ### Submitting (R383, R384) -/

namespace IoCmd
def word (c : IoCmd) (o n : Nat) : Nat := field c.desc o n
/-- The buffer's address. -/
def va (c : IoCmd) : Nat := if c.cls = 0 then c.word 24 8 else c.word 8 8
/-- An NVMe opcode. -/
def op (c : IoCmd) : Nat := c.word 0 1
/-- The bytes of the buffer. -/
def len (c : IoCmd) : Nat :=
  if c.cls ≠ 0 then c.word 0 4
  else match c.op with
    | 1 | 2 => (c.word 48 2 + 1) * 2 ^ (9 + (Config.lbaShift c.port).val)
    | 9 => (c.word 40 1 + 1) * 16
    | _ => 0
/-- Does the command write its buffer? -/
def writes (c : IoCmd) : Bool := if c.cls = 0 then c.op == 2 else c.cls == 2
/-- The port's number among all ports: NVMe 0 to 7, Ethernet 8 to 15. -/
def portNo (c : IoCmd) : Nat := if c.cls = 0 then c.port else c.port + 8
/-- The status of a descriptor whose fields keep it from the drive (R384). -/
def refused (c : IoCmd) : Option Nat :=
  if c.cls ≠ 0 then none
  else if !([0, 1, 2, 9].contains c.op) then some 0x001
  else if c.word 32 8 ≠ 0 ∨ c.word 1 1 % 4 ≠ 0 ∨ c.word 1 1 / 64 ≠ 0 ∨ c.word 16 8 ≠ 0 ∨ c.va % 4 ≠ 0 ∨ 2 ^ 21 < c.len then some 0x002
  else none
end IoCmd

/-- Translate the pages of a buffer (R383): none when one fails or is not local. -/
def State.ioPages (s : State) (cluster asn world : Nat) (k : AccKind) : List Nat → Option (State × List (Nat × Tr))
  | [] => some (s, [])
  | p :: ps =>
    match s.engTranslate cluster asn world (p * 2 ^ 16) k with
    | .error _ => none
    | .ok (s, t) => if leafTgt t.entry.toNat ≠ 0 then none else (ioPages s cluster asn world k ps).map (fun (s, ts) => (s, (p, t) :: ts))

/-- The free entries of a ring of 64 descriptors; only the Prefects have rings. -/
def State.ringRoom (s : State) (p port cls : Nat) : Bool :=
  decide (p < 80) && decide ((s.iocmds.filter (fun c => c.pref == p && c.port == port && c.cls == cls && !c.sent)).length < 64)

/-- A descriptor joins its ring with its buffer translated in an address space as an access of a world (R383, R384); a port that is not up takes
none (R367). -/
def State.enqueue (s : State) (cluster asn world : Nat) (c : IoCmd) : State :=
  let bad := if c.cls = 0 then 0x701 else 2
  let (s, pages, fail) : State × List (Nat × Tr) × Option Nat :=
    match if !s.hub.up.contains c.portNo then some (if c.cls = 0 then 0x006 else 3) else c.refused with
    | some x => (s, [], some x)
    | none =>
      if c.len = 0 then (s, [], none)
      else if 2 ^ 56 < c.va + c.len then (s, [], some bad)
      else match s.ioPages cluster asn world (if c.writes then .store else .load) (pagesOf [(c.va, c.len)]) with
        | none => (s, [], some bad)
        | some (s, ps) => (s, ps, none)
  { s with iocmds := s.iocmds ++ [{ c with pages, fail }] }

/-- IOSUB of a class (R383). -/
def submit (f : FS) (cls : Nat) (s : State) : Eff :=
  let a := (s.g.rdS f.a.toNat).toNat
  let w := s.g.rdW f.wf.toNat
  let port := f.sel.toNat
  checkWit w (padCheck 64 a 64 .load s fun s => afterStores s (
    if !s.ringRoom s.g.own port cls then (if f.var8.getLsbD 2 then .stall s else .done (s.modG (·.wrC f.d.toNat false)))
    else readBlock a 64 s fun s bs =>
      let (s, id) := s.fresh
      let c : IoCmd := { id, pref := s.g.own, port, cls, desc := bs, wit := mergeWit s.now s.g.mark w }
      .done ((s.enqueue s.g.cluster s.g.ids.asn s.g.ids.world c).modG (·.wrC f.d.toNat true))))

/-- IOSUB.NVME (R383, R384). -/
def execIosubNvme (f : FS) (s : State) : Res := issue (.iosubNvme f) s (submit f 0)
/-- IOSUB.TX (R383, R384). -/
def execIosubTx (f : FS) (s : State) : Res := issue (.iosubTx f) s (submit f 1)
/-- IOSUB.RX (R383, R384). -/
def execIosubRx (f : FS) (s : State) : Res := issue (.iosubRx f) s (submit f 2)

/-- IOPOLL (R385). -/
def execIopoll (f : FS) (s : State) : Res :=
  issue (.iopoll f) s (takeEntry f 32 32 (f.var8.getLsbD 0) (·.completions) (fun ms p => { p with completions := ms }))

/-! ### The hub's side -/

/-- The bytes of a command's buffer (R383). -/
def State.ioRead (s : State) (c : IoCmd) (n : Nat) : State × List Byte :=
  (pieces c.va n).foldl (fun (s, bs) (a, k) =>
    match c.pages.find? (fun e => e.1 == a / 2 ^ 16) with
    | none => (s, bs)
    | some (_, t) =>
      let (s, v, _) := s.peek t.crypt (t.loc a) k
      (s, bs ++ toBytes k v)) (s, [])

/-- Write a command's buffer: all its units in the step in which the command completes or the frame arrives (R214 leaves the time of each open; DESIGN
CHOICE, log 106). -/
def State.ioWrite (s : State) (c : IoCmd) (bs : List Byte) : State :=
  (pieces c.va bs.length).foldl (fun s (a, k) =>
    match c.pages.find? (fun e => e.1 == a / 2 ^ 16) with
    | none => s
    | some (_, t) => (s.poke t.crypt (t.loc a) ((bs.drop (a - c.va)).take k)).notice (t.loc a)) s

/-- A completion entry (R385). -/
def completion (s : State) (c : IoCmd) (stat dw : Nat) : List Byte :=
  toBytes 1 c.cls ++ toBytes 1 c.port ++ toBytes 2 stat ++ toBytes 4 dw ++ toBytes 8 (if c.cls = 0 then c.word 2 2 else c.word 16 8) ++
  toBytes 8 (mkWit package s.now).toNat ++ toBytes 8 0

/-- A command completes: it leaves the hub and its completion is queued; one that finds the queue full waits in the hub (R385). -/
def State.ioDone (s : State) (c : IoCmd) (stat dw : Nat) : State :=
  ({ s with iocmds := s.iocmds.filter (·.id != c.id) } : State).modPref c.pref (fun p => { p with completions := p.completions ++ [completion s c stat dw] })

/-- A command is the oldest of its ring. -/
def State.oldestIo (s : State) (c : IoCmd) : Bool :=
  !(s.iocmds.takeWhile (·.id != c.id)).any (fun x => x.pref == c.pref && x.port == c.port && x.cls == c.cls)

/-- A port counter (R445). -/
def State.count (s : State) (port k : Nat) : State :=
  { s with hub := { s.hub with counters := SMap.set 0 s.hub.counters (4 * port + k) (min (s.hub.counters.get 0 (4 * port + k) + 1) (2 ^ 64 - 1)) } }

/-- The I/O queue pair of a drive that the ring of a command feeds (R367). -/
def State.pairOf (s : State) (c : IoCmd) : Nat := c.pref % max 1 (s.hub.pairs.get 0 c.port)

/-- May a command go out now: a queue of depth d holds d - 1 commands (NVMe 2.0; PRESUMED, log 98), and a transmit ring sends in order? -/
def State.mayGo (s : State) (c : IoCmd) : Bool :=
  if c.cls = 0 then
    decide ((s.iocmds.filter (fun x => x.sent && x.cls == 0 && x.port == c.port && s.pairOf x == s.pairOf c)).length < max 1 (s.hub.depth.get 0 c.port - 1))
  else !(s.iocmds.takeWhile (·.id != c.id)).any (fun x => x.pref == c.pref && x.port == c.port && x.cls == 1 && !x.sent && x.fail.isNone)

/-- Once its witness is satisfied, the hub reads the buffer of command arg.id and sends it; one that reaches no drive or MAC completes with its
status (R383, R384). -/
def execIoBufferDispatch (s : State) : Res :=
  match s.iocmds.find? (fun c => c.id == s.arg.id && !c.sent) with
  | none => .next s
  | some c =>
    match c.fail with
    | some x => event s (c.cls == 0 || s.oldestIo c) (·.ioDone c x 0)
    | none =>
      event s (c.cls != 2 && s.satisfied c.wit package && s.mayGo c) fun s =>
        let (s, bs) := if c.writes then (s, []) else s.ioRead c c.len
        let s := if c.cls = 1 then s.count c.port 1 else s
        { s with iocmds := s.iocmds.map (fun x => if x.id = c.id then { x with sent := true, data := bs } else x)
                 out := s.out ++ [if c.cls = 0 then { kind := 5, port := c.port + 256 * s.pairOf c, bytes := c.desc ++ bs }
                                  else { kind := 4, port := c.port, bytes := bs }] }

/-! ### The blocks of a file (R456) -/

/-- The LBA size of a port's drive. -/
def lbaSize (port : Nat) : Nat := 2 ^ (9 + (Config.lbaShift port).val)

def State.file? (s : State) (path : List Byte) : Option FileRec := s.kernel.files.find? (·.path == path)
def State.putFile (s : State) (f : FileRec) : State :=
  { s with kernel := { s.kernel with files := s.kernel.files.map (fun x => if x.path = f.path then f else x) } }

/-- A file's bytes with others put at an offset; a gap reads as zero. -/
def spliced (old : List Byte) (o : Nat) (bs : List Byte) : List Byte :=
  if bs = [] then old else (old ++ List.replicate (o - old.length) (0 : Byte)).take o ++ bs ++ old.drop (o + bs.length)

/-- The next piece of a job with blocks of `z` bytes: its first byte in the file, its bytes, and where its first block begins. The drive takes at
most 2 MiB of a buffer at once (R384); the owner's frame holds 64 KiB. -/
def Job.piece (z : Nat) (j : Job) : Nat × Nat × Nat :=
  let at_ := j.ofs + j.done
  let b := at_ / z * z
  (at_, if j.direct then min (2 ^ 21) (j.len - j.done) else min (j.ofs + j.len) (b + 2 ^ 16) - at_, b)

/-- The bytes that a drive returns for a command of a job: those of the file's blocks, free values past its end (log 99). -/
def State.fileBlocks (s : State) (j : Job) (n : Nat) : List Byte :=
  match s.file? j.path with
  | some f =>
    let (_, _, b) := j.piece (lbaSize f.port)
    let bs := (f.data.drop b).take n
    bs ++ (List.range (n - bs.length)).map (fun i => (s.free (4000 + bs.length + i)).setWidth 8)
  | none => (List.range n).map (fun i => (s.free (4000 + i)).setWidth 8)

/-- The drive has written the blocks of a job's command: the file holds the bytes that the WRITE names, and others as before. -/
def State.fileWritten (s : State) (j : Job) (data : List Byte) : State :=
  match s.file? j.path with
  | some f =>
    let (at_, n, b) := j.piece (lbaSize f.port)
    s.putFile { f with data := spliced f.data at_ ((data.drop (at_ - b)).take n) }
  | none => s

/-- The job that a command is part of. -/
def State.jobOf (s : State) (c : IoCmd) : Option Job := c.job.bind (fun i => s.kernel.jobs.find? (·.id == i))

/-- Command arg.id completes at the drive or MAC (R385): arg.x is the status field, arg.units the first word of an NVMe completion, arg.bytes what
a read delivers; the blocks of a file are the file's. -/
def execIoCommandComplete (s : State) : Res :=
  match s.iocmds.find? (fun c => c.id == s.arg.id && c.sent) with
  | none => .next s
  | some c =>
    event s (c.cls == 0 || s.oldestIo c) fun s =>
      if c.cls = 0 then
        let s := match s.jobOf c with
          | some j => if s.arg.x % 2 ^ 15 ≠ 0 then s else if c.writes then s.ioWrite c (s.fileBlocks j c.len) else s.fileWritten j c.data
          | none => if c.writes then s.ioWrite c (s.arg.bytes.take c.len) else s
        s.ioDone c (s.arg.x % 2 ^ 15) (s.arg.units.toNat % 2 ^ 32)
      else s.ioDone c 0 c.len

/-- A big-endian 16-bit field of a frame. -/
def wire16 (bs : List Byte) (o : Nat) : Nat := (bs.getD o 0).toNat * 256 + (bs.getD (o + 1) 0).toNat

/-- Where the payload of a frame begins, and its type: past the VLAN tags (IEEE 802.1Q; PRESUMED, log 98). -/
def etherType : Nat → Nat → List Byte → Nat × Nat
  | 0, o, bs => (o + 2, wire16 bs o)
  | n + 1, o, bs => if wire16 bs o = 0x8100 ∨ wire16 bs o = 0x88A8 then etherType n (o + 4) bs else (o + 2, wire16 bs o)

/-- The header that follows the extension headers of IPv6 (RFC 8200; PRESUMED, log 98): its protocol and place; none in a later fragment. -/
def afterIpv6 : Nat → Nat → Nat → List Byte → Option (Nat × Nat)
  | 0, _, _, _ => none
  | n + 1, proto, o, bs =>
    let next := (bs.getD o 0).toNat
    let len := (bs.getD (o + 1) 0).toNat
    if proto = 0 ∨ proto = 43 ∨ proto = 60 then afterIpv6 n next (o + 8 * (len + 1)) bs
    else if proto = 51 then afterIpv6 n next (o + 4 * (len + 2)) bs
    else if proto = 44 then (if wire16 bs (o + 2) / 8 = 0 then afterIpv6 n next (o + 8) bs else none)
    else some (proto, o)

/-- Where the UDP header of a frame lies, if it has one. -/
def udpAt (bs : List Byte) : Option Nat :=
  let (o, t) := etherType 8 12 bs
  let v := (bs.getD o 0).toNat
  if t = 0x0800 ∧ v / 16 = 4 ∧ bs.getD (o + 9) 0 = 17 ∧ wire16 bs (o + 6) % 2 ^ 13 = 0 then some (o + v % 16 * 4)
  else if t = 0x86DD ∧ v / 16 = 6 then ((afterIpv6 16 (bs.getD (o + 6) 0).toNat (o + 40) bs).filter (·.1 == 17)).map (·.2)
  else none

/-- The Prefect a frame is steered to (R384). -/
def steer (bs : List Byte) : Nat := ((udpAt bs).map (fun o => wire16 bs (o + 2) % 80)).getD 0

/-- The buffer a frame fills: the oldest posted one of its Prefect on its port. -/
def State.rxBuffer (s : State) (port : Nat) (bs : List Byte) : Option IoCmd :=
  (s.iocmds.find? (fun c => c.cls == 2 && c.port == port && c.pref == steer bs)).filter (·.fail.isNone)

/-- A frame fills a buffer. -/
def State.fillRx (s : State) (c : IoCmd) (bs : List Byte) : State :=
  let n := min bs.length c.len
  (s.ioWrite c (bs.take n)).ioDone c (if c.len < bs.length then 1 else 0) n

/-- A frame arg.bytes arrives at Ethernet port arg.id, or one that waits there finds a buffer (R384, R445). -/
def execRxFrame (s : State) : Res :=
  let port := s.arg.id
  let bs := s.arg.bytes
  match s.hub.frames.find? (fun e => e.1 == port && (s.rxBuffer port e.2).isSome) with
  | some e =>
    .next (match s.rxBuffer port e.2 with
    | some c => ({ s with hub := { s.hub with frames := s.hub.frames.erase e } } : State).fillRx c e.2
    | none => s)
  | none =>
    event s (s.hub.up.contains (port + 8) && decide (port < 8) && !bs.isEmpty) fun s =>
      if !s.arg.ok then s.count port 2
      else
        let s := s.count port 0
        match s.rxBuffer port bs with
        | some c => s.fillRx c bs
        | none =>
          if ((s.hub.frames.filter (·.1 == port)).map (·.2.length)).sum + bs.length ≤ 2 ^ 18 then
            { s with hub := { s.hub with frames := s.hub.frames ++ [(port, bs)] } }
          else s.count port 3

end Sys2Proof.Machine
end

