-- ==== Sys2Proof/Machine/Kernel.lean ====
section
/-! DEFINITION. What the device kernel does where the manual gives it (R354, R368, R375 to R381, R395, R396, R447, R451, R454, R456, R457): calls and
the messages between shards, files, faults, and the policies for slices, deadlocks and pre-emption. -/

namespace Sys2Proof.Machine

/-! ### Calls (R375, R377, R451) -/

/-- The oldest record in the queue of a Prefect that a test names. -/
def State.recordAt (s : State) (p : Nat) (test : TrapRec → Bool) : Option TrapRec := (s.pref p).trapq.find? test

/-- A TRAP record with a call code. -/
def TrapRec.calls (r : TrapRec) (code : Nat) : Bool := r.typ == 0 && r.code == code

/-- The four arguments of a lane (R333). -/
def TrapRec.arg (r : TrapRec) (l k : Nat) : Nat := (r.body.getD (4 * l + k) 0).toNat

/-- The group of a record. -/
def TrapRec.group (r : TrapRec) : CtxRef := refOf r.handle.toNat

/-- The Prefect takes the record. -/
def State.takeRecord (s : State) (p : Nat) (r : TrapRec) : State := s.modPref p (fun q => { q with trapq := q.trapq.erase r })

/-- Put a lane with the lanes that form one call with it. -/
def joinBatch (key : List Nat) (l : Nat) : List (List Nat × List Nat) → List (List Nat × List Nat)
  | [] => [(key, [l])]
  | (k, ls) :: t => if k = key then (k, ls ++ [l]) :: t else (k, ls) :: joinBatch key l t

/-- The calls of a record in ascending order of their lowest lane: lanes of one key form one (R375). -/
def batches (key : Nat → List Nat) (ls : List Nat) : List (List Nat) := (ls.foldl (fun bs l => joinBatch (key l) l bs) []).map (·.2)

/-- Lanes with equal arguments form one call. -/
def identical (r : TrapRec) (l : Nat) : List Nat := (List.range 4).map (r.arg l)
/-- Every lane is a call of its own. -/
def alone (_ : TrapRec) (l : Nat) : List Nat := [l]

/-- A call of some lanes of a record, served by a shard. -/
def TrapRec.call (r : TrapRec) (owner : Nat) (ls : List Nat) : Call :=
  { owner, handle := r.handle, lanes := ls, code := r.code, args := (List.range 4).map (r.arg (ls.headD 0)), asn := r.asn, world := r.world }

namespace Call
def arg (c : Call) (k : Nat) : Nat := c.args.getD k 0
/-- One result for every lane. -/
def rows (c : Call) (v x : Nat) : List (Nat × Nat × Nat) := c.lanes.map (fun l => (l, v, x))
/-- The payload of its CALL message (R377). -/
def payload (c : Call) : List Byte :=
  toBytes 8 c.handle.toNat ++ toBytes 4 (maskOf c.lanes).toNat ++ toBytes 4 c.code ++ ((List.range 4).map (fun k => toBytes 8 (c.arg k))).flatten
end Call

/-- The ASN and world of a caller, whose CALL has no field for them (DESIGN CHOICE, log 81). -/
def State.caller (s : State) (handle : Nat) : Nat × Nat :=
  match s.known (refOf handle), s.grid? (handle / 2 ^ 32) with
  | some g, _ => (g.ids.asn, g.ids.world)
  | none, some g => (g.asn, g.world)
  | none, none => (0, 0)

/-- The codes of the calls whose a0 is a descriptor (R375). -/
def fdCodes : List Nat := [0x0021, 0x0022, 0x0023, 0x0031, 0x0032]

/-- The call that a CALL message brings to a shard: the ASN of one on a descriptor is the descriptor's (R451). -/
def State.callOf (s : State) (owner : Nat) (m : List Byte) : Call :=
  let h := field m 0x10 8
  let (asn, world) := s.caller h
  let asn := if fdCodes.contains (field m 0x1C 2) then bitsAt (field m 0x20 8) 12 12 else asn
  { owner, handle := BitVec.ofNat 64 h, lanes := lanes (BitVec.ofNat 32 (field m 0x18 4)), code := field m 0x1C 2
    args := (List.range 4).map (fun k => field m (0x20 + 8 * k) 8), asn, world, back := some (field m 2 1, field m 4 4) }

/-- How the kernel serves a call: the state and, unless it goes on for a while, the result and the witness of what was written. -/
abbrev Serve := State → Call → State × Option (List (Nat × Nat × Nat) × DWord)

/-- A result waits for its RESUME or its REPLY, in order (R375, R377). -/
def State.answer (s : State) (c : Call) (rows : List (Nat × Nat × Nat)) (wit : DWord) : State :=
  { s with kernel := { s.kernel with replies := s.kernel.replies ++ [{ call := c, rows, wit }] } }

/-- Serve a call at its owner. -/
def State.serveCall (f : Serve) (s : State) (c : Call) : State :=
  match f s c with
  | (s, some (rows, w)) => s.answer c rows w
  | (s, none) => s

/-- The witness of a message that a Prefect's kernel sends: it covers its stores so far (R369). -/
def State.kernelWit (s : State) (p : Nat) : DWord := mkWit { scope := 2, id := p } s.now

/-- Send a CALL to the shard that owns the resource, and keep what the answer needs (R451); none when its mailbox has no room. -/
def State.forward (s : State) (p va : Nat) (c : Call) : Option State :=
  if s.mailRoom c.owner false then
    let (s, id) := s.fresh
    let tag := id % 2 ^ 32
    some (({ s with kernel := { s.kernel with sent := s.kernel.sent ++ [{ pref := p, tag, call := c, va }] } } : State).sendWire p c.owner false (transit p c.owner)
      (message 0x0100 p 0 tag (s.kernelWit p).toNat c.payload))
  else none

/-- Serve the calls of a record, or forward them to their owners. -/
def State.takeCalls (s : State) (p : Nat) (r : TrapRec) (key : Nat → List Nat) (owner : State → TrapRec → Nat → Option Nat) (f : Serve) : Option State :=
  (batches key (lanes r.mask)).foldl (fun acc ls => acc.bind (fun s =>
    let o := (owner s r (ls.headD 0)).getD p
    if o = p then some (s.serveCall f (r.call p ls)) else s.forward p r.va (r.call o ls))) (some (s.takeRecord p r))

/-- Take the oldest message of a Prefect's mailbox that a test names (the others are set aside: DESIGN CHOICE, log 81). -/
def State.takeMail (s : State) (p : Nat) (test : List Byte → Bool) : Option (State × List Byte) :=
  ((s.pref p).mailbox.find? test).map (fun m => (s.modPref p (fun q => { q with mailbox := q.mailbox.erase m }), m))

/-- The kernel of Prefect arg.id turns to calls of one code: a CALL message that it owns, else the oldest record with that code. -/
def kernelCall (s : State) (code : Nat) (key : TrapRec → Nat → List Nat) (owner : State → TrapRec → Nat → Option Nat) (f : Serve) : Res :=
  let p := s.arg.id
  match s.takeMail p (fun m => field m 0 2 == 0x0100 && field m 0x1C 2 == code) with
  | some (t, m) => .next (t.serveCall f (t.callOf p m))
  | none =>
    match s.recordAt p (·.calls code) with
    | none => .next s
    | some r => .next ((s.takeCalls p r (key r) owner f).getD s)

/-- The result of a call whose value the manual does not give is free. -/
def State.failed_ (s : State) (c : Call) (x : Nat) : List (Nat × Nat × Nat) := c.rows (s.free (3000 + c.lanes.headD 0)).toNat x

/-- A call ends at once with a status. -/
def State.refuse (s : State) (c : Call) (x : Nat) : State × Option (List (Nat × Nat × Nat) × DWord) := (s, some (s.failed_ c x, 0))

/-- A call ends at once with a value. -/
def State.give (s : State) (c : Call) (v : Nat) : State × Option (List (Nat × Nat × Nat) × DWord) := (s, some (c.rows v 0, 0))

def eNOENT : Nat := 2
def eIO : Nat := 5
def eBADF : Nat := 9
def eAGAIN : Nat := 11
def eNOMEM : Nat := 12
def eACCES : Nat := 13
def eFAULT : Nat := 14
def eINVAL : Nat := 22
def eNOSPC : Nat := 28
def eNOSYS : Nat := 38

/-! ### The heap (R375, R447, R457) -/

/-- The shard that owns the heap of a record's context (R368). -/
def heapOwner (_ : State) (r : TrapRec) (_ : Nat) : Option Nat := some (r.asn % 80)

/-- The lowest freed range that holds `n` bytes at an alignment. -/
def Heap.fit (h : Heap) (n a : Nat) : Option (Nat × Nat) :=
  (h.freed.filter (fun (b, k) => decide (roundUp b a + n ≤ b + k))).foldl
    (fun m e => match m with | none => some e | some x => if e.1 < x.1 then some e else some x) none

/-- Place `c` slices of `z` bytes at alignment `a` (R447): the base and how many are granted. -/
def Heap.place (h : Heap) (c z a : Nat) : Heap × Nat × Nat :=
  match h.fit (c * z) a with
  | some (b, k) =>
    let start := roundUp b a
    let left := [(b, start - b), (start + c * z, b + k - (start + c * z))].filter (fun e => e.2 != 0)
    ({ h with freed := h.freed.erase (b, k) ++ left, slices := h.slices ++ (List.range c).map (fun j => (start + j * z, z)) }, start, c)
  | none =>
    let start := roundUp h.top a
    let k := if h.base + h.limit < start then 0 else min c ((h.base + h.limit - start) / z)
    ({ h with top := if k = 0 then h.top else start + k * z, slices := h.slices ++ (List.range k).map (fun j => (start + j * z, z)) }, start, k)

/-- The alignment that an argument names. -/
def alignOf (a : Nat) : Option Nat :=
  if a = 0 then some 16 else if ((List.range 13).map (fun i => 2 ^ (i + 4))).contains a then some a else none

def State.heap (s : State) (asn : Nat) : Option Heap := s.kernel.heaps.get none asn
def State.setHeap (s : State) (asn : Nat) (h : Heap) : State := { s with kernel := { s.kernel with heaps := SMap.set none s.kernel.heaps asn (some h) } }

/-- ALLOC (R375, R447). -/
def allocBatch : Serve := fun s c =>
  let size := c.arg 0
  match alignOf (c.arg 1) with
  | none => s.refuse c eINVAL
  | some a =>
    if size = 0 ∨ 2 ^ 32 < size then s.refuse c eINVAL
    else match s.heap c.asn with
      | none => (s, some (c.rows 0 eNOMEM, 0))
      | some h =>
        let z := roundUp size a
        let (h, start, k) := h.place c.lanes.length z a
        (s.setHeap c.asn h, some (c.lanes.zipIdx.map (fun (l, j) => if j < k then (l, start + j * z, 0) else (l, 0, eNOMEM)), 0))

/-- ALLOC calls at Prefect arg.id. -/
def execCallAlloc (s : State) : Res := kernelCall s 0x0011 (fun r l => [r.arg l 0, r.arg l 1]) heapOwner allocBatch

/-- FREE (R375). -/
def freeSlice : Serve := fun s c =>
  match (s.heap c.asn).bind (fun h => (h.slices.find? (fun e => e.1 == c.arg 0)).map (h, ·)) with
  | none => s.refuse c eINVAL
  | some (h, e) => (s.setHeap c.asn { h with slices := h.slices.erase e, freed := h.freed ++ [e] }).give c 0

/-- FREE calls at Prefect arg.id. -/
def execCallFree (s : State) : Res := kernelCall s 0x0010 alone heapOwner freeSlice

/-! ### Descriptors (R368, R451) -/

/-- The Prefect that owns a path. -/
def pathShard (path : List Byte) : Nat := (Crypto.crc32c path).toNat % 80

/-- A descriptor as programs hold it. -/
def Fd.code (d : Fd) : Nat := d.shard * 2 ^ 24 + d.asn * 2 ^ 12 + d.slot

/-- The owner of the descriptor that a record's lane names, when it passes the three checks of R451. -/
def fdOwner (_ : State) (r : TrapRec) (l : Nat) : Option Nat :=
  let x := r.arg l 0
  if 2 ^ 32 ≤ x ∨ bitsAt x 12 12 ≠ r.asn ∨ 79 < bitsAt x 24 8 then none else some (bitsAt x 24 8)

/-- A new descriptor in the lowest free slot of its shard. -/
def State.openFd (s : State) (shard asn : Nat) (what : FdWhat) : Option (State × Nat) :=
  match (List.range 4096).find? (fun i => !s.kernel.fds.any (fun d => d.shard == shard && d.slot == i)) with
  | none => none
  | some slot =>
    let d : Fd := { shard, asn, slot, what }
    some ({ s with kernel := { s.kernel with fds := s.kernel.fds ++ [d] } }, d.code)

/-- The open descriptor that a call's first argument names at its shard; its context is the ASN that it holds (R451). -/
def State.fd? (s : State) (c : Call) : Option Fd := s.kernel.fds.find? (fun d => d.code == c.arg 0 && d.shard == c.owner && d.asn == c.asn)

/-- May bytes of a caller's context be read or written by its owner, as an access of world 0 (R376, R451)? The status when not: a page that its world
refuses is no missing translation. -/
def State.reach (s : State) (c : Call) (va n : Nat) (k : AccKind) : Option Nat :=
  if 2 ^ 56 < va + n then some eFAULT
  else match s.engPages c.owner c.asn 0 k (pagesOf [(va, n)]) with
    | .error (x, _) => some (if x = 0x14 ∨ x = 0x15 then eACCES else eFAULT)
    | .ok _ => none

/-- The bytes of a path up to its zero byte, or the status when they cannot be read. -/
def State.readPath (s : State) (c : Call) : Nat → Nat → Except Nat (State × List Byte)
  | 0, _ => .error eFAULT
  | n + 1, va =>
    match s.reach c va 1 .load with
    | some x => .error x
    | none =>
      match s.readVa c.owner c.asn 0 va 1 with
      | some (s, [b], false) => if b = 0 then .ok (s, []) else (s.readPath c n (va + 1)).map (fun (s, bs) => (s, b :: bs))
      | _ => .error eFAULT

/-- The owner of the file that an OPEN names (R368); the Prefect that took the record answers when it cannot read the path. -/
def openOwner (s : State) (r : TrapRec) (l : Nat) : Option Nat :=
  match s.readPath (r.call (r.core / 16) [l]) 4096 (r.arg l 0) with
  | .ok (_, path) => some (pathShard path)
  | .error _ => none

/-- OPEN (R375, R376). -/
def openFile : Serve := fun s c =>
  let mode := c.arg 1
  if 2 < mode then s.refuse c eINVAL
  else match s.readPath c 4096 (c.arg 0) with
    | .error x => s.refuse c x
    | .ok (s, path) =>
      let opened (s : State) : State × Option (List (Nat × Nat × Nat) × DWord) :=
        match s.openFd c.owner c.asn (.file path (mode != 0)) with
        | some (s, x) => s.give c x
        | none => s.refuse c eNOMEM
      match s.file? path with
      | some f => if (f.world ≠ 0 ∧ f.world ≠ c.world) ∨ (mode ≠ 0 ∧ f.readOnly) then s.refuse c eACCES else opened s
      | none =>
        if mode ≠ 2 then s.refuse c eNOENT
        else
          let f : FileRec := { path, world := c.world, port := (s.free 3100).toNat % 8, lba := (s.free 3101).toNat }
          opened { s with kernel := { s.kernel with files := s.kernel.files ++ [f] } }

/-- OPEN calls at Prefect arg.id. -/
def execCallOpen (s : State) : Res := kernelCall s 0x0020 identical openOwner openFile

/-- CLOSE (R375). -/
def closeFd : Serve := fun s c =>
  match s.fd? c with
  | none => s.refuse c eBADF
  | some d => ({ s with kernel := { s.kernel with fds := s.kernel.fds.erase d } } : State).give c 0

/-- CLOSE calls at Prefect arg.id. -/
def execCallClose (s : State) : Res := kernelCall s 0x0021 alone fdOwner closeFd

/-! ### Files (R456) -/

/-- The virtual address of a frame in the kernel's map of local HBM (R386), and its translation. -/
def frameVa (frame : Nat) : Nat := 2 ^ 55 + frame * 2 ^ 16
def frameTr (frame : Nat) : Tr := { asn := 0, vpage := frameVa frame / 2 ^ 16, pages := 1, entry := BitVec.ofNat 64 (frame * 2 ^ 32 + 0xF) }

/-- A READ or WRITE begins: its buffer goes to the drive when it is aligned to 4 bytes, and its offset and length argument to blocks (R456), also where
the file ends before. -/
def State.beginJob (s : State) (c : Call) (f : FileRec) (write : Bool) (n : Nat) : State :=
  let (s, id) := s.fresh
  let z := lbaSize f.port
  let direct := c.arg 1 % 4 == 0 && c.arg 3 % z == 0 && c.arg 2 % z == 0
  { s with kernel := { s.kernel with
      jobs := s.kernel.jobs ++ [{ id, call := c, write, path := f.path, ofs := c.arg 3, len := n, va := c.arg 1, direct, frame := s.arg.x }] } }

/-- READ: no more than the file has from its offset on (R456). -/
def readFile : Serve := fun s c =>
  match s.fd? c with
  | some { what := .file path _, .. } =>
    (match s.file? path with
    | none => s.refuse c eNOENT
    | some f =>
      let n := min (c.arg 2) (f.data.length - c.arg 3)
      match s.reach c (c.arg 1) n .store with
      | some x => s.refuse c x
      | none => if n = 0 then s.give c 0 else (s.beginJob c f false n, none))
  | _ => s.refuse c eBADF

/-- WRITE; when arg.ok is false the file system is full. -/
def writeFile : Serve := fun s c =>
  match s.fd? c with
  | some { what := .file path writable, .. } =>
    if !writable then s.refuse c eACCES
    else match s.reach c (c.arg 1) (c.arg 2) .load, s.file? path with
      | some x, _ => s.refuse c x
      | none, none => s.refuse c eNOENT
      | none, some f =>
        if !s.arg.ok then s.refuse c eNOSPC
        else if c.arg 2 = 0 then s.give c 0 else (s.beginJob c f true (c.arg 2), none)
  | _ => s.refuse c eBADF

/-- The next NVMe command of a job (R384), into the caller's buffer or the frame it fills when that goes to the drive itself, else the owner's frame. -/
def State.jobCommand (s : State) (j : Job) (f : FileRec) : State :=
  let z := lbaSize f.port
  let (at_, n, b) := j.piece z
  let (s, id) := s.fresh
  let frame := if j.direct then j.fill.getD j.frame else j.frame
  let va := if !j.direct then frameVa frame else if j.fill.isSome then frameVa frame + j.done else j.va + j.done
  let blocks := ceilDiv (at_ + n - b) z
  let out := j.write && (j.direct || j.back)
  let desc := layout 64 [(0, 1, if out then 1 else 2), (2, 2, id), (4, 4, f.nsid), (24, 8, va), (40, 8, f.lba + b / z), (48, 2, blocks - 1)]
  let c : IoCmd := { id, pref := j.call.owner, port := f.port, cls := 0, desc, wit := s.kernelWit j.call.owner, job := some j.id }
  let s : State := { s with kernel := { s.kernel with jobs := s.kernel.jobs.map (fun x => if x.id = j.id then { x with cmd := some id } else x) } }
  if j.direct && j.fill.isNone then s.enqueue j.call.owner j.call.asn 0 c
  else
    let fail := if s.hub.up.contains f.port then none else some 0x006
    { s with iocmds := s.iocmds ++ [{ c with pages := [(frameVa frame / 2 ^ 16, frameTr frame)], fail }] }

def State.dropJob (s : State) (j : Job) : State := { s with kernel := { s.kernel with jobs := s.kernel.jobs.filter (·.id != j.id) } }
def State.putJob (s : State) (j : Job) : State := { s with kernel := { s.kernel with jobs := s.kernel.jobs.map (fun x => if x.id = j.id then j else x) } }

/-- The service of the fault whose frame a job fills goes on. -/
def State.filledBy (s : State) (j : Job) (stage : FixStage) : State :=
  { s with kernel := { s.kernel with fixes := s.kernel.fixes.map (fun x => if x.stage = .filling j.id then { x with stage } else x) } }

/-- A job ends with a status. -/
def State.jobFail (s : State) (j : Job) (x : Nat) : State :=
  if j.fill.isSome then (s.dropJob j).filledBy j .failed else (s.dropJob j).answer j.call (s.failed_ j.call x) j.wit

/-- A piece of a job is done: the next one follows, or the call is answered with the bytes moved. -/
def State.jobNext (s : State) (j : Job) (n : Nat) (w : DWord) : State :=
  let j := { j with done := j.done + n, cmd := none, back := false, wit := mergeWit s.now j.wit w }
  if j.done < j.len then s.putJob j
  else if j.fill.isSome then (s.dropJob j).filledBy j (.filled j.wit)
  else (s.dropJob j).answer j.call (j.call.rows j.len 0) j.wit

/-- The command of a job has completed (R456): exactly the bytes asked for go from the owner's frame to the buffer, or are merged into the blocks
that then go back to the drive. -/
def State.jobStep (s : State) (j : Job) (f : FileRec) (e : List Byte) : State :=
  let (at_, n, b) := j.piece (lbaSize f.port)
  let stat := field e 2 2
  let w := BitVec.ofNat 64 (field e 16 8)
  let l := j.frame * 2 ^ 16
  let c := j.call
  if stat ≠ 0 then s.jobFail j (if stat = 0x701 then eFAULT else eIO)
  else if j.direct || j.back then s.jobNext j n w
  else if j.write then
    (match s.readVa c.owner c.asn 0 (j.va + j.done) n with
    | some (s, bs, false) => (s.pokeAll {} (l + (at_ - b)) bs).putJob { j with cmd := none, back := true }
    | some (s, _, true) => s.jobFail j eIO
    | none => s.jobFail j eFAULT)
  else
    let bs := s.mem.readB (l + (at_ - b)) n
    match j.fill, s.writeVa c.owner c.asn 0 (j.va + j.done) bs with
    | some frame, _ => (s.pokeAll {} (frame * 2 ^ 16 + j.done) bs).jobNext j n w
    | none, some s => s.jobNext j n (mergeWit s.now w (mkWit package s.now))
    | none, none => s.jobFail j eFAULT

/-- The completion of a job's command in its owner's queue. -/
def State.jobEntry (s : State) (j : Job) : Option (List Byte) :=
  j.cmd.bind (fun id => (s.pref j.call.owner).queued.find? (fun e => field e 0 1 == 0 && field e 8 2 == id % 2 ^ 16))

/-- A job of a kind may take a step now: its command has completed, or it has none and no earlier WRITE of the file is under way (R456). -/
def State.jobDue (s : State) (p : Nat) (kind : Job → Bool) : Option Job :=
  s.kernel.jobs.find? (fun j => j.call.owner == p && kind j &&
    (if j.cmd.isSome then (s.jobEntry j).isSome
     else !(s.kernel.jobs.takeWhile (·.id != j.id)).any (fun x => x.path == j.path && (x.write || j.write)) &&
       ((s.file? j.path).map (fun f => s.ringRoom p f.port 0)).getD true))

/-- A job that may takes its step. -/
def State.jobTurn (s : State) (j : Job) : State :=
  match s.file? j.path, s.jobEntry j with
  | none, _ => s.jobFail j eNOENT
  | some f, none => s.jobCommand j f
  | some f, some e => (s.modPref j.call.owner (fun p => { p with completions := p.completions.erase e })).jobStep j f e

/-- The owner arg.id goes on with a READ or WRITE, or turns to the next call. -/
def fileCall (s : State) (code : Nat) (write : Bool) (key : TrapRec → Nat → List Nat) (f : Serve) : Res :=
  match s.jobDue s.arg.id (fun j => j.write == write && j.fill.isNone) with
  | none => kernelCall s code key fdOwner f
  | some j => .next (s.jobTurn j)

/-- READ at Prefect arg.id (R375, R456): arg.x names a free frame of the owner. -/
def execCallRead (s : State) : Res := fileCall s 0x0022 false identical readFile

/-- WRITE at Prefect arg.id (R375, R456): arg.x names a free frame of the owner. -/
def execCallWrite (s : State) : Res := fileCall s 0x0023 true alone writeFile

/-! ### Sockets -/

/-- The owner of a local port (R368); a bad one is answered where it is taken. -/
def portOwner (_ : State) (r : TrapRec) (l : Nat) : Option Nat := if 2 ^ 16 ≤ r.arg l 0 then none else some (r.arg l 0 % 80)

/-- SOCKET (R375). -/
def openSocket : Serve := fun s c =>
  if 2 ^ 16 ≤ c.arg 0 ∨ c.arg 1 ≠ 17 then s.refuse c eINVAL
  else match s.openFd c.owner c.asn (.sock (c.arg 0)) with
    | some (s, x) => s.give c x
    | none => s.refuse c eNOMEM

/-- SOCKET calls at Prefect arg.id. -/
def execCallSocket (s : State) : Res := kernelCall s 0x0030 identical portOwner openSocket

/-- SEND: the datagram leaves with its address and port. -/
def sendDatagram : Serve := fun s c =>
  match s.fd? c with
  | some { what := .sock port, .. } =>
    if 9000 < c.arg 2 then s.refuse c eINVAL
    else match s.reach c (c.arg 1) (c.arg 2) .load with
      | some x => s.refuse c x
      | none =>
        match s.readVa c.owner c.asn 0 (c.arg 1) (c.arg 2) with
        | some (s, bs, false) => ({ s with out := s.out ++ [{ kind := 8, port, bytes := toBytes 6 (c.arg 3) ++ bs }] } : State).give c bs.length
        | some (_, _, true) => s.refuse c eIO
        | none => s.refuse c eFAULT
  | _ => s.refuse c eBADF

/-- SEND calls at Prefect arg.id. -/
def execCallSend (s : State) : Res := kernelCall s 0x0031 alone fdOwner sendDatagram

/-- RECV begins to wait for a datagram. -/
def startRecv : Serve := fun s c =>
  match s.fd? c with
  | some { what := .sock _, .. } =>
    let until_ := if c.arg 3 = 0 then none else some (s.clock + c.arg 3)
    ({ s with kernel := { s.kernel with recvs := s.kernel.recvs ++ [{ call := c, until_ }] } }, none)
  | _ => s.refuse c eBADF

/-- The local port on which a RECV waits. -/
def State.recvPort (s : State) (v : Recv) : Option Nat :=
  match s.fd? v.call with
  | some { what := .sock port, .. } => some port
  | _ => none

/-- A datagram reaches the RECV that waits longest on its port. -/
def State.datagram (s : State) (v : Recv) (bs : List Byte) : State :=
  let c := v.call
  let bs := bs.take (c.arg 2)
  let s : State := { s with kernel := { s.kernel with recvs := s.kernel.recvs.erase v } }
  match s.reach c (c.arg 1) bs.length .store, s.writeVa c.owner c.asn 0 (c.arg 1) bs with
  | none, some s => s.answer c (c.rows bs.length 0) (mkWit package s.now)
  | x, _ => s.answer c (s.failed_ c (x.getD eFAULT)) 0

/-- RECV (R375): with arg.bytes the datagram that arrives at local port arg.x, else calls at Prefect arg.id begin to wait. -/
def execCallRecv (s : State) : Res :=
  match if s.arg.bytes.isEmpty then none else s.kernel.recvs.find? (fun v => s.recvPort v == some s.arg.x) with
  | some v => .next (s.datagram v s.arg.bytes)
  | none => kernelCall s 0x0032 alone fdOwner startRecv

/-- A RECV that Prefect arg.id serves times out (R375). -/
def execRecvTimeout (s : State) : Res :=
  match s.kernel.recvs.find? (fun v => v.call.owner == s.arg.id && (v.until_.map (fun t => decide (t ≤ s.clock))).getD false) with
  | none => .next s
  | some v =>
    .next (({ s with kernel := { s.kernel with recvs := s.kernel.recvs.erase v } } : State).answer v.call (s.failed_ v.call eAGAIN) 0)

/-! ### Replies (R377, R336) -/

/-- The call codes of R375. -/
def callCodes : List Nat := [0x0010, 0x0011, 0x0020, 0x0021, 0x0022, 0x0023, 0x0030, 0x0031, 0x0032]

/-- The Prefect resumes lanes of a group, wherever it is. -/
def State.resumeRows (s : State) (p : Nat) (c : CtxRef) (rows : List (Nat × Nat × Nat)) (wit : DWord) : State :=
  let m := maskOf (rows.map (·.1))
  let w := mergeWit s.now (s.kernelWit p) wit
  s.anywhere c (fun s =>
    match s.ctx? c with
    | some g => if g.trapped m then s.modCtx c (Ctx.resume s.now m rows w) else s
    | none => s)

/-- The lanes of one REPLY: those of one status, with the value of the first (the slices of an ALLOC follow from it). -/
def statusGroups (rows : List (Nat × Nat × Nat)) : List (List Nat × Nat × Nat) :=
  (rows.map (·.2.2)).eraseDups.map (fun x =>
    let rs := rows.filter (·.2.2 == x)
    (rs.map (·.1), (rs.head?.map (·.2.1)).getD 0, x))

/-- An owner answers a forwarded call with REPLY messages (R377). -/
def State.sendReply (s : State) (r : Reply) (asker tag : Nat) : State :=
  let c := r.call
  let w := mergeWit s.now (s.kernelWit c.owner) r.wit
  (statusGroups r.rows).foldl (fun s (ls, v, x) =>
    s.sendWire c.owner asker false (transit c.owner asker) (message 0x0101 c.owner 0 tag w.toNat
      (toBytes 8 c.handle.toNat ++ toBytes 4 (maskOf ls).toNat ++ toBytes 4 x ++ toBytes 8 v ++ toBytes 2 c.asn))) s

/-- The rows that a REPLY gives: the j-th slice of an ALLOC lies j rounded sizes past the value (R375). -/
def replyRows (c : Call) (m : List Byte) : List (Nat × Nat × Nat) :=
  let x := field m 0x1C 4
  let step := if c.code = 0x0011 ∧ x = 0 then roundUp (c.arg 0) ((alignOf (c.arg 1)).getD 16) else 0
  (lanes (BitVec.ofNat 32 (field m 0x18 4))).zipIdx.map (fun (l, j) => (l, field m 0x20 8 + j * step, x))

/-- A REPLY gives results to its lanes; once every lane of the call has one, a single RESUME gives them all (R375, R451). -/
def State.takeReply (s : State) (v : Sent) (m : List Byte) : State :=
  let rows := v.got ++ replyRows v.call m
  let wit := mergeWit s.now v.wit (BitVec.ofNat 64 (field m 8 8))
  if v.call.lanes.all (fun l => rows.any (·.1 == l)) then
    ({ s with kernel := { s.kernel with sent := s.kernel.sent.erase v } } : State).resumeRows v.pref (refOf v.call.handle.toNat) rows wit
  else { s with kernel := { s.kernel with sent := s.kernel.sent.map (fun x => if x = v then { v with got := rows, wit } else x) } }

/-- The oldest result held by Prefect arg.id resumes its lanes or goes back in a REPLY; with none, a REPLY in its mailbox resumes lanes (R377);
with none, an unknown code at the head of its queue is answered ENOSYS (R375). -/
def execReply (s : State) : Res :=
  let p := s.arg.id
  match s.kernel.replies.find? (·.call.owner == p) with
  | some r =>
    let t : State := { s with kernel := { s.kernel with replies := s.kernel.replies.erase r } }
    (match r.call.back with
    | none => .next (t.resumeRows p (refOf r.call.handle.toNat) r.rows r.wit)
    | some (q, tag) => event s (decide (s.underWay q false + (s.pref q).mailbox.length + (statusGroups r.rows).length ≤ 128)) fun _ => t.sendReply r q tag)
  | none =>
    match s.takeMail p (fun m => field m 0 2 == 0x0101 && s.kernel.sent.any (fun v => v.pref == p && v.tag == field m 4 4)) with
    | some (t, m) =>
      (match t.kernel.sent.find? (fun v => v.pref == p && v.tag == field m 4 4) with
      | some v => .next (t.takeReply v m)
      | none => .next t)
    | none =>
      match (s.pref p).trapq with
      | r :: _ =>
        event s (r.typ == 0 && !callCodes.contains r.code) fun s =>
          let c := r.call p (lanes r.mask)
          (s.takeRecord p r).answer c (c.lanes.map (fun l => (l, (s.free (3000 + l)).toNat, eNOSYS))) 0
      | [] => .next s

/-! ### What the kernel's own interfaces create (R378, R456, R457) -/

/-- A context's heap, a region or a file comes to be; BAR4 gets a size of 1 to 1,024 GiB, and BAR4BASE stays a multiple of it (R438, R439). -/
def State.make (s : State) (w : Made) : State :=
  match w with
  | .heap asn base limit => if (s.heap asn).isSome then s else s.setHeap asn { base, limit, top := base }
  | .region r => { s with kernel := { s.kernel with regions := s.kernel.regions ++ [r] } }
  | .file f => if (s.file? f.path).isSome then s else { s with kernel := { s.kernel with files := s.kernel.files ++ [f] } }
  | .window k =>
    if 10 < k then s else { s with hub := { s.hub with window := 2 ^ (30 + k), bar4base := s.hub.bar4base / 2 ^ (30 + k) * 2 ^ (30 + k) } }

/-! ### Faults (R378 to R380) -/

/-- What populates the page of an address in a context (R378): read and write permission, and the file and offset that its contents begin at, if it is
mapped from one; none when no region maps it or its world differs. The heap is the context's own. -/
def State.regionOf (s : State) (r : TrapRec) : Option (Bool × Bool × Option (List Byte × Nat)) :=
  let va := r.value.toNat
  match s.heap r.asn with
  | some h => if h.base ≤ va ∧ va < h.base + h.limit then some (true, true, none) else fromRegions va
  | none => fromRegions va
where
  fromRegions (va : Nat) : Option (Bool × Bool × Option (List Byte × Nat)) :=
    match s.kernel.regions.find? (fun x => x.asn == r.asn && x.base ≤ va && va < x.base + x.len) with
    | none => none
    | some x =>
      if x.world ≠ r.world then none
      else some (x.r, x.w, x.file.map (fun (path, o) => (path, o + (va / 2 ^ 16 * 2 ^ 16 - x.base))))

/-- A 64 KiB frame is filled with zero. -/
def State.clearFrame (s : State) (frame : Nat) : State := (s.clearRange (frame * 2 ^ 16) (2 ^ 16)).clearRange (macSlot (frame * 2 ^ 16)) (2 ^ 13)

/-- The device kernel never maps a retired frame (R437). -/
def State.retired (s : State) (frame : Nat) : Bool := s.nvm.repairs.any (fun e => e.kind == 5 && e.row == frame) || s.nvm.retired.contains frame

/-- The address of the lowest-level entry of a page, with new tables from `free` where a level is missing (R380). -/
def State.entryFor (s : State) (va : Nat) : Nat → Nat → List Nat → Option (State × Nat)
  | 0, t, _ => some (s, t + 8 * bitsAt va 16 10)
  | n + 1, t, free =>
    let e := t + 8 * bitsAt va (16 + 10 * (n + 1)) 10
    match nextTable (s.mem.readN e 8), free with
    | some u, _ => s.entryFor va n u free
    | none, [] => none
    | none, f :: fs =>
      if s.mem.readN e 8 % 2 = 1 ∨ f % 2 ^ 13 ≠ 0 ∨ Config.reservedBase < f + 2 ^ 13 ∨ s.retired (f / 2 ^ 16) then none
      else
        let s := (s.clearRange f (2 ^ 13)).clearRange (macSlot f) (2 ^ 10)
        (s.poke {} e (toBytes 8 (f + 1))).entryFor va n f fs

/-- The permission an access needs (R333): read, write. -/
def needs (access : Nat) : Bool × Bool := (access != 1 && access != 4, access != 0 && access != 3)

/-- The job that fills a frame with the bytes of a file from an offset on, as far as it goes, by NVMe reads of Prefect `p` (R378): into the frame itself where
the offset is a multiple of the block size, else through the kernel's own frame `own`. None where the file has no bytes there. -/
def State.fillJob (s : State) (p : Nat) (r : TrapRec) (frame own : Nat) (file : List Byte × Nat) : Option Job :=
  (s.file? file.1).bind (fun f =>
    let n := min (2 ^ 16) (f.data.length - file.2)
    if n = 0 then none
    else some { id := s.nextId, call := { owner := p, handle := r.handle, lanes := [], code := 0, args := [], asn := 0, world := 0 }, write := false, path := file.1
                ofs := file.2, len := n, va := 0, direct := file.2 % lbaSize f.port == 0, frame := own, fill := some frame })

/-- A fault's page is resolved (R379): the state and, when that takes time, its service, which waits for the frame's contents or for what may still
use the old entry of a permission that was raised; or the cause that makes it unresolvable (R378). -/
def State.resolve (s : State) (p : Nat) (r : TrapRec) (frame own : Nat) (tables : List Nat) (haveFrame : Bool) : Except Nat (State × Option Fix) :=
  match s.regionOf r with
  | none => .error 0x10
  | some (rd, wr, file) =>
    let (nr, nw) := needs r.access
    if (nr && !rd) || (nw && !wr) then .error 0x11
    else match (nextTable (s.roots.get 0 r.asn).toNat).bind (fun root => s.entryFor r.value.toNat 3 root tables) with
      | none => .error 0x10
      | some (t, e) =>
        let old := t.mem.readN e 8
        let new := old ||| (4 * rd.toNat + 8 * wr.toNat)
        let page (x : Tr) : Bool := x.covers r.asn r.value.toNat
        if old % 2 = 1 then
          if !leafOk old then .error 0x10
          else if new = old then .ok (t, none)
          else
            let t := t.poke {} e (toBytes 8 new)
            let users := t.usersOf page
            .ok (t.sweepTlb page, if users = [] then none else some { pref := p, rcd := r, stage := .sweeping users })
        else if !haveFrame ∨ 0xE00000 ≤ frame ∨ s.retired frame then .error 0x10
        else
          let leaf := 3 + 4 * rd.toNat + 8 * wr.toNat + r.world * 2 ^ 8 + frame * 2 ^ 32
          let t := t.clearFrame frame
          match file.bind (t.fillJob p r frame own) with
          | none => .ok (t.poke {} e (toBytes 8 leaf), none)
          | some j =>
            .ok ({ t with nextId := t.nextId + 1, kernel := { t.kernel with jobs := t.kernel.jobs ++ [j] } },
              some { pref := p, rcd := r, stage := .filling j.id, entry := e, leaf })

/-- The kernel finds the cause with which what a record's tag names is delivered (R378). -/
def State.recause (s : State) (c : CtxRef) (tag cid cause : Nat) : State :=
  if tag.testBit 7 then
    { s with cmds := s.cmds.map (fun x => if x.c = c ∧ x.cid = cid ∧ x.phase = 2 then { x with cause } else x)
             mxq := s.mxq.map (fun o => if ((s.waitingDrain c cid).map (·.id)) = some o.id then { o with cause } else o) }
  else s.modCtx c (fun g => { g with log := g.log.map (fun e => if e.ix = tag % 4 ∧ e.state = 1 then { e with cause } else e) })

/-- RESUME.LOG by the kernel, of a group wherever it is: resolved, or with the cause that it ends with. -/
def State.settleRecord (s : State) (r : TrapRec) (cause : Option Nat) : State :=
  s.anywhere r.group (fun s =>
    match s.ctx? r.group with
    | some g =>
      if s.faultWaits g r.tag r.cmd then
        (match cause with
        | none => s.settleFault r.group r.tag r.cmd true
        | some x => (s.recause r.group r.tag r.cmd x).settleFault r.group r.tag r.cmd false)
      else s
    | none => s)

/-- A Prefect resolves a fault whose region it knows: arg.x is the free frame taken, arg.units a frame of the kernel's own, arg.nums the frames for new
tables, and arg.ok says that a frame was free. -/
def State.serveFault (s : State) (p : Nat) (r : TrapRec) : State :=
  match s.resolve p r s.arg.x s.arg.units.toNat s.arg.nums s.arg.ok with
  | .error c => s.settleRecord r (some c)
  | .ok (t, none) => t.settleRecord r none
  | .ok (t, some x) => { t with kernel := { t.kernel with fixes := t.kernel.fixes ++ [x] } }

/-- A fault's service goes on now: its frame has its contents and their witness is satisfied, the drive failed, or nothing uses the old entry any more. -/
def State.fixReady (s : State) (x : Fix) : Bool :=
  match x.stage with
  | .asked _ | .filling _ => false
  | .filled w => s.satisfied w { scope := 2, id := x.pref }
  | .failed => true
  | .sweeping ids => !s.using ids

/-- It ends: the leaf of a filled frame is installed, unless another Prefect's is there already (R380). A page that the drive could not deliver is not
resolvable (DESIGN CHOICE, log 81). -/
def State.finishFix (s : State) (x : Fix) : State :=
  match x.stage with
  | .filled _ => (if s.mem.readN x.entry 8 % 2 = 1 then s else s.poke {} x.entry (toBytes 8 x.leaf)).settleRecord x.rcd none
  | .failed => s.settleRecord x.rcd (some 0x10)
  | _ => s.settleRecord x.rcd none

/-- A shard asks the one that keeps the regions of a fault's context (R378). -/
def State.askRegion (s : State) (p q : Nat) (r : TrapRec) : State :=
  let (s, id) := s.fresh
  let tag := id % 2 ^ 32
  ({ s with kernel := { s.kernel with fixes := s.kernel.fixes ++ [{ pref := p, rcd := r, stage := .asked tag }] } } : State).sendWire p q false (transit p q)
    (message Config.askType.toNat p 0 tag (s.kernelWit p).toNat (toBytes 8 r.value.toNat ++ toBytes 2 r.asn))

/-- It is answered. -/
def State.tellRegion (s : State) (q p tag : Nat) : State :=
  s.sendWire q p false (transit q p) (message Config.tellType.toNat q 0 tag (s.kernelWit q).toNat [])

/-- Prefect arg.id goes on with the faults that it serves, else answers another shard about its regions, else takes such an answer, else turns to its oldest
FAULT record (R378, R379). -/
def execFaultService (s : State) : Res :=
  let p := s.arg.id
  let without (s : State) (x : Fix) : State := { s with kernel := { s.kernel with fixes := s.kernel.fixes.erase x } }
  match s.kernel.fixes.find? (fun x => x.pref == p && s.fixReady x), s.jobDue p (·.fill.isSome) with
  | some x, _ => .next ((without s x).finishFix x)
  | none, some j => .next (s.jobTurn j)
  | none, none =>
    match s.takeMail p (fun m => field m 0 2 == Config.askType.toNat), s.takeMail p (fun m => field m 0 2 == Config.tellType.toNat),
        s.recordAt p (·.typ == 1) with
    | some (t, m), _, _ => event s (s.mailRoom (field m 2 1) false) fun _ => t.tellRegion p (field m 2 1) (field m 4 4)
    | none, some (t, m), _ =>
      (match s.kernel.fixes.find? (fun x => x.pref == p && x.stage == .asked (field m 4 4)) with
      | some x => .next ((without t x).serveFault p x.rcd)
      | none => .next t)
    | none, none, some r =>
      let q := r.asn % 80
      if q = p then .next ((s.takeRecord p r).serveFault p r)
      else event s (s.mailRoom q false) fun s => (s.takeRecord p r).askRegion p q r
    | none, none, none => .next s

/-! ### Escalations (R454) -/

/-- The kill block of an ESCALATE record (R454). -/
def killBlockOf (r : TrapRec) : List Byte :=
  let b (i : Nat) : Nat := (r.body.getD i 0).toNat
  layout 64 [(0, 2, 0x50), (2, 1, 3), (4, 2, b 1), (6, 2, b 4), (8, 2, r.cause), (0x10, 8, b 0), (0x18, 8, b 2), (0x20, 8, b 3), (0x28, 8, b 5)
    , (0x30, 8, r.pc), (0x38, 8, r.value.toNat)]

/-- The oldest ESCALATE record at Prefect arg.id ends its grid: the kill block is written at arg.x of the Prefect's C space, and GKILL.GRID reads it there
(R356, R454). -/
def execEscalateKillPolicy (s : State) : Res :=
  match s.recordAt s.arg.id (·.typ == 2) with
  | none => .next s
  | some r =>
    event s (decide (s.arg.x + 64 ≤ Config.sysSpad)) fun s =>
      let l := Loc.sys s.arg.id s.arg.x
      let t := (s.takeRecord s.arg.id r).pokeAll {} l (killBlockOf r)
      t.killGrid (r.handle.toNat / 2 ^ 32) (t.mem.readB l 64)

/-! ### Saving and restoring (R354, R381, R395, R396) -/

/-- The kernel of a Prefect acts in an address space and as a world. -/
def State.asKernel {α : Type} (s : State) (p asn world : Nat) (f : State → State × α) : State × α :=
  let t := s.switch (.prefect p)
  let ids := t.g.ids
  let (t, x) := f (t.modG (fun g => { g with ids := { g.ids with asn, world } }))
  ((t.modG (fun g => { g with ids := { g.ids with asn := ids.asn, world := ids.world } })).switch s.g.ids.ref, x)

/-- The kernel's plan for what it has just saved: the next attempt to restore it, and whether it awaits its turn (R396). -/
def State.planned (s : State) (retry : Nat) (awaits : Bool) : State :=
  match s.saved.getLast? with
  | some v => { s with saved := s.saved.dropLast ++ [{ v with retry := max 1 retry, awaits }] }
  | none => s

/-- The kernel of a Prefect saves a group or a team at an address of its image area, which lies in address space 0 (R353): the status, none while the
targets drain. -/
def State.kernelSave (s : State) (p h a : Nat) (team force awaits : Bool) : State × Option Nat :=
  match s.asKernel p 0 0 (fun s => s.saveTarget h a team force) with
  | (s, some (0, _)) => (s.planned (if awaits then s.clock else s.clock + 1250000) awaits, some 0)
  | (s, x) => (s, x.map (·.1))

/-- The priority of what was saved. -/
def Saved.prio (v : Saved) : Nat := ((v.ctxs.head?.map (·.1.ids.prio)).getD 0)

/-- Later work may be placed around a saved team that could not be placed (R395). -/
def Saved.around (clock : Nat) (v : Saved) : Bool := (v.failedAt.map (fun t => decide (t + 12500 ≤ clock))).getD false

/-- Something of at least a priority waits for a cluster (R354): a gang that could not be placed, or a team that the kernel has saved. -/
def State.wanted (s : State) (cluster prio : Nat) : Bool :=
  s.grids.any (fun g => g.waiting && g.blockedAt.isSome && decide (prio ≤ g.priority)) ||
  s.saved.any (fun v => v.isTeam && v.retry != 0 && v.core / 16 == cluster && decide (prio ≤ v.prio))

/-- An address at which the kernel may put an image: arg.units. -/
def State.imageAt (s : State) : Option Nat :=
  let a := s.arg.units.toNat
  if a = 0 ∨ a % 64 ≠ 0 then none else some a

/-- The kernel answers a SLICE, FORCE or DEADLOCK record (R354, R381); none until it has an address for the image or the targets have drained. -/
def State.policy (s : State) (p : Nat) (r : TrapRec) : Option State :=
  let h := r.handle.toNat
  let save (team force : Bool) : Option State :=
    s.imageAt.bind (fun a => match (s.takeRecord p r).kernelSave p h a team force false with | (t, some _) => some t | (_, none) => none)
  if r.typ = 5 then
    match s.resident h with
    | none => some (s.takeRecord p r)
    | some g =>
      if s.wanted p g.ids.prio then save false false
      else some ((s.takeRecord p r).modCtx g.ids.ref (fun g =>
        if g.sched.held || g.sched.forceHeld then ({ g with sched := { g.sched with held := false, forceHeld := false } } : Ctx).newSlice s else g))
  else if r.typ = 6 then save false true
  else save true false

/-- A CTXLD by the kernel itself: its status goes nowhere. -/
def kernelLoad : FS :=
  { h := { n := false, gi := 7, y := true }, d := 63, a := 0, b := 0, sel := 0, wf := 15, var8 := 0, imm := 0 }

/-- CTXLD of an image by Prefect `p`, a team on any core (R381), a group on its team's current core (R354): whether it was restored. -/
def State.kernelRestore (s : State) (p : Nat) (v : Saved) : State × Bool :=
  s.asKernel p v.asn v.world (fun s =>
    match s.openImage v.addr with
    | (s, .error _) => (s, false)
    | (s, .ok (bs, bad)) =>
      match (if v.isTeam then loadTeam kernelLoad v.addr 0xFFFFFFFF bs bad s else loadGroup kernelLoad v.addr bs bad s) with
      | .done t => (t, decide (t.saved.length < s.saved.length))
      | _ => (s, false))

/-- May later work be placed around a grid whose next gang is blocked: its hold has run out and, retried now, it still finds no place (R395)? -/
def State.passable (s : State) (g : Grid) : Bool :=
  g.around && (State.placeGangs g [] (if g.desc.flags.testBit 0 then g.desc.gangs else 1) g.nextGang s).isNone

/-- The same of a saved team that awaits its turn. -/
def State.passableTeam (s : State) (v : Saved) : Bool := v.around s.clock && !(s.kernelRestore v.cluster v).2

/-- Is it a saved team's turn (R395): no gang of higher priority waits, unless work may be placed around it? -/
def State.restoreTurn (s : State) (v : Saved) : Bool :=
  !v.awaits || (s.grids.all (fun g => !(g.waiting && decide (v.prio < g.priority)) || s.passable g) &&
    s.saved.all (fun x => !(x.awaits && decide (v.prio < x.prio)) || s.passableTeam x))

/-- Is a restore by Prefect `p` due: the Roll unit has asked for it (R325), a team has ended there or 1,250,000 ticks have passed, or a group's core
has room for it (R354, R381)? -/
def State.restoreDue (s : State) (p : Nat) (v : Saved) : Bool :=
  (v.asked && !v.tried) || (v.retry != 0 && (decide (v.retry ≤ s.clock) || (!v.isTeam && (s.kernelRestore p v).2)))

/-- Prefect arg.id answers its oldest SLICE, FORCE or DEADLOCK record, at arg.units for an image; with none it tries to restore the saved group or
team of arg.c when that is due (R325, R354, R381). -/
def execRestoreRetry (s : State) : Res :=
  match s.recordAt s.arg.id (fun r => r.typ == 5 || r.typ == 6 || r.typ == 7) with
  | some r => .next ((s.policy s.arg.id r).getD s)
  | none =>
    match s.savedAt s.arg.c with
    | none => .next s
    | some (v, _, _) =>
      event s (decide (s.arg.id < 80) && s.restoreTurn v && s.restoreDue s.arg.id v) fun s =>
        let (t, ok) := s.kernelRestore s.arg.id v
        if ok then t
        else { t with saved := t.saved.map (fun x =>
          if x = v then { v with tried := v.asked, retry := s.clock + 1250000, failedAt := some (v.failedAt.getD s.clock) } else x) }

/-! ### Placement and pre-emption (R395, R396) -/

/-- May a gang of a grid be placed now: does nothing come before it that still waits (R395)? -/
def State.mayPlace (s : State) (g : Grid) : Bool :=
  s.grids.all (fun x => !(x.waiting && s.before x g) || s.passable x) &&
  s.saved.all (fun v => !(v.awaits && decide (g.priority ≤ v.prio)) || s.passableTeam v)

/-- May a team be a victim: every group is at a blocking point or has exited, and none lies in an image of its own (R396)? -/
def State.victim (s : State) (p : Nat) (t : Team) : Bool :=
  decide (t.prio < p) && !s.savedAlone t.grid t.team && s.ctxs.all (fun g => !g.inTeam t.grid t.team || g.atPoint || (g.over && !g.sched.escalated))

/-- Put a set of victims at its place: lowest priority first, then youngest first. -/
def insertVictims (v : List Team) : List (List Team) → List (List Team)
  | [] => [v]
  | x :: xs =>
    let key (u : List Team) : Nat × Nat := ((u.head?.map (·.prio)).getD 0, (u.map (·.placed)).foldl max 0)
    if (key v).1 < (key x).1 ∨ ((key v).1 = (key x).1 ∧ (key x).2 < (key v).2) then v :: x :: xs else x :: insertVictims v xs

/-- The sets of teams of a cluster that may be saved for priority `p`, in order: single teams, and populations as a whole. -/
def State.victims (s : State) (p cluster : Nat) : List (List Team) :=
  let here := s.teams.filter (fun t => t.core / 16 == cluster)
  let single := (here.filter (fun t => !s.isPop t.grid && s.victim p t)).map (fun t => [t])
  let pops := (((here.filter (fun t => s.isPop t.grid)).map (·.grid)).eraseDups.map (fun gid => s.teams.filter (·.grid == gid))).filter (·.all (s.victim p))
  (single ++ pops).foldl (fun acc v => insertVictims v acc) []

/-- The machine with some teams away: their gangs' cluster scratchpad stays. -/
def State.without (s : State) (ts : List Team) : State :=
  let out (g : Ctx) : Bool := ts.any (fun t => g.inTeam t.grid t.team)
  ({ s with teams := s.teams.filter (fun x => !ts.any (fun t => t.grid == x.grid && t.team == x.team)) } : State).dropCtxs out

/-- The shortest beginning of a list of victims that lets a gang fit on a cluster. -/
def State.enough (s : State) (g : Grid) (gang cluster : Nat) : List Team → List (List Team) → Option (List Team)
  | _, [] => none
  | ts, v :: vs => if ((s.without (ts ++ v)).fitIn g gang cluster).isSome then some (ts ++ v) else enough s g gang cluster (ts ++ v) vs

/-- The victims for a gang: those of the cluster that needs the fewest, the lowest cluster first (R396). -/
def State.victimsFor (s : State) (g : Grid) (gang : Nat) : Option (List Team) :=
  ((List.range Config.nClusters).filterMap (fun c => s.enough g gang c [] (s.victims g.priority c))).foldl
    (fun m ts => match m with | none => some ts | some us => if ts.length < us.length then some ts else some us) none

/-- The first gang from one on that finds no place, and the machine with those before it placed. -/
def State.blockedGang (g : Grid) : Nat → Nat → State → Option (State × Nat)
  | 0, _, _ => none
  | n + 1, gang, s => match s.fitGang g gang with | none => some (s, gang) | some t => blockedGang g n (gang + 1) t

/-- The handle of a team: that of one of its groups. -/
def State.handleOf (s : State) (t : Team) : Option Nat := (s.ctxs.find? (·.inTeam t.grid t.team)).map (·.handle.toNat)

/-- What a save of a team waits for has come about. -/
def State.settledTeam (s : State) (t : Team) : Bool :=
  (s.ctxs.filter (·.inTeam t.grid t.team)).all (s.settledGroup false) && !s.padCommands t

/-- The Prefects of the victims' clusters save them, the i-th at 8 MiB × i past an address of the image area, once all have drained; one that has
left its blocking point stays (R396). -/
def State.preempt (s : State) (g : Grid) (n a : Nat) : State :=
  match (State.blockedGang g n g.nextGang s).bind (fun (t, gang) => t.victimsFor g gang) with
  | none => s
  | some ts =>
    if !ts.all s.settledTeam then s
    else ts.zipIdx.foldl (fun s (t, i) =>
      match s.handleOf t with
      | some h => (s.kernelSave (t.core / 16) h (a + i * maxImage) true false true).1
      | none => s) s

/-- The gang that grid arg.id places next, of a POPULATION grid all its gangs (R395): on cores arg.nums, or where they first fit. One that finds no
place is blocked from then on, and may have teams of lower priority saved when the kernel gives it an image area, at arg.units (R396). -/
def execGangPlacement (s : State) : Res :=
  match s.grid? s.arg.id with
  | none => .next s
  | some g =>
    event s (g.waiting && s.mayPlace g) fun s =>
      let n := if g.desc.flags.testBit 0 then g.desc.gangs else 1
      match State.placeGangs g s.arg.nums n g.nextGang s with
      | some t => t
      | none =>
        if s.arg.nums ≠ [] ∧ (State.placeGangs g [] n g.nextGang s).isSome then s
        else
          let s := s.modGrid g.gid (fun x => { x with blockedAt := some (x.blockedAt.getD s.clock) })
          match s.imageAt with
          | some a => s.preempt g n a
          | none => s

end Sys2Proof.Machine
end

