-- ==== Sys2Proof/Machine/Security.lean ====
section
/-! DEFINITION. Worlds, keys, sweeps, measurements and the SPDM responder (R410, R416 to R425). -/

namespace Sys2Proof.Machine

/-! ### Entries -/

/-- A world table entry (R410); none when a field is out of range. -/
def World.ofBytes (b : List Byte) : Option World :=
  let listed (i : Nat) : Bool := i == 0 || (8 ≤ i && i < 25) || 32 ≤ i
  if 1 < field b 0 1 ∨ 3 < field b 0x18 1 ∨ (List.range 64).any (fun i => !listed i && b.getD i 0 != 0) then none
  else some { active := field b 0 1 == 1, swBase := field b 8 8, swLen := field b 0x10 8, hostOk := (field b 0x18 1).testBit 0
              peerOk := (field b 0x18 1).testBit 1, roster := BitVec.ofNat 256 (field b 0x20 32) }

/-- Key material (R418). -/
def KeyMat.ofBytes (b : List Byte) : KeyMat := { k1 := b.take 32, k2 := (b.drop 32).take 32, km := (b.drop 64).take 32 }

/-- A buffer entry (R416); none when a field is out of range or a frame is reserved. -/
def Buf.ofBytes (b : List Byte) : Option Buf :=
  let x : Buf := { base := field b 0 8, frames := field b 8 4, world := field b 0xC 1, key := field b 0xD 1, valid := (field b 0xE 1).testBit 0
                   ver := field b 0x10 8 }
  if !x.valid then some {}
  else if x.frames = 0 ∨ x.world = 0 ∨ 127 < x.key ∨ 3 < field b 0xE 1 ∨ 0xE00000 < x.base + x.frames then none
  else some x

/-- A key id's number in the key store. -/
def keyNo (x : Nat) : Nat := x % 2 ^ 8 * 128 + x / 2 ^ 8 % 2 ^ 7

/-- Is S[b] a key id (R420)? -/
def keyIdOk (x : Nat) : Bool := decide (x < 2 ^ 15) && x % 2 ^ 8 != 0

namespace State

def buf (s : State) (i : Nat) : Buf := s.bufs.get {} i

/-- The key id of a buffer, in the key store's numbering. -/
def bufKey (s : State) (i : Nat) : Nat := (s.buf i).world * 128 + (s.buf i).key

/-- Does a sweep of a key id run (R420)? -/
def keySwept (s : State) (k : Nat) : Bool := s.sweeps.any (fun w => s.bufKey w.buf == k)

/-- What the sweeps belong to: a step stands alone, the sweeps of one rekey go together. -/
def sweepUnit (s : State) (w : Sweep) : Bool × Nat := if w.rekey.isSome then (true, s.bufKey w.buf) else (false, w.id)
def sweepUnits (s : State) : List (Bool × Nat) := (s.sweeps.map s.sweepUnit).eraseDups

/-- The location just past the lines of a buffer. -/
def bufEnd (s : State) (i : Nat) : Nat := ((s.buf i).base + (s.buf i).frames) * 2 ^ 16

/-- A sweep may handle its next line: it is among the sixteen that run (R419), it is the first of its buffer, and the earlier buffers of its rekey
are done. -/
def sweepRuns (s : State) (w : Sweep) : Bool :=
  (s.sweepUnits.take 16).contains (s.sweepUnit w) &&
  (s.sweeps.takeWhile (·.id != w.id)).all (fun x => x.buf != w.buf && (s.sweepUnit x != s.sweepUnit w || x.line == s.bufEnd x.buf))

/-- The copy of a key that is not resident: wrapped under the device's key-encryption key (R418). -/
def wrap (m : KeyMat) : List Byte := Crypto.keyWrap Config.kek (m.k1 ++ m.k2 ++ m.km)

/-- A key id's material is set or erased; an erased key leaves the key cache, and its wrapped copy is erased (R418, R420). -/
def setKey (s : State) (k : Nat) (m : Option KeyMat) : State :=
  { s with keys := SMap.set none s.keys k m, keyCache := if m.isSome then s.keyCache else s.keyCache.filter (· != k)
           wrapped := SMap.set [] s.wrapped k (if s.keyCache.contains k then [] else (m.map wrap).getD []) }

/-- Write a buffer entry and its frame tags. -/
def setBuf (s : State) (i : Nat) (b : Buf) : State :=
  let old := s.buf i
  let clear := (s.tags.filter (fun e => e.2 != i))
  { s with bufs := SMap.set {} s.bufs i (if b.valid then { b with dirty := old.valid && old.dirty } else {})
           tags := (List.range b.frames).foldl (fun m j => SMap.set 0 m (b.base + j) i) clear
           sweeps := if b.valid then s.sweeps else s.sweeps.filter (fun w => w.buf != i) }

/-- Accesses of a world that were checked against its entry and have not performed (R420). A system core may have left the world it had then
(R359), so its accesses always count. -/
def worldBusy (s : State) (w : Nat) : Bool :=
  let inWorld (c : CtxRef) : Bool := match s.ctx? c with | some g => g.isSys || g.ids.world == w | none => true
  s.accs.any (fun a => match a.owner with
    | some c => inWorld c
    | none => a.peer.isNone && (match s.cmds.find? (fun c => a.job == some c.id) with | some c => c.world == w | none => true)) ||
  s.tiles.any (fun t => (t.owner.map inWorld).getD true) || s.cmds.any (fun c => c.world == w && c.phase != 0) || s.mxq.any (fun o => o.phase == 1 && inWorld o.c) || s.iocmds.any (fun c => !c.pages.isEmpty)

/-- Accesses in flight to frames. -/
def framesBusy (s : State) (base n : Nat) : Bool := s.accs.any (fun a => a.overlaps (base * 2 ^ 16) (n * 2 ^ 16))

end State

/-! ### KEYOP (R420) -/

def kOk : Nat := 0
def kBadArg : Nat := 1
def kBusy : Nat := 2
def kOverlap : Nat := 3

/-- WSET. -/
def State.keyWset (s : State) (x : Nat) (op : List Byte) : State × Nat :=
  match World.ofBytes op with
  | some w => if 255 < x then (s, kBadArg) else ({ s with worlds := SMap.set {} s.worlds x w }, kOk)
  | none => (s, kBadArg)

/-- KSET. -/
def State.keyKset (s : State) (x : Nat) (op : List Byte) : State × Nat :=
  if !keyIdOk x then (s, kBadArg) else if s.keySwept (keyNo x) then (s, kBusy) else (s.setKey (keyNo x) (some (KeyMat.ofBytes op)), kOk)

/-- KDEL. -/
def State.keyKdel (s : State) (x : Nat) : State × Nat :=
  if !keyIdOk x then (s, kBadArg) else if s.keySwept (keyNo x) then (s, kBusy) else (s.setKey (keyNo x) none, kOk)

/-- A buffer index (R416). -/
def bufIndexOk (x : Nat) : Bool := x != 0 && decide (x < 2 ^ 16)

/-- BSET. -/
def State.keyBset (s : State) (x : Nat) (op : List Byte) : State × Nat :=
  if !bufIndexOk x then (s, kBadArg)
  else match Buf.ofBytes op with
    | none => (s, kBadArg)
    | some b =>
      if s.tags.any (fun e => e.2 != x && (s.buf e.2).valid && decide (b.base ≤ e.1 ∧ e.1 < b.base + b.frames)) then (s, kOverlap)
      else (s.setBuf x b, kOk)

/-- SWEEP: a step of a buffer, or a rekey of every valid buffer of a key id in ascending order (R419). -/
def State.keySweep (s : State) (x : Nat) (op : List Byte) : State × Nat :=
  if x.testBit 31 then
    let k := keyNo x
    if !keyIdOk (x % 2 ^ 31) then (s, kBadArg)
    else if s.keySwept k ∨ 16 ≤ s.sweepUnits.length then (s, kBusy)
    else
      let m := KeyMat.ofBytes op
      match (s.bufs.filter (fun e => e.2.valid && e.2.world * 128 + e.2.key == k)) with
      | [] => (s.setKey k (some m), kOk)
      | bs => (bs.foldl (fun s (i, b) =>
          let (s, id) := s.fresh
          { s with sweeps := s.sweeps ++ [{ id, buf := i, line := b.base * 2 ^ 16, rekey := some m }] }) s, kOk)
  else if !bufIndexOk x ∨ !(s.buf x).valid then (s, kBadArg)
  else if 16 ≤ s.sweepUnits.length then (s, kBusy)
  else
    let (s, id) := s.fresh
    ({ s with sweeps := s.sweeps ++ [{ id, buf := x, line := (s.buf x).base * 2 ^ 16 }]
              bufs := SMap.set {} s.bufs x { s.buf x with dirty := false } }, kOk)

/-- SQRY: lines left in the sweep of a buffer. -/
def State.keySqry (s : State) (x : Nat) : Nat :=
  match s.sweeps.find? (·.buf == x) with
  | some w => (s.bufEnd x - w.line) / 64
  | none => 0

/-- A measurement register. -/
def State.measOf (s : State) (m : Nat) : List Byte := s.meas.getD m (List.replicate 32 (0 : Byte))

/-- Extend a measurement register (R422). -/
def State.extend (s : State) (m : Nat) (digest : List Byte) : State :=
  { s with meas := s.meas.modify m (fun x => Crypto.sha256 (x ++ digest)) }

/-- Read the operand of a KEYOP at S[a]. -/
def keyOperand (f : FS) (n : Nat) (s : State) (e : State → List Byte → Eff) : Eff :=
  let a := (s.g.rdS f.a.toNat).toNat
  padCheck 32 a n .load s fun s => readBlock a n s e

/-- KEYOP.WSET (R420). -/
def execKeyopWset (f : FS) (s : State) : Res :=
  issue (.keyopWset f) s fun s => keyOperand f 64 s fun s op =>
    let x := (s.g.rdS f.b.toNat).toNat
    if s.worldBusy x then .stall s else
      let (s, r) := s.keyWset x op
      status f r s
/-- KEYOP.KSET (R420). -/
def execKeyopKset (f : FS) (s : State) : Res :=
  issue (.keyopKset f) s fun s => keyOperand f 96 s fun s op =>
    let (s, r) := s.keyKset (s.g.rdS f.b.toNat).toNat op
    status f r s
/-- KEYOP.KDEL (R420). -/
def execKeyopKdel (f : FS) (s : State) : Res :=
  issue (.keyopKdel f) s fun s =>
    let (s, r) := s.keyKdel (s.g.rdS f.b.toNat).toNat
    status f r s

/-- What a BSET waits for (R420). -/
def State.bsetBusy (s : State) (x : Nat) (op : List Byte) : Bool :=
  s.framesBusy (s.buf x).base (s.buf x).frames || (match Buf.ofBytes op with | some b => s.framesBusy b.base b.frames | none => false)

/-- KEYOP.BSET (R420). -/
def execKeyopBset (f : FS) (s : State) : Res :=
  issue (.keyopBset f) s fun s => keyOperand f 32 s fun s op =>
    let x := (s.g.rdS f.b.toNat).toNat
    if s.bsetBusy x op then .stall s else
      let (s, r) := s.keyBset x op
      status f r s
/-- KEYOP.SWEEP (R420): a rekey alone has an operand. -/
def execKeyopSweep (f : FS) (s : State) : Res :=
  issue (.keyopSweep f) s fun s =>
    let x := (s.g.rdS f.b.toNat).toNat
    if x.testBit 31 then keyOperand f 96 s fun s op =>
      let (s, r) := s.keySweep x op
      status f r s
    else
      let (s, r) := s.keySweep x []
      status f r s
/-- KEYOP.SQRY (R420). -/
def execKeyopSqry (f : FS) (s : State) : Res := issue (.keyopSqry f) s fun s => status f (s.keySqry (s.g.rdS f.b.toNat).toNat) s
/-- KEYOP.MEXT (R420, R422). -/
def execKeyopMext (f : FS) (s : State) : Res :=
  issue (.keyopMext f) s fun s => keyOperand f 32 s fun s op => status f kOk (s.extend f.sel.toNat op)
/-- KEYOP.MRD (R420). -/
def execKeyopMrd (f : FS) (s : State) : Res :=
  issue (.keyopMrd f) s fun s =>
    let a := (s.g.rdS f.a.toNat).toNat
    padCheck 32 a 32 .store s fun s => ownBlock a 32 s fun s l => status f kOk (s.pokeAll {} l (s.measOf f.sel.toNat))

/-! ### Sweeps and the key cache (R418, R419) -/

/-- Rewrite a line of a sweep under the new key and VER (R419). -/
def State.rewrite (s : State) (w : Sweep) : State :=
  let b := s.buf w.buf
  let l := w.line
  let c : Crypt := { enc := true, world := b.world, key := b.key }
  let own := s.keys.get none (s.bufKey w.buf)
  let plain := s.openLine c l
  let s := match plain with | some _ => s | none => ((s.poisonRange l 64).rowEvent l false).logError 12 0 l
  let s := match w.rekey.orElse (fun _ => own) with
    | some k => s.sealLine k (b.ver + 1) l (plain.getD (s.mem.readB l 64))
    | none => s
  { s with sweeps := s.sweeps.map (fun x => if x.id = w.id then { x with line := l + 64 } else x) }

/-- Sweep arg.id handles its next line (R419). -/
def execSweepLine (s : State) : Res :=
  match s.sweeps.find? (·.id == s.arg.id) with
  | none => .next s
  | some w => event s (s.sweepRuns w && decide (w.line < s.bufEnd w.buf) && !s.keyAway { enc := true, world := (s.buf w.buf).world, key := (s.buf w.buf).key })
      (·.rewrite w)

/-- Sweeps end: each buffer's VER advances. -/
def State.endSweeps (s : State) (ws : List Sweep) : State :=
  { ws.foldl (fun (s : State) w => { s with bufs := SMap.set {} s.bufs w.buf { s.buf w.buf with ver := ((s.buf w.buf).ver + 1) % 2 ^ 64 } }) s with
    sweeps := s.sweeps.filter (fun x => !ws.any (fun w => w.id == x.id)) }

/-- The last line of sweep arg.id is done (R419): VER advances; a rekey, once all its buffers are done, installs its material. -/
def execSweepComplete (s : State) : Res :=
  match s.sweeps.find? (·.id == s.arg.id) with
  | none => .next s
  | some w =>
    let ws := s.sweeps.filter (fun x => s.sweepUnit x == s.sweepUnit w)
    event s (ws.all (fun x => s.bufEnd x.buf ≤ x.line)) fun s =>
      let t := s.endSweeps ws
      if w.rekey.isSome then t.setKey (s.bufKey w.buf) w.rekey else t

/-- Key id arg.id, in the key store's numbering, is unwrapped into the key cache; the least recently used key that no sweep uses makes room and is
wrapped (R418). -/
def execKeyMissLoad (s : State) : Res :=
  let k := s.arg.id
  let out := s.keyCache.find? (fun x => !s.keySwept x)
  event s ((s.keys.get none k).isSome && !s.keyCache.contains k && (decide (s.keyCache.length < 128) || out.isSome)) fun s =>
    let w := SMap.set [] s.wrapped k []
    let gone := if s.keyCache.length < 128 then none else out
    { s with keyCache := s.keyCache.filter (fun x => some x != gone) ++ [k]
             wrapped := match gone with | some x => SMap.set [] w x (((s.keys.get none x).map State.wrap).getD []) | none => w }

/-! ### The security ring (R421) -/

/-- The world that a request concerns. -/
def State.ringWorld (s : State) (code x : Nat) (op : List Byte) : Nat :=
  match code with
  | 0 | 1 | 2 => x % 2 ^ 8
  | 3 => if (field op 0xE 1).testBit 0 then field op 0xC 1 else (s.buf x).world
  | 4 => if x.testBit 31 then x % 2 ^ 8 else (s.buf x).world
  | 5 => (s.buf x).world
  | _ => 0

/-- Run a request of the ring: its status, and the result of .MRD and .SQRY. The programs extend MEAS5 to MEAS15 alone (R422). -/
def State.ringRun (s : State) (code sel x : Nat) (op : List Byte) : State × Nat × List Byte :=
  let plain (r : State × Nat) : State × Nat × List Byte := (r.1, r.2, [])
  match code with
  | 0 => plain (s.keyWset x op)
  | 1 => plain (s.keyKset x op)
  | 2 => plain (s.keyKdel x)
  | 3 => plain (s.keyBset x op)
  | 4 => plain (s.keySweep x op)
  | 5 => (s, kOk, toBytes 4 (s.keySqry x))
  | 6 => if sel < 5 ∨ 15 < sel then (s, kBadArg, []) else (s.extend sel (op.take 32), kOk, [])
  | 7 => if 15 < sel then (s, kBadArg, []) else (s, kOk, s.measOf sel)
  | _ => (s, kBadArg, [])

/-- The security core serves the entry at HEAD (R421): arg.ok says whether the world it concerns was created by its attested owner. WIT is stored
last, so the entry is taken once it holds another witness than when it was last served (DESIGN CHOICE, log 77). -/
def execSecurityRingRequest (s : State) : Res :=
  let base := s.hub.secring.toNat
  match s.readVa hubCluster 0 0 base 16 with
  | some (t, h, false) =>
    let head := field h 8 8
    let at_ := base + 64 + head % 256 * 128
    (match t.readVa hubCluster 0 0 at_ 128 with
    | some (t, e, false) =>
      let code := field e 0 1
      let x := field e 4 4
      let op := e.drop 0x20
      let w := t.ringWorld code x op
      let w8 : DWord := BitVec.ofNat 64 (field e 0x10 8)
      let wait := (code == 0 && t.worldBusy x) || (code == 3 && t.bsetBusy x op)
      event s (head != field h 0 8 && !(field e 8 4).testBit 31 && wValid w8 && wScope w8 != 0 &&
          w8 != s.ringWit.get 0 (head % 256) && t.satisfied w8 package && !wait) fun _ =>
        let t : State := { t with ringWit := SMap.set 0 t.ringWit (head % 256) w8 }
        let (t, r, res) := if w ≠ 0 ∧ !s.arg.ok then (t, kBadArg, []) else t.ringRun code (field e 1 1) x op
        let put (s : State) (a : Nat) (bs : List Byte) : State := if bs = [] then s else (s.writeVa hubCluster 0 0 a bs).getD s
        put (put (put t (at_ + 0x20) res) (at_ + 8) (toBytes 4 (r + 2 ^ 31))) (base + 8) (toBytes 8 (head + 1))
    | _ => .next s)
  | _ => .next s

/-! ### The SPDM responder (R423 to R425) -/

def State.spdm (s : State) : Spdm := match s.arg.via with | .sideband => s.spdmSide | .pcie => s.spdmPcie
def State.setSpdm (s : State) (c : Spdm) : State := match s.arg.via with | .sideband => { s with spdmSide := c } | .pcie => { s with spdmPcie := c }

/-- An answer leaves on its transport. -/
def State.spdmSay (s : State) (bs : List Byte) : State :=
  { s with out := s.out ++ [{ kind := match s.arg.via with | .sideband => 2 | .pcie => 3, bytes := bs }] }

/-- An ERROR response. -/
def spdmError (code data : Nat) : List Byte := [0x12, 0x7F, BitVec.ofNat 8 code, BitVec.ofNat 8 data]

/-- The request codes that the responder supports (R424). -/
def spdmCodes : List Nat := [0x84, 0xE1, 0xE3, 0x81, 0x82, 0x83, 0xE0]

/-- A supported request: the checks of R425, Busy (arg.ok false: the previous one is still being answered), then the version, the order and the
fields; `answer` gives the response and the connection after it. The transcript of measurements ends with any other request (DSP0274). -/
def spdm (s : State) (code phase len : Nat) (ok : List Byte → Bool) (answer : Spdm → List Byte → Spdm × List Byte) : Res :=
  let m := s.arg.bytes
  let c := s.spdm
  event s (field m 1 1 == code) fun s =>
    if !s.arg.ok then s.spdmSay (spdmError 0x03 0)
    else if code ≠ 0x84 ∧ 1 ≤ c.phase ∧ field m 0 1 ≠ 0x12 then s.spdmSay (spdmError 0x41 0)
    else if (phase < 3 ∧ code ≠ 0x84 ∧ c.phase ≠ phase) ∨ (phase = 3 ∧ c.phase < 3) then s.spdmSay (spdmError 0x04 0)
    else if m.length < len ∨ !ok m then s.spdmSay (spdmError 0x01 0)
    else
      let (c, r) := answer (if code = 0xE0 then c else { c with blocks := [] }) m
      (s.setSpdm c).spdmSay r

/-- GET_VERSION: the connection and its transcript start afresh (R425). -/
def execGetVersion (s : State) : Res :=
  spdm s 0x84 0 4 (fun m => field m 0 1 == 0x10) fun _ m =>
    let r := [0x10, 0x04, 0, 0, 0, 1] ++ toBytes 2 0x1200
    ({ phase := 1, vca := m ++ r }, r)

/-- The fields of GET_CAPABILITIES in range: the time exponent, and the sizes of a transfer and of a message (DSP0274; PRESUMED, log 13). -/
def capsOk (m : List Byte) : Bool := field m 5 1 ≤ 31 && 42 ≤ field m 12 4 && field m 12 4 ≤ field m 16 4

/-- GET_CAPABILITIES: CERT_CAP, CHAL_CAP and MEAS_CAP 10b (R424); the time exponent and the sizes are open. -/
def execGetCapabilities (s : State) : Res :=
  spdm s 0xE1 1 20 capsOk fun c m =>
    let r := [0x12, 0x61, 0, 0, 0, BitVec.ofNat 8 (s.free 4000).toNat, 0, 0] ++ toBytes 4 0x16 ++ toBytes 4 (s.free 4001).toNat ++ toBytes 4 (s.free 4002).toNat
    ({ c with phase := 2, vca := c.vca ++ m ++ r }, r)

/-- NEGOTIATE_ALGORITHMS names its own length, at most 128 (DSP0274; PRESUMED, log 13), SHA-256, and a supported signature. -/
def algorithmsOk (m : List Byte) : Bool :=
  field m 4 2 == m.length && m.length ≤ 128 && ((field m 8 4).testBit 2 || (field m 8 4).testBit 3)

/-- NEGOTIATE_ALGORITHMS (R424): RSASSA before RSAPSS; SHA-256; DMTF measurements. -/
def execNegotiateAlgorithms (s : State) : Res :=
  spdm s 0xE3 2 32 algorithmsOk fun c m =>
    let pss := !(field m 8 4).testBit 2
    let r := [0x12, 0x63, 0, 0] ++ toBytes 2 36 ++ [BitVec.ofNat 8 (field m 6 1 % 2), 0] ++ toBytes 4 2 ++ toBytes 4 (if pss then 8 else 4) ++
      toBytes 4 (field m 12 4 % 2) ++ List.replicate 16 (0 : Byte)
    ({ c with phase := 3, vca := c.vca ++ m ++ r, pss }, r)

/-- GET_DIGESTS: slot 0 holds the one chain (R423). -/
def execGetDigests (s : State) : Res :=
  spdm s 0x81 3 4 (fun _ => true) fun c m =>
    let r := [0x12, 0x01, 0, 1] ++ Crypto.sha256 Der.chain
    ({ c with certs := c.certs ++ m ++ r }, r)

/-- GET_CERTIFICATE of slot 0 (R423). -/
def execGetCertificate (s : State) : Res :=
  spdm s 0x82 3 8 (fun m => field m 2 1 % 16 == 0 && decide (field m 4 2 < Der.chain.length)) fun c m =>
    let part := (Der.chain.drop (field m 4 2)).take (field m 6 2)
    let r := [0x12, 0x02, 0, 0] ++ toBytes 2 part.length ++ toBytes 2 (Der.chain.length - field m 4 2 - part.length) ++ part
    ({ c with certs := c.certs ++ m ++ r }, r)

/-- The measurement block of index i (R424): MEAS i-1 as a digest. -/
def State.measBlock (s : State) (i : Nat) : List Byte :=
  [BitVec.ofNat 8 i, 1] ++ toBytes 2 35 ++ [1] ++ toBytes 2 32 ++ s.measOf (i - 1)

/-- Every measurement block. -/
def State.measBlocks (s : State) : List Byte := ((List.range 16).map (fun i => s.measBlock (i + 1))).flatten

/-- CHALLENGE: CHALLENGE_AUTH is signed over the transcript and its nonce (R425). -/
def execChallenge (s : State) : Res :=
  spdm s 0x83 3 36 (fun m => field m 2 1 == 0 && [0, 1, 0xFF].contains (field m 3 1)) fun c m =>
    let nonce := (List.range 4).map (fun k => toBytes 8 (s.free (4010 + k)).toNat) |>.flatten
    let sum := if field m 3 1 = 0 then [] else Crypto.sha256 s.measBlocks
    let r := [0x12, 0x03, 0, 1] ++ Crypto.sha256 Der.chain ++ nonce ++ sum ++ [0, 0]
    ({ c with certs := [] }, r ++ Der.signature c.pss "responder-challenge_auth signing" (c.vca ++ c.certs ++ m ++ r))

/-- GET_MEASUREMENTS (R424, R425): index 0 gives the count and 0xFF all; bit 0 of the attributes asks for a signature. -/
def execGetMeasurements (s : State) : Res :=
  spdm s 0xE0 3 4 (fun m => (field m 3 1 ≤ 16 || field m 3 1 == 0xFF) && (!(field m 2 1).testBit 0 || (decide (37 ≤ m.length) && field m 36 1 % 16 == 0))) fun c m =>
    let i := field m 3 1
    let blocks := if i = 0 then [] else if i = 0xFF then s.measBlocks else s.measBlock i
    let nonce := (List.range 4).map (fun k => toBytes 8 (s.free (4020 + k)).toNat) |>.flatten
    let r := [0x12, 0x60, if i = 0 then 16 else 0, 0, if i = 0 then 0 else if i = 0xFF then 16 else 1] ++ toBytes 3 blocks.length ++ blocks ++ nonce ++ [0, 0]
    let log := c.blocks ++ m ++ r
    if (field m 2 1).testBit 0 then ({ c with blocks := [] }, r ++ Der.signature c.pss "responder-measurements signing" (c.vca ++ log))
    else ({ c with blocks := log }, r)

/-- A request code that is not supported (R425). -/
def execSpdmUnsupportedRequest (s : State) : Res :=
  event s (!spdmCodes.contains (field s.arg.bytes 1 1)) fun s =>
    s.spdmSay (if s.arg.ok then spdmError 0x07 (field s.arg.bytes 1 1) else spdmError 0x03 0)

end Sys2Proof.Machine
end

