-- ==== Sys2Proof/Machine/Host.lean ====
section
/-! DEFINITION. The outside world: user queues and their firmware (R397 to R401), the BARs (R438 to R440), start-up (R386, R437, R441, R442),
management (R366, R367, R446), power (R443, R444), peers (R218, R234, R445), scrubbing and repair (R435, R436). -/

namespace Sys2Proof.Machine

/-! ### Queue control blocks (R397) -/

namespace State

/-- A field of a queue's control block in HBM. -/
def qget (s : State) (q o n : Nat) : Nat :=
  let a := s.hub.qcbbase + 64 * q
  if a + 64 ≤ Config.reservedBase then s.mem.readN (a + o) n else 0

/-- The firmware writes such a field. -/
def qput (s : State) (q o n x : Nat) : State :=
  let a := s.hub.qcbbase + 64 * q
  if a + 64 ≤ Config.reservedBase then s.pokeAll {} (a + o) (toBytes n x) else s

def qState (s : State) (q : Nat) : Nat := s.qget q 0x20 1
def qSize (s : State) (q : Nat) : Nat := 2 ^ s.qget q 8 1
def rdidx (s : State) (q : Nat) : Nat := s.qget q 0x10 4
def wridx (s : State) (q : Nat) : Nat := s.qget q 0x14 4
/-- Packets not yet consumed. -/
def qLeft (s : State) (q : Nat) : Nat := (s.wridx q + 2 ^ 32 - s.rdidx q) % 2 ^ 32

/-- An event of a queue is raised; one about packets merges into such an event that waits as the queue's last (R401). -/
def raiseQ (s : State) (e : UEvent) : State :=
  let mine := s.front.events.filter (·.q == e.q)
  if (mine.getLast?.map (fun x => x.kind == 0 || x.kind == 4)).getD false && (e.kind == 0 || e.kind == 4) then s
  else { s with front := { s.front with events := s.front.events ++ [e] } }

/-- The first event that waits for a queue. -/
def firstQ (s : State) (q : Nat) : Option UEvent := s.front.events.find? (·.q == q)
def dropQ (s : State) (e : UEvent) : State := { s with front := { s.front with events := s.front.events.erase e } }

/-- A new WRIDX arrives for a queue (R400). -/
def kicked (s : State) (q x : Nat) : State :=
  let w := x % 2 ^ 32
  if s.qState q = 0 ∨ w = s.wridx q then s else (s.qput q 0x14 4 w).raiseQ { q, kind := 0 }

/-- What a read of a queue's kick register returns (R400). -/
def kickRead (s : State) (q : Nat) : Nat := s.rdidx q + 2 ^ 32 * s.qState q

/-- A queue leaves its slot. -/
def unslot (s : State) (q : Nat) : State :=
  ({ s with front := { s.front with
      slots := s.front.slots.filter (fun e => e.2 != some q), emptySince := SMap.set none s.front.emptySince q none
      pendSince := SMap.set 0 s.front.pendSince q 0, budget := SMap.set 0 s.front.budget q 0 } } : State).qput q 0x21 1 0xFF

/-- A queue waits for a slot (R399). -/
def pend (s : State) (q : Nat) : State :=
  ({ s with front := { s.front with pendSince := SMap.set 0 s.front.pendSince q (s.clock + 1) } } : State).qput q 0x20 1 2

/-- A queue stops at packet RDIDX with an error code (R399). -/
def qError (s : State) (q code : Nat) : State := ((s.unslot q).qput q 0x20 1 4).qput q 0x22 2 code

/-- Ticks that a queue has been PENDING. -/
def waited (s : State) (q : Nat) : Nat := min (s.clock + 1 - s.front.pendSince.get 0 q) 0xFFFFFFFF

/-- Does one pending queue come before another: aged priority, then WAITED (R401)? Equal ones go by number. -/
def ahead (s : State) (a b : Nat) : Bool :=
  let aged (q : Nat) : Nat := min 7 (s.qget q 0xF 1 % 8 + s.waited q / 125000)
  aged b < aged a || (aged a == aged b && (s.waited b < s.waited a || (s.waited a == s.waited b && a < b)))

/-- The pending queue that comes first. -/
def firstPending (s : State) : List Nat → Option Nat
  | [] => none
  | q :: qs => match s.firstPending qs with | some r => if s.ahead r q then some r else some q | none => some q

/-- Map a pending queue to a slot (R399): it is served by an event of its own. -/
def mapQ (s : State) (q k : Nat) : State :=
  let s : State := { s with front := { s.front with slots := SMap.set none s.front.slots k (some q), pendSince := SMap.set 0 s.front.pendSince q 0 } }
  (((s.qput q 0x20 1 3).qput q 0x21 1 k).qput q 0x24 4 0).raiseQ { q, kind := 4 }

/-- The slot for a pending queue: a free one, else that of a queue whose ring has been empty for 125,000 ticks (R401). -/
def slotFor (s : State) : Option (Nat × Option Nat) :=
  match (List.range 64).find? (fun k => s.front.slots.get none k == none) with
  | some k => some (k, none)
  | none =>
    s.front.slots.findSome? (fun (k, q) => q.bind (fun q =>
      match s.front.emptySince.get none q with
      | some t => if t + 125000 ≤ s.clock ∧ s.qLeft q = 0 then some (k, some q) else none
      | none => none))

/-- The queue to map next and its slot. -/
def mapping (s : State) : Option (Nat × Nat × Option Nat) :=
  (s.firstPending (s.front.pendSince.map (·.1))).bind (fun q => s.slotFor.map (fun (k, old) => (q, k, old)))

/-- Map a queue where one can be: the WAITED of the others is written (R397). -/
def mapNext (s : State) : State :=
  match s.mapping with
  | none => s
  | some (q, k, old) =>
    let s := match old with | some o => (s.unslot o).qput o 0x20 1 1 | none => s
    let s := s.mapQ q k
    s.front.pendSince.foldl (fun s (p, _) => s.qput p 0x24 4 (s.waited p)) s

/-- A queue is being served: the event in hand has packets left to it. -/
def serving (s : State) (q : Nat) : Bool := s.qState q == 3 && s.front.budget.get 0 q != 0 && s.qLeft q != 0

/-- Is one of the twelve front-end cores idle? One that serves a queue is not. -/
def coreIdle (s : State) : Bool := decide (((s.front.budget.map (·.1)).filter s.serving).length < 12)

/-- May an event be taken now (R401): an idle core takes the first of the hardware event queue, past those of queues whose lock is held, which are left to
their holders? -/
def mayTake (s : State) (e : UEvent) : Bool := s.coreIdle && (s.front.events.takeWhile (· != e)).all (fun x => s.serving x.q)

/-- The packet at RDIDX (R397). -/
def packet (s : State) (q : Nat) : Option (State × List Byte) :=
  let a := s.qget q 0 8 + 64 * (s.rdidx q % s.qSize q)
  if 2 ^ 56 < a + 64 then none
  else match s.readVa hubCluster (s.qget q 0xC 2) (s.qget q 0xE 1) a 64 with
    | some (s, bs, false) => some (s, bs)
    | _ => none

/-- A packet is handed on (R398): RDIDX advances; the event ends after 16 packets or with an empty ring. -/
def consumed (s : State) (q : Nat) : State :=
  let s := s.qput q 0x10 4 ((s.rdidx q + 1) % 2 ^ 32)
  let b := s.front.budget.get 0 q - 1
  let left := s.qLeft q
  let s : State := { s with front := { s.front with
    budget := SMap.set 0 s.front.budget q (if left = 0 then 0 else b)
    emptySince := SMap.set none s.front.emptySince q (if left = 0 then some s.clock else none) } }
  if left ≠ 0 ∧ b = 0 then s.raiseQ { q, kind := 4 } else s

/-- An event of a queue is handled under its lock (R399, R401). -/
def handleQ (s : State) (q : Nat) : State :=
  if s.qState q ∉ [1, 2, 3] then s
  else if s.qSize q < s.qLeft q then s.qError q 2
  else if s.qState q = 1 then (if s.qLeft q = 0 then s else s.pend q)
  else if s.qState q = 3 ∧ s.qLeft q ≠ 0 then
    { s with front := { s.front with budget := SMap.set 0 s.front.budget q 16, emptySince := SMap.set none s.front.emptySince q none } }
  else if s.qState q = 3 ∧ s.front.emptySince.get none q = none then
    { s with front := { s.front with emptySince := SMap.set none s.front.emptySince q (some s.clock) } }
  else s

end State

/-- A packet's type; none when it breaks R398. -/
def packetType (bs : List Byte) : Option Nat :=
  let t := field bs 0 2
  if 2 < t ∨ 1 < field bs 2 2 ∨ field bs 4 4 ≠ 0 ∨ field bs 0x12 46 ≠ 0 ∨ (t ≠ 2 ∧ field bs 0x10 2 ≠ 0) then none else some t

/-- Queue arg.id: a front-end core handles its next event, or stops it at a bad packet; with no queue named, a pending queue is mapped (R401). -/
def execFrontendEvent (s : State) : Res :=
  let q := s.arg.id
  if s.serving q then
    match s.packet q with
    | none => .next (s.qError q 3)
    | some (t, bs) => event s (packetType bs).isNone (fun _ => t.qError q 1)
  else match s.firstQ q with
    | some e => event s ((e.kind == 0 || e.kind == 4) && s.mayTake e) fun s => ((s.dropQ e).handleQ q).mapNext
    | none => event s (decide (1024 ≤ q) && s.coreIdle) (·.mapNext)

/-- The packet of queue arg.id at RDIDX when it is served and has a type. -/
def State.packetOf (s : State) (t : Nat) : Option (State × List Byte) :=
  if s.serving s.arg.id then (s.packet s.arg.id).filter (fun e => packetType e.2 == some t) else none

/-- A NOP packet of queue arg.id is consumed (R398). -/
def execPacketNop (s : State) : Res :=
  match s.packetOf 0 with
  | none => .next s
  | some (s, _) => .next (s.consumed s.arg.id)

/-- A LAUNCH packet of queue arg.id is accepted as LAUNCH accepts, with a null launch witness (R398). -/
def execPacketLaunch (s : State) : Res :=
  match s.packetOf 1 with
  | none => .next s
  | some (t, bs) =>
    event s (!s.launchFull) fun _ =>
      let q := t.arg.id
      let last := t.qget q 0x28 8
      let after := if (field bs 2 2).testBit 0 ∧ last.testBit 32 then some (last % 2 ^ 32) else none
      let (t, gid) := t.accept (field bs 8 8) (t.qget q 0xC 2) (t.qget q 0xE 1) (t.qget q 0xF 1 % 8) 0 after
      (t.qput q 0x28 8 (gid + 2 ^ 32)).consumed q

/-- A PUSH packet of queue arg.id is copied into its feed queue (R398). -/
def execPacketPush (s : State) : Res :=
  match s.packetOf 2 with
  | none => .next s
  | some (s, bs) =>
    let q := s.arg.id
    let a := field bs 8 8
    match if 2 ^ 56 < a + 64 then none else s.readVa hubCluster (s.qget q 0xC 2) (s.qget q 0xE 1) a 64 with
    | some (t, rcd, false) =>
      (match if 0x7FF < field bs 0x10 2 then none else t.feed (field bs 0x10 2) with
      | none => .next (t.qError q 4)
      | some f =>
        if !f.enabled ∨ f.world ≠ t.qget q 0xE 1 then .next (t.qError q 4)
        else event s (decide (f.count < f.cap)) fun _ => (t.feedPush f rcd 0).consumed q)
    | _ => .next (s.qError q 3)

/-- A write arg.x of the kick register of queue arg.id (R400, R440); with arg.ok false the host reads it. -/
def execKick (s : State) : Res :=
  if s.arg.ok then event s (s.hub.ready && decide (s.arg.id < 1024) && s.qget s.arg.id 0x18 8 == 0) (fun s => s.kicked s.arg.id s.arg.x)
  else event s (decide (s.arg.id < 1024)) (fun s => { s with out := s.out ++ [{ kind := 7, port := s.arg.id, bytes := toBytes 8 (s.kickRead s.arg.id) }] })

/-- Where the notify word of a queue lies in local HBM, by the address and translation in its control block. -/
def State.notifyAt (s : State) (q : Nat) : Option Nat :=
  let a := s.qget q 0x18 8
  if a = 0 ∨ 2 ^ 56 < a + 8 then none
  else match s.engTranslate hubCluster (s.qget q 0xC 2) (s.qget q 0xE 1) a .load with
    | .error _ => none
    | .ok (_, t) => some (t.loc a)

/-- The snoop filter watches the notify word of a queue from its creation on (R400; DESIGN CHOICE, log 84), or no longer. -/
def State.watchQ (s : State) (q : Nat) (on : Bool) : State :=
  let others := s.front.snoop.filter (·.1 != q)
  let mine := if on then ((s.notifyAt q).filter (fun l => decide (l < Config.hbmBytes))).toList.map (fun l => (q, l)) else []
  { s with front := { s.front with snoop := others ++ mine, notified := s.front.notified.filter (· != q) } }

/-- A write to the notify word of queue arg.id has performed (R400): the snoop filter has seen it. -/
def execNotifyWordWrite (s : State) : Res :=
  let q := s.arg.id
  event s (s.front.notified.contains q) fun s =>
    let s : State := { s with front := { s.front with notified := s.front.notified.filter (· != q) } }
    match s.front.snoop.find? (·.1 == q) with
    | some (_, l) => if s.hub.ready then s.kicked q (s.mem.readN l 8) else s
    | none => s

/-- A QCTL operation is the next event of queue arg.id: it applies. -/
def qctlEvent (s : State) (kind : Nat) (f : State → State) : Res :=
  match s.firstQ s.arg.id with
  | none => .next s
  | some e => event s (e.kind == kind && !s.serving s.arg.id && s.mayTake e) fun s => f (s.dropQ e)

/-- QCTL CREATE of queue arg.id (R399). -/
def execQctlCreate (s : State) : Res :=
  qctlEvent s 1 fun s =>
    let q := s.arg.id
    if s.qState q ≠ 0 then s
    else ((((((s.qput q 0x10 8 0).qput q 0x21 1 0xFF).qput q 0x22 2 0).qput q 0x24 4 0).qput q 0x28 8 0).qput q 0x20 1 1).watchQ q true

/-- QCTL DESTROY of queue arg.id (R399). -/
def execQctlDestroy (s : State) : Res := qctlEvent s 2 fun s => ((s.unslot s.arg.id).qput s.arg.id 0x20 1 0).watchQ s.arg.id false

/-- QCTL RESUME of queue arg.id (R399). -/
def execQctlResume (s : State) : Res := qctlEvent s 3 fun s => if s.qState s.arg.id = 4 then s.pend s.arg.id else s

/-! ### The BARs (R438 to R440) -/

/-- A host write arg.units of the BAR0 register at offset arg.x (R438, R440); with arg.ok false the host reads it. -/
def execBar0RegisterWrite (s : State) : Res :=
  if s.arg.ok then .next (s.bar0Write false s.arg.x s.arg.units.toNat)
  else .next { s with out := s.out ++ [{ kind := 7, bytes := toBytes 8 (s.bar0Read s.arg.x) }] }

/-- A host read of arg.id bytes at offset arg.x of BAR4 (R439): what it returns leaves the device. -/
def execBar4Read (s : State) : Res :=
  event s (decide (s.arg.x + s.arg.id ≤ s.hub.window)) fun s =>
    let a := s.hub.bar4base + s.arg.x
    let inRange (i : Nat) : Bool := s.hub.ready && decide (a + i < Config.reservedBase)
    let bad := (List.range s.arg.id).any (fun i => inRange i && s.poisoned (a + i))
    let bs := if bad then [] else (List.range s.arg.id).map (fun i => if inRange i then s.mem.get 0 (a + i) else 0xFF)
    { s with out := s.out ++ [{ kind := 6, bytes := bs }] }

/-- A host write of arg.bytes at offset arg.x of BAR4 (R439). -/
def execBar4Write (s : State) : Res :=
  event s (s.hub.ready && decide (s.arg.x + s.arg.bytes.length ≤ s.hub.window)) fun s =>
    let a := s.hub.bar4base + s.arg.x
    s.pokeAll {} a (s.arg.bytes.take (Config.reservedBase - a))

/-- The host writes arg.x to PWRCAP (R444). -/
def execPwrcapWrite (s : State) : Res := event s s.hub.ready (fun s => s.setCap s.arg.x)

/-! ### Messages of the management block (R366) -/

/-- A PLDM event leaves (R446). -/
def State.pldm (s : State) (sort : Nat) (bs : List Byte) : State := { s with out := s.out ++ [{ kind := 0, port := sort, bytes := bs }] }

/-- Start-up stops after the step last completed (R440, R441). -/
def State.failed (s : State) (code : Nat) : State :=
  ({ s with hub := { s.hub with fail := true, ready := false, failcode := code } } : State).pldm 1 [BitVec.ofNat 8 code]

/-- The Prefects' boot has failed in the clusters of a mask (R366, R440). -/
def State.bootFailed (s : State) (mask : List Byte) : State :=
  ({ s with hub := { s.hub with bootAt := none } } : State).failed 4 |>.pldm 4 mask

/-- The oldest message at the management block is a REPORT: Prefect 0's is acted on (R366). Its status 0 completes step 6 and then, in a step of its own,
step 7; after a failure READY stays clear until the next reset (R441). -/
def execReport (s : State) : Res :=
  match s.hub.inbound with
  | [] => .next s
  | (src, m) :: rest =>
    event s (field m 0 2 == 0x0200) fun s =>
      let s : State := { s with hub := { s.hub with inbound := rest } }
      if src ≠ 0 then s
      else if field m 0x10 4 = 0 then
        if s.hub.fail then s
        else if s.hub.step < 6 then { s with hub := { s.hub with step := 6, inbound := (src, m) :: rest } }
        else { s with hub := { s.hub with ready := true, step := 7, bootAt := none } }
      else if field m 0x10 4 = 1 then s.bootFailed ((m.drop 0x18).take 10)
      else s

/-- The oldest message at the management block is not a REPORT: a NOTE is forwarded, another type ignored (R366). -/
def execNote (s : State) : Res :=
  match s.hub.inbound with
  | [] => .next s
  | (_, m) :: rest =>
    event s (field m 0 2 != 0x0200) fun s =>
      let s : State := { s with hub := { s.hub with inbound := rest } }
      if field m 0 2 = 0x0201 then s.pldm 3 ((m.drop 0x10).take 4 ++ (m.drop 0x18).take 8) else s

/-- A message of the management block goes to every Prefect (R366). -/
def State.tellAll (s : State) (typ : Nat) (payload : List Byte) : State :=
  (List.range Config.nClusters).foldl (fun s p => s.sendWire 254 p true (transit 254 p) (message typ 0xFE 0 0 0 payload)) s

/-- A requested warm reset is announced: it begins 1,250,000 ticks later (R366). -/
def execResetpend (s : State) : Res :=
  event s s.hub.resetAsked fun s =>
    ({ s with hub := { s.hub with resetAsked := false, resetAt := some (s.clock + 1250000) } } : State).tellAll 0x0300 (toBytes 8 1250000)

/-- A new power cap is announced (R366). -/
def execCapset (s : State) : Res :=
  match s.hub.announce with
  | none => .next s
  | some w => .next (({ s with hub := { s.hub with announce := none } } : State).tellAll 0x0301 (toBytes 4 w))

/-! ### Start-up (R386, R422, R437, R441, R442) -/

/-- The firmware image in use of a stage. -/
def State.firmware (s : State) (m : Nat) : List Byte := (s.nvm.images.get none m).getD (Config.madeWith m)

/-- Step 2 (R422): the firmware of each stage that starts is verified and measured, a staged image in place of the one in use; one that fails
leaves the previous one in use (R446). Security and management firmware go on over a warm reset, and what is staged for them waits. -/
def State.bootRom (s : State) (warm stagedOk : Bool) : State :=
  (if warm then [2] else [0, 1, 2]).foldl (fun s m =>
    let s := match s.nvm.staged.get none m with
      | none => s
      | some b =>
        let t : State := { s with nvm := { s.nvm with staged := SMap.set none s.nvm.staged m none } }
        if stagedOk then { t with nvm := { t.nvm with images := SMap.set none t.nvm.images m (some b) } } else t.pldm 5 [BitVec.ofNat 8 m]
    s.extend m (Crypto.sha256 (s.firmware m))) s

/-- The number of an HBM row, as Config.hbmRow gives it. -/
def Repair.rowNo (e : Repair) : Nat := e.unit + 16 * e.place + 2 ^ 36 * e.row

/-- Step 5 (R437): pending repairs are applied; entries that arg.nums names find no spare row in their bank, and the frames they touch are retired; those of
core and cluster sites change the fuse-map override. -/
def State.repair (s : State) : State :=
  let dead (i : Nat) (e : Repair) : Bool := e.kind == 1 && e.state == 0 && s.arg.nums.contains i
  let es := s.nvm.repairs.zipIdx
  let done := es.map (fun (e, i) => if e.state ≠ 0 then e else { e with state := if dead i e then 2 else 1 })
  let frames := (es.filter (fun e => dead e.2 e.1)).map (fun e =>
    (Config.rowFrames e.1.rowNo).map (fun f => ({ kind := 5, state := 1, unit := e.1.unit, place := 0, row := f.val } : Repair)))
  let sites := (s.nvm.repairs.filter (fun e => e.state == 0 && (e.kind == 3 || e.kind == 4))).map (fun e => (e.kind, e.unit, e.place))
  let all := done ++ frames.flatten
  { s with nvm := { s.nvm with repairs := all.take 4096, retired := s.nvm.retired ++ (all.drop 4096).map (·.row), sites := s.nvm.sites ++ sites } }

/-- A repair entry as it lies in the list (R436). -/
def Repair.code (e : Repair) : List Byte := layout 16 [(0, 1, e.kind), (1, 1, e.state), (2, 2, e.unit), (4, 4, e.place), (8, 8, e.row)]

/-- The stored training results, as their CRC covers them. -/
def Nvm.results (n : Nvm) : List Byte := (n.training.map (fun x => toBytes 8 x.toNat)).flatten

/-- Do the stored results serve: are they there, with a CRC that fits? -/
def Nvm.serves (n : Nvm) : Bool := !n.training.isEmpty && Crypto.crc32c n.results == n.crc

/-- Step 3 (R442): full training stores new results for every lane; a restore keeps them, but for the channels that fail their check, which are trained
again. Results are free values. -/
def State.train (s : State) (restored : Bool) (failing : List Nat) : State :=
  let lane (i : Nat) : DWord := s.free (8000 + i)
  let training := if restored then s.nvm.training.mapIdx (fun i x => if failing.contains (i / 64) then lane i else x) else (List.range (512 * 64)).map lane
  { s with nvm := { s.nvm with training, crc := Crypto.crc32c ({ s.nvm with training } : Nvm).results } }

/-- The start-up steps from 2 on (R441): STEP is set as each completes, and a failure stops them. `restored`: stored training results serve, and only the
channels that fail their check are trained. A site without a spare is named: the first that waits for one (DESIGN CHOICE, log 84). -/
def State.startUp (s : State) (warm stagedOk restored : Bool) (o : StartUp) : State :=
  let at_ (k : Nat) (s : State) : State := { s with hub := { s.hub with step := k } }
  let s := at_ 1 { s with hub := { s.hub with warm } }
  if !o.sigOk then s.failed 1
  else
    let s := at_ 2 (s.bootRom warm stagedOk)
    let failing := (s.arg.nums.filter (4608 ≤ ·)).map (· - 4608)
    if !o.trainOk ∧ (!restored ∨ failing ≠ []) then s.failed 2
    else
      let s := at_ 3 (s.train restored failing)
      if !o.linksOk then s.failed 5
      else
        let s := at_ 4 s
        match if o.sparesOk then none else s.nvm.repairs.find? (fun e => e.state == 0 && (e.kind == 3 || e.kind == 4)) with
        | some e => (s.failed 3).pldm 6 e.code
        | none =>
          let s := s.repair
          at_ 5 (s.extend 4 (Crypto.sha256 (s.nvm.results ++ (s.nvm.repairs.map Repair.code).flatten)))

/-- What lies outside the device stays as it is over a reset, and so do NVM, time and the model's own marks. -/
def State.afterReset (s : State) : State :=
  { State.reset with
    clock := s.clock, mem := s.mem.keep (fun a => decide (2 ^ 50 ≤ a ∧ a < 2 ^ 60)), poison := s.poison.keep (fun u => decide (2 ^ 47 ≤ u ∧ u < 2 ^ 57))
    nvm := s.nvm, out := s.out, nextId := s.nextId, freeCtr := s.freeCtr, arg := s.arg, sched := s.sched }

/-- Auxiliary-power reset (R441): arg.start is what the steps find, arg.ok says that a staged image verifies. -/
def execAuxPowerReset (s : State) : Res := .next (s.afterReset.startUp false s.arg.ok false s.arg.start)

/-- Warm reset (R441): from PCIe, or, with arg.id 1, the one requested on the side-band once it has been announced and is due (R366). MEAS0, MEAS1, the error counters and NVM stay;
the security core, which runs on auxiliary power, goes on. Training is full when no stored results serve; channel c fails its check when
arg.nums has 4608 + c (R442). With arg.id 2 a PCIe fundamental reset begins, and the main side stays in reset until the warm reset that ends it. -/
def execWarmReset (s : State) : Res :=
  event s (s.arg.id != 1 || (s.hub.resetAt.map (fun t => decide (t ≤ s.clock))).getD false) fun s =>
    let restored := s.nvm.serves
    let core := s.ctx? .secure
    let t : State := { s.afterReset with
      errUE := s.errUE, errCE := s.errCE, meas := s.meas.take 2 ++ State.reset.meas.drop 2, spdmSide := s.spdmSide, spdmPcie := s.spdmPcie }
    let t : State := match core with
      | some c => t.modCtx .secure (fun _ => c)
      | none => t
    if s.arg.id = 2 then { t with hub := { t.hub with warm := true, inReset := true } } else t.startUp true s.arg.ok restored s.arg.start

/-- The security core has verified the device kernel image arg.bytes, writes it to HBM at the first of arg.nums, gives ASN 0 its first root (the
second), sets SECRING to arg.units and starts Prefect 0 at arg.x (R386, R421, R422). -/
def execPrefect0Start (s : State) : Res :=
  match s.ctx? (.prefect 0) with
  | none => .next s
  | some g =>
    event s (g.sched.held && s.hub.step == 5 && !s.hub.fail) fun s =>
      if !s.arg.ok then s.failed 1
      else
        let s := (s.extend 3 (Crypto.sha256 s.arg.bytes)).pokeAll {} (s.arg.nums.getD 0 0) (s.arg.bytes.take (Config.reservedBase - s.arg.nums.getD 0 0))
        let s : State := { s with hub := { s.hub with secring := s.arg.units, bootAt := some s.clock }
                                  roots := SMap.set 0 s.roots 0 (BitVec.ofNat 64 (s.arg.nums.getD 1 0)) }
        s.modCtx (.prefect 0) (fun g =>
          { g with sched := { g.sched with held := false }, flow := { g.flow with pc := s.arg.x % 2 ^ 56, line := none }, ids := { g.ids with world := 0, asn := 0 } })

/-- The clusters that fail the boot (R386): those whose READY has a nonzero status or whose Prefect has escalated and, after one second, those without
one. -/
def State.bootFailures (s : State) (late : Bool) : List Nat :=
  (List.range Config.nClusters).filter (fun c =>
    ((s.ctx? (.prefect c)).map (·.sched.escalated)).getD false ||
    match s.kernel.ready.find? (·.1 == c) with
    | some (_, x) => x != 0
    | none => late && c != 0)

/-- The READY messages are not all in within one second, or one of them says no, or a Prefect has escalated: Prefect 0 sends a failing REPORT with the
mask of those clusters; when it is Prefect 0 that has halted, the management block, which the halt is reported to, acts as on that REPORT (R386;
DEDUCED, log 71). -/
def execBootTimeout (s : State) : Res :=
  match s.hub.bootAt with
  | none => .next s
  | some t =>
    let bad := s.bootFailures (decide (t + oneSecond ≤ s.clock))
    let mask := toBytes 10 ((bad.map (2 ^ ·)).sum)
    event s (!s.hub.ready && bad != [] && (bad.contains 0 || s.mailRoom 254 false)) fun s =>
      if bad.contains 0 then s.bootFailed mask
      else ({ s with hub := { s.hub with bootAt := none } } : State).sendWire 0 254 false (transit 0 254)
        (message 0x0200 0 0 0 (s.kernelWit 0).toNat (toBytes 8 1 ++ mask))

/-- Prefect 0 writes arg.x to IOCFG with GO set: bring-up starts (R367). -/
def execIocfgGo (s : State) : Res := .next (s.iocfgWrite (s.arg.x ||| 2 ^ 31))

/-- Port p is done with bring-up: it works, an Ethernet port with empty rings, or its bit is set among the failed ones (R367). -/
def State.portDone (s : State) (p : Nat) (ok : Bool) : State :=
  let h := s.hub
  let todo := h.todo.filter (· != p)
  { s with iocmds := if ok ∧ 8 ≤ p then s.iocmds.filter (fun c => c.cls == 0 || c.port != p - 8) else s.iocmds
           hub := { h with
      todo, go := !todo.isEmpty, up := if ok then h.up ++ [p] else h.up
      nfail := if !ok ∧ p < 8 then h.nfail ||| 2 ^ p else h.nfail, efail := if !ok ∧ 8 ≤ p then h.efail ||| 2 ^ (p - 8) else h.efail } }

/-- What the hub does to a drive at bring-up, in order (R367): 0 reset its controller, 1 create its admin queue, then admin commands by their NVMe opcode (PRESUMED,
log 98): 6 Identify Controller, 6 with a namespace, and 5 and 1, which create the queues of pair i with its depth. -/
def nvmeBringUp (namespaces : List Nat) (pairs depth : Nat) : List (List Byte) :=
  [[0], [1], 6 :: toBytes 4 0] ++ namespaces.map (fun n => 6 :: toBytes 4 n) ++
    ((List.range pairs).map (fun i => [5 :: (toBytes 2 (i + 1) ++ toBytes 2 depth), 1 :: (toBytes 2 (i + 1) ++ toBytes 2 depth)])).flatten

/-- An NVMe port comes up (R367): arg.nums gives what Identify Controller reports, the limit of I/O queue pairs and the maximum queue size, and then
the active namespaces. -/
def State.nvmeUp (s : State) (port : Nat) : State :=
  let q := min 80 (s.arg.nums.getD 0 1)
  let d := min 256 (s.arg.nums.getD 1 2)
  { s with out := s.out ++ (nvmeBringUp (s.arg.nums.drop 2) q d).map (fun bytes => { kind := 11, port, bytes })
           hub := { s.hub with pairs := SMap.set 0 s.hub.pairs port q, depth := SMap.set 0 s.hub.depth port d } }

/-- Port arg.id finishes bring-up within one second, or its drive or MAC reports an error (R367). -/
def execPortBringupDone (s : State) : Res :=
  event s (s.hub.go && s.hub.todo.contains s.arg.id && decide (s.clock ≤ s.hub.goAt + oneSecond)) (fun s =>
    (if s.arg.ok ∧ s.arg.id < 8 then s.nvmeUp s.arg.id else s).portDone s.arg.id s.arg.ok)

/-- Port arg.id is not done within one second (R367). -/
def execPortBringupTimeout (s : State) : Res :=
  event s (s.hub.go && s.hub.todo.contains s.arg.id && decide (s.hub.goAt + oneSecond < s.clock)) (fun s => s.portDone s.arg.id false)

/-! ### Power (R443, R444) -/

/-- A cluster's supply sags: skipping starts at one edge in eight (R443). -/
def execSupplySag (s : State) : Res :=
  let c := s.arg.id
  event s (decide (c < Config.nClusters) && !s.power.sag.get false c) fun s =>
    { s with power := { s.power with
        sag := SMap.set false s.power.sag c true, skip := SMap.set 0 s.power.skip c (max 1 (s.power.skip.get 0 c))
        next := SMap.set 0 s.power.next c (s.clock + 64) } }

/-- A cluster's supply recovers (R443). -/
def execSupplyRecovers (s : State) : Res :=
  let c := s.arg.id
  event s (s.power.sag.get false c) fun s =>
    { s with power := { s.power with sag := SMap.set false s.power.sag c false, next := SMap.set 0 s.power.next c (s.clock + 64) } }

/-- Every 64 ticks the skip of cluster arg.id steps up to 4/8 in a sag, and down after it (R443). -/
def execSagSkipStep (s : State) : Res :=
  let c := s.arg.id
  let k := s.power.skip.get 0 c
  event s (k != 0 && decide (s.power.next.get 0 c ≤ s.clock)) fun s =>
    { s with power := { s.power with
        skip := SMap.set 0 s.power.skip c (if s.power.sag.get false c then min 4 (k + 1) else k - 1)
        next := SMap.set 0 s.power.next c (s.clock + 64) } }

/-- The eighths of clock edges that a cluster skips (R444). -/
def State.skipOf (s : State) (c : Nat) : Nat := max (s.power.skip.get 0 c) s.power.capSkip

/-- Each millisecond the average power arg.x is held against the cap (R444): how much is then skipped is the firmware's choice. -/
def execPowerCapEval (s : State) : Res :=
  event s (decide (s.power.evalAt + 1250000 ≤ s.clock)) fun s =>
    let k := if s.hub.pwrcap < s.arg.x then 1 + (s.free 6000).toNat % 4 else 0
    { s with power := { s.power with capSkip := k, evalAt := s.clock }, hub := { s.hub with cap := k != 0 } }

/-! ### PLDM (R446) -/

/-- Read sensor arg.id: DEVSTAT is number 0, and 1 to 13 are the error counters, which the side-band reads too (R433); power and temperatures are
the outside's. -/
def execPldmGetSensor (s : State) : Res :=
  let bytes := if s.arg.id = 0 then toBytes 4 s.hub.devstat
    else if s.arg.id ≤ 13 then toBytes 8 (s.bar0Read (0x200000 + 8 * (s.arg.id - 1)))
    else toBytes 4 (s.free (7000 + s.arg.id)).toNat
  .next { s with out := s.out ++ [{ kind := 1, bytes }] }

/-- The power cap effecter (R444, R446). -/
def execPldmSetPowerCap (s : State) : Res := .next (s.setCap s.arg.x)

/-- The warm reset effecter (R446): the reset has to be announced first (R366); while a PCIe reset is in progress the request merges into it. -/
def execPldmWarmReset (s : State) : Res :=
  event s (!s.hub.inReset && s.hub.resetAt.isNone && !s.hub.resetAsked) (fun s => { s with hub := { s.hub with resetAsked := true } })

/-- Firmware image arg.bytes of stage arg.id, 0 security, 1 management, 2 front-end, is staged for the next reset (R422, R446). -/
def execPldmFirmwareUpdate (s : State) : Res :=
  event s (decide (s.arg.id < 3)) (fun s => { s with nvm := { s.nvm with staged := SMap.set none s.nvm.staged s.arg.id (some s.arg.bytes) } })

/-! ### Peers (R218, R234, R445) -/

/-- The device kernel writes arg.x to STATE of peer arg.id (R445). -/
def execPeerStateWrite (s : State) : Res := event s (decide (s.arg.id < 256)) (fun s => s.setPeer s.arg.id s.arg.x)

/-- The addresses of a peer that a command's outstanding writes have still to reach. -/
def EngCmd.unsent (s : State) (p : Nat) (c : EngCmd) : List Nat :=
  (s.accs.filter (fun a => a.job == some c.id && onPeer a.loc && peerOf a.loc == p)).filterMap (fun a =>
    (c.trs.find? (fun e => decide (e.2.loc (e.1 * 2 ^ 16) ≤ a.loc ∧ a.loc < e.2.loc (e.1 * 2 ^ 16) + 2 ^ 16))).map (fun e =>
      e.1 * 2 ^ 16 + (a.loc - e.2.loc (e.1 * 2 ^ 16))))

/-- The link of a peer goes down under a command: what it has not transferred is dropped, and it ends with the first address of that (R306). -/
def State.cutOff (s : State) (p : Nat) (c : EngCmd) : State :=
  match c.unsent s p with
  | [] => s
  | v :: vs => ({ s with accs := s.accs.filter (fun a => !(a.job == some c.id && onPeer a.loc && peerOf a.loc == p)) } : State).cmdLost c (vs.foldl min v)

/-- Peer arg.id has been silent for 1,250,000 ticks (R234, R445): its writes not yet performed are discarded and counted, this device's commands to it end,
and every Prefect is told. -/
def execLinkDown (s : State) : Res :=
  let p := s.arg.id
  match s.peerSeen.get none p with
  | none => .next s
  | some (_, t) =>
    event s (s.peerUp p && decide (t + 1250000 ≤ s.clock)) fun s =>
      let lost := (s.accs.filter (fun a => a.peer == some p && a.isWrite)).length
      let e := s.peers.get {} p
      let n := min (e.discards + lost) (2 ^ 64 - 1)
      let s : State := { s with
        accs := s.accs.filter (fun a => a.peer != some p), peerSeen := SMap.set none s.peerSeen p none
        peers := SMap.set {} s.peers p { e with state := 2, discards := n } }
      let s := s.cmds.foldl (fun s c => s.cutOff p c) s
      (List.range Config.nClusters).foldl (fun s q =>
        s.sendWire 255 q false 0 (message 3 0xFF 0 0 0 (toBytes 8 p ++ toBytes 8 n))) s

/-- The peer has sent something (R234). -/
def State.heard (s : State) (p : Nat) : State :=
  { s with peerSeen := SMap.set none s.peerSeen p ((s.peerSeen.get none p).map (fun e => (e.1, s.clock))) }

/-- An access of peer arg.id to this device's local HBM (R218): a write is outstanding until it performs, and what a load or atomic returns leaves the
device. -/
def execPeerDeviceAccess (s : State) : Res :=
  let p := s.arg.id
  let sys : Dom := { scope := 5, id := 0 }
  let inHbm (a n : Nat) : Bool := decide (a + n ≤ Config.reservedBase)
  let say (s : State) (bs : List Byte) : State := { s with out := s.out ++ [{ kind := 9, port := p, bytes := bs }] }
  event s (s.peerUp p) fun s =>
    let s := s.heard p
    match s.arg.access with
    | .load a n =>
      if inHbm a n then
        let (s, bs) := (pieces a n).foldl (fun ((s : State), (bs : List Byte)) (x, k) =>
          let (s, v, _) := s.peek {} x k
          (s, bs ++ toBytes k v)) (s, ([] : List Byte))
        say s bs
      else s
    | .store a bs =>
      if inHbm a bs.length then
        (pieces a bs.length).foldl (fun s (x, k) =>
          let (s, id) := s.fresh
          { s with accs := s.accs ++ [{ id, owner := none, op := .store ((bs.drop (x - a)).take k) false, loc := x, n := k, tick := s.clock
                                        org := sys, dst := destDom x, peer := some p }] }) s
      else s
    | .atomic a w sub op cmp =>
      if inHbm a w ∧ (w = 4 ∨ w = 8) ∧ a % w = 0 then
        let (s, old, src) := s.peek {} a w
        let s := if src.isSome then s else s.poke {} a (toBytes w (atomNew w sub old op cmp))
        say (s.wrote sys (destDom a) s.clock a) (toBytes w old)
      else s

/-! ### Scrub and repair (R428, R433 to R436) -/

/-- A corrected event is counted (R428, R433). -/
def State.corrected (s : State) (src : Nat) : State := { s with errCE := SMap.set 0 s.errCE src (min (s.errCE.get 0 src + 1) 0xFFFFFFFF) }

/-- A byte of a memory of the device is found in error: corrected, or its unit, all of a sector of HBM, is poisoned and logged with the kind of
the finding (R428, R434). -/
def State.memError (s : State) (l src kind : Nat) (ok : Bool) : State :=
  if (Config.hbmBytes ≤ l ∧ l < 2 ^ 60) ∨ 2 ^ 64 ≤ l then s
  else
    let s := s.rowEvent l ok
    if ok then s.corrected src
    else (if l < 2 ^ 60 then s.poisonRange (l / 32 * 32) 32 else s.poisonRange (l / 8 * 8) 8).logError src kind l

/-- A register of a context is found in error: its poison, when it is not corrected. -/
def State.regError (s : State) (c : CtxRef) (ok : Bool) (f : Ctx → Ctx) : State :=
  match s.ctx? c with
  | none => s
  | some g => if ok then s.corrected 0 else (s.modCtx c f).logError 0 0 g.regLoc

/-- Is there storage behind a key of `Regs.up`? S63, P7 and C7 are constants (R40). -/
def storedReg (k : Nat) : Bool := decide (k < 95) && k != 63 && k != 71 && k != 79

/-- A unit of a tile's storage is poisoned: an element, an 8-byte unit of its checksums and EXACT from 2048 on, or a carry H from 2241 on (R427). -/
def Tile.spoil (x : Tile) (elem : Nat) : Tile :=
  if elem < 2048 then { x with pois := SMap.set false x.pois elem true }
  else if elem < 2241 then { x with ckp := SMap.set false x.ckp (elem - 2048) true }
  else { x with hp := x.hp ||| maskOf [elem - 2241] }

/-- A unit of a team's accumulator memory is found in error: poisoned and logged, when it is not corrected. -/
def State.accError (s : State) (grid team : Nat) (ok : Bool) (there : Team → Bool) (f : Team → Team) : State :=
  if ok then s.corrected 2
  else match s.teams.find? (fun t => t.grid == grid && t.team == team) with
    | none => s
    | some t => if there t then (s.modTeam grid team f).logError 2 0 0 0 (some t.core) else s

/-- A read finds a stored bit in error, which poisons the 8-byte units it covers: of a vector register two neighbouring lanes, as in an image (R349),
of the others the registers that share a unit there (R427, R428, R433; log 96). -/
def State.ecc (s : State) (at_ : EccAt) (ok : Bool) : State :=
  match at_ with
  | .mem l onDie => s.memError l (if onDie && decide (l < 2 ^ 60) then 7 else Loc.source l) 0 ok
  | .vec c r l => s.regError c ok (fun g => if r < g.bound ∧ l < 32 then (g.poisonV r (l / 2 * 2)).poisonV r (l / 2 * 2 + 1) else g)
  | .reg c k => s.regError c ok (fun g => if storedReg k then
      { g with regs := { g.regs with up := ((List.range 95).filter (fun i => storedReg i && unitOfReg i == unitOfReg k)).foldl (fun m i => SMap.set false m i true) g.regs.up } }
      else g)
  | .acc grid team tile elem => s.accError grid team ok (fun t => decide (tile < t.tiles.length) && decide (elem < 2273)) (fun t =>
      { t with tiles := t.tiles.modify tile (fun x => x.spoil elem) })
  | .tab grid team k => s.accError grid team ok (fun _ => decide (k < 520)) (fun t => { t with tabBad := SMap.set false t.tabBad k true })
  | .fetch => if ok then s.corrected 6 else s
  | .nvm a =>
    if ok then s.corrected 10
    else ({ s with nvm := { s.nvm with training := s.nvm.training.modify a (fun _ => s.free (8000 + a)) } } : State).logError 10 0 a 0 (some 0)
  | .box p m => if ok then s.corrected 5 else ({ s with badMail := s.badMail ++ [(p, m)] } : State).logError 5 0 0 0 (some p)

/-- The patrol scrub finds an error at location arg.x: corrected when arg.ok (R428, R435). -/
def execPatrolScrub (s : State) : Res := .next (s.memError s.arg.x (Loc.source s.arg.x) 1 s.arg.ok)

/-- The management block appends a repair (R436): of the HBM row arg.x, once it has had 2 uncorrectable or 16 corrected events since the last reset; with arg.ok
false of another kind, arg.nums giving kind, unit, place and number. -/
def execRepairEntryAppend (s : State) : Res :=
  let n := s.arg.x
  let e : Repair :=
    if s.arg.ok then { kind := 1, unit := n % 16, place := n / 16 % 2 ^ 32, row := n / 2 ^ 36 }
    else { kind := s.arg.nums.getD 0 0, unit := s.arg.nums.getD 1 0, place := s.arg.nums.getD 2 0, row := s.arg.nums.getD 3 0 }
  let due := if s.arg.ok then decide (2 ≤ s.rowErr.get 0 (2 * n)) || decide (16 ≤ s.rowErr.get 0 (2 * n + 1)) else [2, 3, 4].contains e.kind
  event s (due && decide (s.nvm.repairs.length < 4096) && !s.nvm.repairs.contains e) fun s =>
    { s with nvm := { s.nvm with repairs := s.nvm.repairs ++ [e] } }

end Sys2Proof.Machine
end

