-- ==== Sys2Proof/Machine/Lanes.lean ====
section
/-! DEFINITION. Lane exchange, votes, matches, reductions and scans (R176 to R187). -/

namespace Sys2Proof.Machine

/-! ### Moving values (R179 to R181) -/

/-- SHFL (R179): lanes that it kills count as dead from the next instruction on (R185). -/
def execShfl (f : F3) (s : State) : Res :=
  issue (.shfl f) s fun t =>
    let g := s.g
    let val (l : Nat) : Nat := match shflPick f g l with | some (x, _) => g.aVal f f.ty.regs x | none => 0
    .done (putPred f.h f.x.toNat (fun l => (shflPick f g l).any (·.2)) (putRegs f.h f.d.toNat f.ty.regs val t))

/-- LANERD (R180). -/
def execLanerd (f : F3) (s : State) : Res :=
  issue (.lanerd f) s fun t =>
    let g := s.g
    let val := match lanerdLane f g with | some x => g.aVal f f.ty.regs x | none => 0
    .done (putPred f.h f.x.toNat (fun _ => (lanerdLane f g).isSome) (putRegs f.h f.d.toNat f.ty.regs (fun _ => val) t))

/-- LANEWR (R180). -/
def execLanewr (f : F3) (s : State) : Res :=
  issue (.lanewr f) s fun s =>
    let l := f.var.toNat
    if bit (s.g.exec f.h) l then .done (s.modG (fun g => g.wr false f.d.toNat l f.ty.regs (g.bVal f f.ty f.ty.regs l))) else .done s

/-- The eight nibbles that a selector picks (R181). -/
def permute (z sel : Nat) : Nat :=
  (List.range 8).foldl (fun a i => a + bitsAt z (4 * bitsAt sel (4 * i) 4) 4 * 2 ^ (4 * i)) 0

/-- PRMT (R181). -/
def execPrmt (f : F3) (s : State) : Res :=
  issue (.prmt f) s (putD f 1 (fun g l =>
    let own := f.var.getLsbD 0
    let b := if own then g.rd f.ub f.b.toNat l 1 else g.bVal f .b32 1 l
    let sel := if own then f.imm.toNat else g.xVal f 1 l
    let r := permute (g.aVal f 1 l + 2 ^ 32 * b) sel
    match f.var.toNat / 2 with
    | 0 => r
    | 1 => wrapTo 32 (signedOf 8 r)
    | 2 => wrapTo 32 (signedOf 16 r)
    | _ => wrapTo 32 (signedOf 24 r)))

/-! ### Votes and matches (R182, R183) -/

/-- VOTE (R182). -/
def execVote (f : F3) (s : State) : Res :=
  issue (.vote f) s fun s =>
    let e := s.g.exec f.h
    let v := (if f.var.getLsbD 2 then ~~~s.g.rdP f.a.toNat else s.g.rdP f.a.toNat) &&& e
    match f.var.toNat % 4 with
    | 0 => .done (putPred f.h f.d.toNat (fun _ => v == e) s)
    | 1 => .done (putPred f.h f.d.toNat (fun _ => v != 0) s)
    | 2 => .done (putPred f.h f.d.toNat (fun _ => v == e || v == 0) s)
    | _ => .done (putRegs f.h f.d.toNat 1 (fun _ => v.toNat) s)

/-- The lanes of EXEC that hold a lane's value (R183). -/
def peers (f : F3) (g : Ctx) (l : Nat) : List Nat :=
  (lanes (g.exec f.h)).filter (fun x => g.aVal f f.ty.regs x == g.aVal f f.ty.regs l)

/-- MATCH (R183). -/
def execMatch (f : F3) (s : State) : Res :=
  issue (.laneMatch f) s fun s =>
    let g := s.g
    let lead (l : Nat) : Nat := (peers f g l).headD l
    let val (l : Nat) : Nat :=
      match f.var.toNat with
      | 0 => lead l
      | 1 => (maskOf (peers f g l)).toNat
      | _ => ((peers f g l).filter (· < l)).length + 256 * (peers f g l).length
    let pr (l : Nat) : Bool := if f.var = 1 then maskOf (peers f g l) == g.exec f.h else lead l == l
    .done (putPred f.h f.x.toNat pr (putRegs f.h f.d.toNat 1 val s))

/-! ### Reductions and scans (R184) -/

/-- The identity of an operation (R184). -/
def redIdentity (t : Ty) (op : Nat) : Nat :=
  match op with
  | 0 => if t.isF then withSign (fmtOf t) true 0 else 0
  | 1 => if t.isF then (fmtOf t).infBits else wrapTo t.bits (tyMax t)
  | 2 => if t.isF then withSign (fmtOf t) true (fmtOf t).infBits else wrapTo t.bits (tyMin t)
  | 3 => 2 ^ t.bits - 1
  | _ => 0

/-- One combine of the tree (R184), with flags. -/
def redStep (f : F3) (g : Ctx) (a b : Nat) : Nat × Nat :=
  let t := f.ty
  let op := f.var.toNat % 8
  if t.isF then
    if op = 0 then fvAdd { f := fmtOf t, mode := f.rnd, ftz := ftzOn g t } (opF g t a).2 (opF g t b).2
    else fvMinMax (fmtOf t) (op == 1) false (opF g t a) (opF g t b)
  else
    (match op with
     | 0 => (a + b) % 2 ^ t.bits
     | 1 => wrapTo t.bits (min (valOf t a) (valOf t b))
     | 2 => wrapTo t.bits (max (valOf t a) (valOf t b))
     | 3 => a &&& b
     | 4 => a ||| b
     | _ => a ^^^ b, 0)

/-- The next level of the tree. -/
def nextLevel (c : Nat → Nat → Nat × Nat) : List (Nat × Nat) → List (Nat × Nat)
  | a :: b :: r => c a.1 b.1 :: nextLevel c r
  | r => r

/-- Levels 0 to 5 (R184). -/
def redTree (f : F3) (g : Ctx) : List (List (Nat × Nat)) :=
  let idn := redIdentity f.ty (f.var.toNat % 8)
  let l0 := (List.range 32).map (fun l => (if bit (g.exec f.h) l then g.aVal f f.ty.regs l else idn, 0))
  let c := redStep f g
  let l1 := nextLevel c l0
  let l2 := nextLevel c l1
  let l3 := nextLevel c l2
  let l4 := nextLevel c l3
  [l0, l1, l2, l3, l4, nextLevel c l4]

/-- prefix(m) (R184), from level k − 1 down. -/
def redPrefix (f : F3) (g : Ctx) (tree : List (List (Nat × Nat))) (m : Nat) : Nat → Nat → Nat × Nat → Nat × Nat
  | 0, _, acc => acc
  | k + 1, base, acc =>
    if m.testBit k then
      let nd := ((tree.getD k []).getD (base / 2 ^ k) (0, 0)).1
      let r := redStep f g acc.1 nd
      redPrefix f g tree m k (base + 2 ^ k) (r.1, acc.2 ||| r.2)
    else redPrefix f g tree m k base acc

/-- REDUX and SCANL: `m` is how many lanes a lane's result combines. -/
def reduceOp (f : F3) (m : Nat → Nat) (s : State) : Eff :=
  let tree := redTree f s.g
  let idn := redIdentity f.ty (f.var.toNat % 8)
  let r (l : Nat) : Nat × Nat := redPrefix f s.g tree (m l) 6 0 (idn, 0)
  let nodes := (tree.flatten).foldl (fun a n => a ||| n.2) 0
  .done ((putRegs f.h f.d.toNat f.ty.regs (fun l => (r l).1) s).raiseFlags
    (nodes ||| orFlags (actLanes s.g f.h) (fun l => (r l).2)))

/-- REDUX (R184). -/
def execRedux (f : F3) (s : State) : Res := issue (.redux f) s (reduceOp f (fun _ => 32))
/-- SCANL (R184). -/
def execScanl (f : F3) (s : State) : Res := issue (.scanl f) s (reduceOp f (fun l => if f.var.getLsbD 3 then l else l + 1))

end Sys2Proof.Machine
end

