-- ==== Sys2Proof/Machine/Dispatch.lean ====
section
/-! DEFINITION. One arm per row of the opcode table: its meaning. -/

namespace Sys2Proof.Machine

/-- The meaning of an instruction, or of a step of the machine's own, in a state. -/
def exec (i : Instr) (s : State) : Host.Outcome State Fault Refusal :=
  match i with
  | .nop f => Sys2Proof.Machine.execNop f s
  | .braDiv f => Sys2Proof.Machine.execBraDiv f s
  | .braAny f => Sys2Proof.Machine.execBraAny f s
  | .braAll f => Sys2Proof.Machine.execBraAll f s
  | .brc f => Sys2Proof.Machine.execBrc f s
  | .jmpi f => Sys2Proof.Machine.execJmpi f s
  | .call f => Sys2Proof.Machine.execCall f s
  | .calli f => Sys2Proof.Machine.execCalli f s
  | .ret f => Sys2Proof.Machine.execRet f s
  | .split f => Sys2Proof.Machine.execSplit f s
  | .join f => Sys2Proof.Machine.execJoin f s
  | .exit f => Sys2Proof.Machine.execExit f s
  | .yield f => Sys2Proof.Machine.execYield f s
  | .brk f => Sys2Proof.Machine.execBrk f s
  | .sigchk f => Sys2Proof.Machine.execSigchk f s
  | .sigset f => Sys2Proof.Machine.execSigset f s
  | .elect f => Sys2Proof.Machine.execElect f s
  | .iadd f => Sys2Proof.Machine.execIadd f s
  | .isub f => Sys2Proof.Machine.execIsub f s
  | .imul f => Sys2Proof.Machine.execImul f s
  | .imulh f => Sys2Proof.Machine.execImulh f s
  | .imad f => Sys2Proof.Machine.execImad f s
  | .imadWide f => Sys2Proof.Machine.execImadWide f s
  | .idiv f => Sys2Proof.Machine.execIdiv f s
  | .irem f => Sys2Proof.Machine.execIrem f s
  | .imin f => Sys2Proof.Machine.execImin f s
  | .imax f => Sys2Proof.Machine.execImax f s
  | .iabs f => Sys2Proof.Machine.execIabs f s
  | .icmp f => Sys2Proof.Machine.execIcmp f s
  | .andB f => Sys2Proof.Machine.execAnd f s
  | .orB f => Sys2Proof.Machine.execOr f s
  | .xor f => Sys2Proof.Machine.execXor f s
  | .andn f => Sys2Proof.Machine.execAndn f s
  | .shl f => Sys2Proof.Machine.execShl f s
  | .shr f => Sys2Proof.Machine.execShr f s
  | .sar f => Sys2Proof.Machine.execSar f s
  | .rotl f => Sys2Proof.Machine.execRotl f s
  | .popc f => Sys2Proof.Machine.execPopc f s
  | .clz f => Sys2Proof.Machine.execClz f s
  | .brev f => Sys2Proof.Machine.execBrev f s
  | .bfx f => Sys2Proof.Machine.execBfx f s
  | .bfi f => Sys2Proof.Machine.execBfi f s
  | .sel f => Sys2Proof.Machine.execSel f s
  | .mov f => Sys2Proof.Machine.execMov f s
  | .movi f => Sys2Proof.Machine.execMovi f s
  | .lea f => Sys2Proof.Machine.execLea f s
  | .iaddc f => Sys2Proof.Machine.execIaddc f s
  | .pset f => Sys2Proof.Machine.execPset f s
  | .iext f => Sys2Proof.Machine.execIext f s
  | .xacq f => Sys2Proof.Machine.execXacq f s
  | .xacqTry f => Sys2Proof.Machine.execXacqTry f s
  | .xrel f => Sys2Proof.Machine.execXrel f s
  | .ixrd f => Sys2Proof.Machine.execIxrd f s
  | .ixwr f => Sys2Proof.Machine.execIxwr f s
  | .fadd f => Sys2Proof.Machine.execFadd f s
  | .fsub f => Sys2Proof.Machine.execFsub f s
  | .fmul f => Sys2Proof.Machine.execFmul f s
  | .ffma f => Sys2Proof.Machine.execFfma f s
  | .fmin f => Sys2Proof.Machine.execFmin f s
  | .fmax f => Sys2Proof.Machine.execFmax f s
  | .fcmp f => Sys2Proof.Machine.execFcmp f s
  | .fdiv f => Sys2Proof.Machine.execFdiv f s
  | .fsqrt f => Sys2Proof.Machine.execFsqrt f s
  | .frcp f => Sys2Proof.Machine.execFrcp f s
  | .frsq f => Sys2Proof.Machine.execFrsq f s
  | .fex2 f => Sys2Proof.Machine.execFex2 f s
  | .flg2 f => Sys2Proof.Machine.execFlg2 f s
  | .ftanh f => Sys2Proof.Machine.execFtanh f s
  | .fsin f => Sys2Proof.Machine.execFsin f s
  | .fcos f => Sys2Proof.Machine.execFcos f s
  | .fscl f => Sys2Proof.Machine.execFscl f s
  | .fcls f => Sys2Proof.Machine.execFcls f s
  | .fcvt f => Sys2Proof.Machine.execFcvt f s
  | .icvf f => Sys2Proof.Machine.execIcvf f s
  | .fcvi f => Sys2Proof.Machine.execFcvi f s
  | .fpack f => Sys2Proof.Machine.execFpack f s
  | .funpk f => Sys2Proof.Machine.execFunpk f s
  | .fdot2 f => Sys2Proof.Machine.execFdot2 f s
  | .frnd f => Sys2Proof.Machine.execFrnd f s
  | .fclamp f => Sys2Proof.Machine.execFclamp f s
  | .shfl f => Sys2Proof.Machine.execShfl f s
  | .vote f => Sys2Proof.Machine.execVote f s
  | .laneMatch f => Sys2Proof.Machine.execMatch f s
  | .redux f => Sys2Proof.Machine.execRedux f s
  | .scanl f => Sys2Proof.Machine.execScanl f s
  | .lanerd f => Sys2Proof.Machine.execLanerd f s
  | .lanewr f => Sys2Proof.Machine.execLanewr f s
  | .prmt f => Sys2Proof.Machine.execPrmt f s
  | .ld f => Sys2Proof.Machine.execLd f s
  | .st f => Sys2Proof.Machine.execSt f s
  | .ldw f => Sys2Proof.Machine.execLdw f s
  | .ldk f => Sys2Proof.Machine.execLdk f s
  | .tld f => Sys2Proof.Machine.execTld f s
  | .tst f => Sys2Proof.Machine.execTst f s
  | .ldlk f => Sys2Proof.Machine.execLdlk f s
  | .stul f => Sys2Proof.Machine.execStul f s
  | .atom f => Sys2Proof.Machine.execAtom f s
  | .atomc f => Sys2Proof.Machine.execAtomc f s
  | .wmrgMrg f => Sys2Proof.Machine.execWmrgMrg f s
  | .wmrgGet f => Sys2Proof.Machine.execWmrgGet f s
  | .wmrgPut f => Sys2Proof.Machine.execWmrgPut f s
  | .wmark f => Sys2Proof.Machine.execWmark f s
  | .wwait f => Sys2Proof.Machine.execWwait f s
  | .wtest f => Sys2Proof.Machine.execWtest f s
  | .wnow f => Sys2Proof.Machine.execWnow f s
  | .binit f => Sys2Proof.Machine.execBinit f s
  | .binitNow f => Sys2Proof.Machine.execBinitNow f s
  | .barr f => Sys2Proof.Machine.execBarr f s
  | .bwait f => Sys2Proof.Machine.execBwait f s
  | .bsync f => Sys2Proof.Machine.execBsync f s
  | .barrm f => Sys2Proof.Machine.execBarrm f s
  | .mwait f => Sys2Proof.Machine.execMwait f s
  | .wait f => Sys2Proof.Machine.execWait f s
  | .sleep f => Sys2Proof.Machine.execSleep f s
  | .macq f => Sys2Proof.Machine.execMacq f s
  | .macqTry f => Sys2Proof.Machine.execMacqTry f s
  | .mrel f => Sys2Proof.Machine.execMrel f s
  | .mzero f => Sys2Proof.Machine.execMzero f s
  | .mma f => Sys2Proof.Machine.execMma f s
  | .mlda f => Sys2Proof.Machine.execMlda f s
  | .msta f => Sys2Proof.Machine.execMsta f s
  | .mdrn f => Sys2Proof.Machine.execMdrn f s
  | .mtab f => Sys2Proof.Machine.execMtab f s
  | .mcls f => Sys2Proof.Machine.execMcls f s
  | .mchk f => Sys2Proof.Machine.execMchk f s
  | .mafm f => Sys2Proof.Machine.execMafm f s
  | .mgain f => Sys2Proof.Machine.execMgain f s
  | .mset f => Sys2Proof.Machine.execMset f s
  | .mscan f => Sys2Proof.Machine.execMscan f s
  | .mcryGet f => Sys2Proof.Machine.execMcryGet f s
  | .mcryPut f => Sys2Proof.Machine.execMcryPut f s
  | .mcryUfg f => Sys2Proof.Machine.execMcryUfg f s
  | .mcryUfc f => Sys2Proof.Machine.execMcryUfc f s
  | .cpyMove f => Sys2Proof.Machine.execCpyMove f s
  | .cpyGath f => Sys2Proof.Machine.execCpyGath f s
  | .cpyScat f => Sys2Proof.Machine.execCpyScat f s
  | .cpyFill f => Sys2Proof.Machine.execCpyFill f s
  | .scn f => Sys2Proof.Machine.execScn f s
  | .cpqLast f => Sys2Proof.Machine.execCpqLast f s
  | .cpqQry f => Sys2Proof.Machine.execCpqQry f s
  | .cpqCan f => Sys2Proof.Machine.execCpqCan f s
  | .cpqCanall f => Sys2Proof.Machine.execCpqCanall f s
  | .rsmp f => Sys2Proof.Machine.execRsmp f s
  | .linrd f => Sys2Proof.Machine.execLinrd f s
  | .rngsSet f => Sys2Proof.Machine.execRngsSet f s
  | .rngsGetk f => Sys2Proof.Machine.execRngsGetk f s
  | .rngsGetn f => Sys2Proof.Machine.execRngsGetn f s
  | .rng f => Sys2Proof.Machine.execRng f s
  | .popq f => Sys2Proof.Machine.execPopq f s
  | .launch f => Sys2Proof.Machine.execLaunch f s
  | .wpush f => Sys2Proof.Machine.execWpush f s
  | .wpop f => Sys2Proof.Machine.execWpop f s
  | .wdone f => Sys2Proof.Machine.execWdone f s
  | .dlchk f => Sys2Proof.Machine.execDlchk f s
  | .trap f => Sys2Proof.Machine.execTrap f s
  | .tret f => Sys2Proof.Machine.execTret f s
  | .srget f => Sys2Proof.Machine.execSrget f s
  | .srset f => Sys2Proof.Machine.execSrset f s
  | .srsetRmapent f => Sys2Proof.Machine.execSrsetRmapent f s
  | .srsetAsnroot f => Sys2Proof.Machine.execSrsetAsnroot f s
  | .srsetHubdata f => Sys2Proof.Machine.execSrsetHubdata f s
  | .srgetHubdata f => Sys2Proof.Machine.execSrgetHubdata f s
  | .resumeLanes f => Sys2Proof.Machine.execResumeLanes f s
  | .resumeLog f => Sys2Proof.Machine.execResumeLog f s
  | .trqpop f => Sys2Proof.Machine.execTrqpop f s
  | .ctxsv f => Sys2Proof.Machine.execCtxsv f s
  | .ctxld f => Sys2Proof.Machine.execCtxld f s
  | .gkillGrp f => Sys2Proof.Machine.execGkillGrp f s
  | .gkillTeam f => Sys2Proof.Machine.execGkillTeam f s
  | .gkillGrid f => Sys2Proof.Machine.execGkillGrid f s
  | .haltgHalt f => Sys2Proof.Machine.execHaltgHalt f s
  | .haltgGo f => Sys2Proof.Machine.execHaltgGo f s
  | .haltgAtt f => Sys2Proof.Machine.execHaltgAtt f s
  | .haltgDet f => Sys2Proof.Machine.execHaltgDet f s
  | .haltgRel f => Sys2Proof.Machine.execHaltgRel f s
  | .icsync f => Sys2Proof.Machine.execIcsync f s
  | .park f => Sys2Proof.Machine.execPark f s
  | .worldSet f => Sys2Proof.Machine.execWorldSet f s
  | .worldGet f => Sys2Proof.Machine.execWorldGet f s
  | .tlbinvPage f => Sys2Proof.Machine.execTlbinvPage f s
  | .tlbinvAsn f => Sys2Proof.Machine.execTlbinvAsn f s
  | .tlbinvAll f => Sys2Proof.Machine.execTlbinvAll f s
  | .msgsnd f => Sys2Proof.Machine.execMsgsnd f s
  | .msgrcv f => Sys2Proof.Machine.execMsgrcv f s
  | .iosubNvme f => Sys2Proof.Machine.execIosubNvme f s
  | .iosubTx f => Sys2Proof.Machine.execIosubTx f s
  | .iosubRx f => Sys2Proof.Machine.execIosubRx f s
  | .iopoll f => Sys2Proof.Machine.execIopoll f s
  | .keyopWset f => Sys2Proof.Machine.execKeyopWset f s
  | .keyopKset f => Sys2Proof.Machine.execKeyopKset f s
  | .keyopKdel f => Sys2Proof.Machine.execKeyopKdel f s
  | .keyopBset f => Sys2Proof.Machine.execKeyopBset f s
  | .keyopSweep f => Sys2Proof.Machine.execKeyopSweep f s
  | .keyopSqry f => Sys2Proof.Machine.execKeyopSqry f s
  | .keyopMext f => Sys2Proof.Machine.execKeyopMext f s
  | .keyopMrd f => Sys2Proof.Machine.execKeyopMrd f s
  | .udf bits => Sys2Proof.Machine.execUdf bits s
  | .yieldWindowEnd => Sys2Proof.Machine.execYieldWindowEnd s
  | .xacqGrant => Sys2Proof.Machine.execXacqGrant s
  | .ldlkRetry => Sys2Proof.Machine.execLdlkRetry s
  | .storePerform => Sys2Proof.Machine.execStorePerform s
  | .loadDataReturn => Sys2Proof.Machine.execLoadDataReturn s
  | .peerLoadReturn => Sys2Proof.Machine.execPeerLoadReturn s
  | .operandLogReplay => Sys2Proof.Machine.execOperandLogReplay s
  | .deliveredCauseTaken => Sys2Proof.Machine.execDeliveredCauseTaken s
  | .lineFetch => Sys2Proof.Machine.execLineFetch s
  | .groupPromotion => Sys2Proof.Machine.execGroupPromotion s
  | .witnessSatisfiedWake => Sys2Proof.Machine.execWitnessSatisfiedWake s
  | .horizonExchange => Sys2Proof.Machine.execHorizonExchange s
  | .horizonValueReceive => Sys2Proof.Machine.execHorizonValueReceive s
  | .linkDown => Sys2Proof.Machine.execLinkDown s
  | .bellWake => Sys2Proof.Machine.execBellWake s
  | .mwaitRecheck => Sys2Proof.Machine.execMwaitRecheck s
  | .mwaitIntervalExpiry => Sys2Proof.Machine.execMwaitIntervalExpiry s
  | .sleepWake => Sys2Proof.Machine.execSleepWake s
  | .macqGrant => Sys2Proof.Machine.execMacqGrant s
  | .deadlockReport => Sys2Proof.Machine.execDeadlockReport s
  | .candidatePassClose => Sys2Proof.Machine.execCandidatePassClose s
  | .passStart => Sys2Proof.Machine.execPassStart s
  | .passRetire => Sys2Proof.Machine.execPassRetire s
  | .tilePortOpComplete => Sys2Proof.Machine.execTilePortOpComplete s
  | .drainComplete => Sys2Proof.Machine.execDrainComplete s
  | .copyCommandStart => Sys2Proof.Machine.execCopyCommandStart s
  | .copyCommandComplete => Sys2Proof.Machine.execCopyCommandComplete s
  | .ycContinue => Sys2Proof.Machine.execYcContinue s
  | .scnComplete => Sys2Proof.Machine.execScnComplete s
  | .rsmpCollectiveReady => Sys2Proof.Machine.execRsmpCollectiveReady s
  | .rsmpComplete => Sys2Proof.Machine.execRsmpComplete s
  | .wpopWake => Sys2Proof.Machine.execWpopWake s
  | .feedQueueDisable => Sys2Proof.Machine.execFeedQueueDisable s
  | .feedQueueEnable => Sys2Proof.Machine.execFeedQueueEnable s
  | .trapRecordAdmit => Sys2Proof.Machine.execTrapRecordAdmit s
  | .haltTakesEffect => Sys2Proof.Machine.execHaltTakesEffect s
  | .sliceExpiry => Sys2Proof.Machine.execSliceExpiry s
  | .forcedlyExpiry => Sys2Proof.Machine.execForcedlyExpiry s
  | .tlbinvSweepDone => Sys2Proof.Machine.execTlbinvSweepDone s
  | .messageArrive => Sys2Proof.Machine.execMessageArrive s
  | .prefect0Start => Sys2Proof.Machine.execPrefect0Start s
  | .bootTimeout => Sys2Proof.Machine.execBootTimeout s
  | .ioBufferDispatch => Sys2Proof.Machine.execIoBufferDispatch s
  | .ioCommandComplete => Sys2Proof.Machine.execIoCommandComplete s
  | .rxFrame => Sys2Proof.Machine.execRxFrame s
  | .iocfgGo => Sys2Proof.Machine.execIocfgGo s
  | .portBringupDone => Sys2Proof.Machine.execPortBringupDone s
  | .portBringupTimeout => Sys2Proof.Machine.execPortBringupTimeout s
  | .report => Sys2Proof.Machine.execReport s
  | .note => Sys2Proof.Machine.execNote s
  | .resetpend => Sys2Proof.Machine.execResetpend s
  | .capset => Sys2Proof.Machine.execCapset s
  | .sweepLine => Sys2Proof.Machine.execSweepLine s
  | .sweepComplete => Sys2Proof.Machine.execSweepComplete s
  | .keyMissLoad => Sys2Proof.Machine.execKeyMissLoad s
  | .securityRingRequest => Sys2Proof.Machine.execSecurityRingRequest s
  | .getVersion => Sys2Proof.Machine.execGetVersion s
  | .getCapabilities => Sys2Proof.Machine.execGetCapabilities s
  | .negotiateAlgorithms => Sys2Proof.Machine.execNegotiateAlgorithms s
  | .getDigests => Sys2Proof.Machine.execGetDigests s
  | .getCertificate => Sys2Proof.Machine.execGetCertificate s
  | .challenge => Sys2Proof.Machine.execChallenge s
  | .getMeasurements => Sys2Proof.Machine.execGetMeasurements s
  | .spdmUnsupportedRequest => Sys2Proof.Machine.execSpdmUnsupportedRequest s
  | .pldmGetSensor => Sys2Proof.Machine.execPldmGetSensor s
  | .pldmSetPowerCap => Sys2Proof.Machine.execPldmSetPowerCap s
  | .pldmWarmReset => Sys2Proof.Machine.execPldmWarmReset s
  | .pldmFirmwareUpdate => Sys2Proof.Machine.execPldmFirmwareUpdate s
  | .auxPowerReset => Sys2Proof.Machine.execAuxPowerReset s
  | .warmReset => Sys2Proof.Machine.execWarmReset s
  | .supplySag => Sys2Proof.Machine.execSupplySag s
  | .sagSkipStep => Sys2Proof.Machine.execSagSkipStep s
  | .pwrcapWrite => Sys2Proof.Machine.execPwrcapWrite s
  | .powerCapEval => Sys2Proof.Machine.execPowerCapEval s
  | .peerStateWrite => Sys2Proof.Machine.execPeerStateWrite s
  | .bar4Read => Sys2Proof.Machine.execBar4Read s
  | .bar4Write => Sys2Proof.Machine.execBar4Write s
  | .bar0RegisterWrite => Sys2Proof.Machine.execBar0RegisterWrite s
  | .kick => Sys2Proof.Machine.execKick s
  | .notifyWordWrite => Sys2Proof.Machine.execNotifyWordWrite s
  | .qctlCreate => Sys2Proof.Machine.execQctlCreate s
  | .qctlDestroy => Sys2Proof.Machine.execQctlDestroy s
  | .qctlResume => Sys2Proof.Machine.execQctlResume s
  | .frontendEvent => Sys2Proof.Machine.execFrontendEvent s
  | .packetNop => Sys2Proof.Machine.execPacketNop s
  | .packetLaunch => Sys2Proof.Machine.execPacketLaunch s
  | .packetPush => Sys2Proof.Machine.execPacketPush s
  | .gangPlacement => Sys2Proof.Machine.execGangPlacement s
  | .placementHoldExpiry => Sys2Proof.Machine.execPlacementHoldExpiry s
  | .groupEnd => Sys2Proof.Machine.execGroupEnd s
  | .patrolScrub => Sys2Proof.Machine.execPatrolScrub s
  | .repairEntryAppend => Sys2Proof.Machine.execRepairEntryAppend s
  | .callAlloc => Sys2Proof.Machine.execCallAlloc s
  | .callFree => Sys2Proof.Machine.execCallFree s
  | .callOpen => Sys2Proof.Machine.execCallOpen s
  | .callClose => Sys2Proof.Machine.execCallClose s
  | .callRead => Sys2Proof.Machine.execCallRead s
  | .callWrite => Sys2Proof.Machine.execCallWrite s
  | .callSocket => Sys2Proof.Machine.execCallSocket s
  | .callSend => Sys2Proof.Machine.execCallSend s
  | .callRecv => Sys2Proof.Machine.execCallRecv s
  | .recvTimeout => Sys2Proof.Machine.execRecvTimeout s
  | .reply => Sys2Proof.Machine.execReply s
  | .faultService => Sys2Proof.Machine.execFaultService s
  | .escalateKillPolicy => Sys2Proof.Machine.execEscalateKillPolicy s
  | .restoreRetry => Sys2Proof.Machine.execRestoreRetry s
  | .pendingWriteComplete => Sys2Proof.Machine.execPendingWriteComplete s
  | .peerDeviceAccess => Sys2Proof.Machine.execPeerDeviceAccess s
  | .supplyRecovers => Sys2Proof.Machine.execSupplyRecovers s
  | .descriptorRead => Sys2Proof.Machine.execDescriptorRead s
  | .gridDependenciesSatisfied => Sys2Proof.Machine.execGridDependenciesSatisfied s

end Sys2Proof.Machine
end

