-- ==== Sys2Proof/Machine/Turns.lean ====
section
/-! DEFINITION. Whose turn it is: the machine's own steps that are due, the next instruction of a context (R31 to R37, R103, R104), the choice of
the issue slots (R19, R102), and a program of one instruction in place. -/

namespace Sys2Proof

/-- Is a constructor a step of the machine's own? -/
def Instr.isEvent (i : Instr) : Bool := i.shape.op == 0x100

namespace Machine

/-! ### Steps of the machine's own -/

/-- What may be due of a context: results, waits, halts, slices, its end. -/
def Ctx.turns (clock : Nat) (g : Ctx) : List (Instr × EvArg) :=
  let c := g.ids.ref
  let d := g.sched
  let w := g.wait
  let on (b : Bool) (i : Instr) (id : Nat) : List (Instr × EvArg) := if b then [(i, { c, id })] else []
  let waits := w.kind != 0 && !w.sat
  (g.pend.map (fun p => on true (match p.kind with
    | .load => .loadDataReturn
    | .peer => .peerLoadReturn
    | _ => if g.isSys && !p.ready && !p.store then .tlbinvSweepDone else .pendingWriteComplete) p.id)).flatten ++
  on (g.log.any (·.state == 2)) .operandLogReplay 0 ++
  on (waits && w.kind == 1) .bellWake 0 ++ on (waits && w.kind == 2) .wpopWake w.addr ++ on (waits && w.kind == 2) .feedQueueDisable w.addr ++
  on (waits && (w.kind == 3 || w.kind == 5)) .witnessSatisfiedWake 0 ++ on (waits && w.kind == 5 && d.recheck) .mwaitRecheck 0 ++
  on (waits && w.kind == 5 && d.watch.isSome && decide (d.recheckAt ≤ clock)) .mwaitIntervalExpiry 0 ++
  on (waits && w.kind == 7) .xacqGrant g.ids.core ++ on (waits && w.kind == 7) .macqGrant g.ids.core ++
  on (waits && w.kind == 7) .deadlockReport g.ids.core ++ on (waits && w.kind == 8) .ycContinue 0 ++ on (waits && w.kind == 10) .sleepWake 0 ++
  on d.yieldUntil.isSome .yieldWindowEnd 0 ++ on d.haltReq .haltTakesEffect 0 ++ on d.expiry .forcedlyExpiry 0 ++
  on (!g.isSys && decide (d.sliceEnd ≤ clock)) .sliceExpiry 0 ++ on (d.finalWait && !d.ended) .groupEnd 0 ++
  on (!g.isSys && decide (224 ≤ d.waited)) .groupPromotion 0

namespace State

/-- What may be due of the units of the device. -/
def unitTurns (s : State) : List (Instr × EvArg) :=
  let ev (i : Instr) (ids : List Nat) : List (Instr × EvArg) := ids.map (fun id => (i, { id }))
  ev .storePerform ((s.accs.filter (·.isWrite)).map (·.id) ++ s.tiles.map (·.id)) ++
  ev .keyMissLoad (((s.accs.map (·.crypt) ++ s.tiles.map (·.crypt)).filter s.keyAway).map (fun c => c.world * 128 + c.key)) ++
  ev .candidatePassClose (s.cands.map (·.id)) ++ ev .passRetire (s.passes.map (·.core)) ++ ev .passStart (s.cands.map (·.core)) ++
  ev .tilePortOpComplete (s.mxq.map (·.id)) ++ ev .drainComplete (s.mxq.map (·.id)) ++
  ev .copyCommandStart (s.cmds.map (·.core)) ++ ev .copyCommandComplete (s.cmds.map (·.id)) ++ ev .scnComplete (s.cmds.map (·.id)) ++
  ev .rsmpCollectiveReady (s.arrivals.map (·.gid)) ++ ev .rsmpComplete (s.arrivals.map (·.gid)) ++
  ev .messageArrive (s.wires.map (·.id)) ++
  (s.saved.filter (fun v => s.restoreDue v.cluster v)).map (fun v =>
    (Instr.restoreRetry, { c := (v.ctxs.head?.map (·.1.ids.ref)).getD .secure, id := v.cluster })) ++
  ev .notifyWordWrite s.front.notified ++
  ev .trapRecordAdmit ((List.range s.prefs.length).filter (fun p => !(s.pref p).posted.isEmpty)) ++
  ev .descriptorRead ((s.grids.filter (·.phase == 0)).map (·.gid)) ++
  ev .gridDependenciesSatisfied ((s.grids.filter (·.phase == 1)).map (·.gid)) ++
  ev .gangPlacement ((s.grids.filter (·.waiting)).map (·.gid)) ++ ev .placementHoldExpiry ((s.grids.filter (·.blockedAt.isSome)).map (·.gid)) ++
  ev .ioBufferDispatch (s.iocmds.map (·.id)) ++
  ev .keyMissLoad (s.sweeps.map (fun w => s.bufKey w.buf)) ++ ev .sweepLine (s.sweeps.map (·.id)) ++ ev .sweepComplete (s.sweeps.map (·.id)) ++
  ev .qctlCreate (s.front.events.map (·.q)) ++ ev .qctlDestroy (s.front.events.map (·.q)) ++ ev .qctlResume (s.front.events.map (·.q)) ++
  ev .frontendEvent (s.front.events.map (·.q)) ++
  (let mapped := (s.front.budget.map (·.1)); ev .packetNop mapped ++ ev .packetLaunch mapped ++ ev .packetPush mapped ++ ev .frontendEvent mapped) ++
  (if s.front.pendSince.isEmpty then [] else ev .frontendEvent [1024]) ++
  (if s.hub.inbound.isEmpty then [] else ev .report [0] ++ ev .note [0]) ++
  (if s.hub.resetAsked then ev .resetpend [0] else []) ++ (if s.hub.announce.isSome then ev .capset [0] else []) ++
  ev .deadlockReport (s.deadAt.map (·.1)) ++ ev .portBringupTimeout s.hub.todo ++ ev .sagSkipStep (s.power.skip.map (·.1)) ++ ev .linkDown (s.peerSeen.map (·.1)) ++
  (if s.lastExchange + 256 ≤ s.clock then ev .horizonExchange [0] else [])

/-- Does a step of the machine's own change anything now? -/
def due (s : State) (e : Instr × EvArg) : Bool :=
  match exec e.1 { s with arg := e.2 } with
  | .next t => decide (t ≠ { s with arg := e.2 })
  | _ => false

/-- The first step of the machine's own that is due, in the model's order (DESIGN CHOICE, log 1). -/
def auto (s : State) : Option (Instr × EvArg) := (s.unitTurns ++ (s.ctxs.map (Ctx.turns s.clock)).flatten).find? s.due

/-! ### The next instruction of a context (R31 to R37, R103) -/

/-- The line of a context's next instruction: the one in hand, or fetched now (R103, R104). -/
def lineOf (s : State) (g : Ctx) : Except Nat (State × BitVec 512 × Bool) :=
  let pc := g.flow.pc
  match g.flow.line with
  | some (a, d) => if a ≤ pc ∧ pc < a + 64 then .ok (s, d, true) else s.fetchLine g pc
  | none => s.fetchLine g pc

/-- Where the line of a context's next instruction lies; its own address when that does not translate. -/
def fetchedAt (s : State) (g : Ctx) : Nat :=
  let a := g.flow.pc / 64 * 64
  match s.lookup [] 0 g.cluster (if g.isSys then 0 else g.ids.asn) a with
  | some t => t.loc a
  | none => a

/-- The second instruction of a pair that the context's first one has issued in this clock: its address. -/
def mateOf (s : State) (g : Ctx) : Option Nat := (s.chosen.find? (fun h => h.c == g.ids.ref && h.mate.isSome)).bind (·.mate)

end State

/-- The instruction of a slot, if the line word and the slot are well-formed (R35, R62). -/
def slotInstr (d : BitVec 512) (k : Nat) : Option Instr := if bitsAt d.toNat 9 7 = 0 then (decode (lineSlot d k)).toOption else none

/-- The engine class of an instruction (R60). -/
def engineOf (i : Instr) : EClass := classOf i.shape.op i.shape.hdr.y

/-- Instructions of a blocking point of R22 outside the control class. A load that turns out to be from a peer is none of them (DEDUCED, log 93). -/
def blockingInstr (i : Instr) : Bool :=
  match i with
  | .ldw _ | .xacq _ | .macq _ => true
  | .tld f => f.wi != 15
  | .cpyMove f | .cpyGath f | .cpyScat f | .cpyFill f => f.yc
  | _ => false

/-- The registers an instruction writes, those that no field names too (R152). -/
def writesOf (g : Ctx) (i : Instr) : List Reg :=
  match i with
  | .ixwr f => (lanes (g.exec f.h)).map (fun l => .v (ixIndex f g l))
  | _ => i.shape.writes

/-- The registers an instruction reads or writes, those that no field names too (R153). -/
def usesOf (g : Ctx) (i : Instr) : List Reg :=
  match i with
  | .ixrd f => i.shape.regs ++ (lanes (g.exec f.h)).map (fun l => .v (ixIndex f g l))
  | _ => i.shape.regs ++ writesOf g i

/-- May two instructions of neighbouring slots issue as a pair (R37, 1 to 5)? Decode faults are checks 2 to 6 of R62 (DEDUCED, log 93). -/
def legalPair (g : Ctx) (i j : Instr) : Bool :=
  engineOf i != .control && engineOf j != .control && !blockingInstr i && !blockingInstr j && (engineOf i != engineOf j || engineOf i == .integer) &&
  !(i.shape.hdr.y && j.shape.hdr.y) && !(writesOf g i).any (fun r => !Ctx.constReg r && (usesOf g j).contains r) &&
  (staticCheck i g).isNone && (staticCheck j g).isNone

/-- What a pairing bit makes of an instruction (R20, R37): it issues alone, as one that was asked to pair and cannot, or with a partner. -/
inductive Pairing where
  | alone
  | split
  | pair (j : Instr)
  deriving DecidableEq, Repr

namespace State

/-- The pairing of the context's next slot in line `d` (R37): pairs are formed from left to right, and a slot that is no instruction is in none. -/
def pairing (s : State) (g : Ctx) (d : BitVec 512) : Pairing :=
  let k := slotIx g.flow.pc
  if 4 ≤ k || !d.getLsbD (5 + k) then .alone
  else if s.mateOf g = some g.flow.pc then .split
  else match slotInstr d k, slotInstr d (k + 1) with
    | some i, some j => if legalPair g i j then .pair j else .split
    | _, _ => .split

/-- The next slot of a context, as an instruction if it is one, with its pairing; none when its address or its line faults. -/
def coming (s : State) (g : Ctx) : Option (Option Instr × Pairing) :=
  if slotAddr g.flow.pc then
    match s.lineOf g with
    | .ok (_, d, true) => some (slotInstr d (slotIx g.flow.pc), s.pairing g d)
    | _ => none
  else none

/-- What would issue at once: one instruction, a legal pair, or nothing but a fault. -/
def issues (s : State) (g : Ctx) : List Instr :=
  match s.coming g with
  | some (some i, .pair j) => [i, j]
  | some (some i, _) => [i]
  | _ => []

/-! ### Running an instruction (R31 to R37, R62) -/

/-- Does a word name an opcode that the context has not got: one that is not assigned, UDF, one a system core does not implement (R58, R59, R362)? -/
def noOp (g : Ctx) (w : Slot) : Bool :=
  let op := w.toNat / 2 ^ 88
  !assigned op || op == 0xFF || (g.isSys && noSysOp op)

/-- The issuing context runs its next instruction: a misaligned or untranslated pc, a line whose parity fails twice, reserved bits of the line
word and an undefined encoding end otherwise (R31 to R35, R62, R104, R432). -/
def runNext (s : State) : Res :=
  let pc := s.g.flow.pc
  if !slotAddr pc then .next (s.raise 0x04 pc (BitVec.ofNat 64 pc))
  else match s.lineOf s.g with
    | .error c => .next (s.raise c pc (BitVec.ofNat 64 pc))
    | .ok (t, d, good) =>
      if !good then .next ((t.logError 6 3 (t.fetchedAt t.g) t.g.handle (some (Loc.unit t.g.regLoc))).escalate t.g.ids.ref 0x40 pc (BitVec.ofNat 64 (pc / 64 * 64)))
      else
        let t := t.keepLine pc d true
        let w := lineSlot d (slotIx pc)
        match slotInstr d (slotIx pc) with
        | some i => exec i t
        | none => .next (t.raise (if noOp t.g w then 0x01 else 0x02) pc (evalBits w))

/-- A context's next instruction would wait at issue and do nothing else. -/
def waits (s : State) (g : Ctx) : Bool :=
  let u := s.switch g.ids.ref
  match u.runNext with
  | .next t =>
    let was := u.g
    t.g.sched.stalled && decide ({ t with
      icache := u.icache, tlb := u.tlb
      g := { t.g with lastPage := was.lastPage, flow := { t.g.flow with line := was.flow.line }
                      sched := { t.g.sched with stalled := was.sched.stalled } } } = u)
  | _ => false

/-! ### Whose turn it is (R15, R19, R20, R102, R103) -/

/-- A context is ready, its port aside (R103): it may issue, no register its instructions use is pending or locked, and it would not wait at issue. -/
def ready (s : State) (g : Ctx) : Bool :=
  g.able && !(s.issues g).any (fun i => i.shape.regs.any g.marked || (writesOf g i).any g.locked) && !s.waits g

end State

/-- What orders an instruction among those of its clock, and its place: at a team's bells BWAIT, which sees no completion of its clock, then BINIT, then
arrivals by position (R239, R240); at the header bank pushes, then pops, by core and slot (R405); requests for registers or tiles of a core by
handle (R150); RESUME after the instructions of groups (R336). -/
def turnOf (g : Ctx) (i : Instr) : Nat × Nat × Nat :=
  let team := g.ids.grid * 2 ^ 32 + g.ids.team
  let bank := g.ids.core * 32 + g.ids.slot
  match i with
  | .bwait _ => (1, team, 0)
  | .binit _ | .binitNow _ => (1, team, 1)
  | .barr _ | .bsync _ | .barrm _ => (1, team, 2 + g.ids.gpos)
  | .wpush _ => (2, 0, bank)
  | .wpop _ => (2, 0, 2 ^ 20 + bank)
  | .xacq _ | .xacqTry _ | .macq _ | .macqTry _ => (3, g.ids.core, g.handle.toNat)
  | .resumeLanes _ => (4, 0, 0)
  | _ => (0, 0, 0)

/-- Must one choice of a clock issue before another? -/
def Chosen.precedes (a b : Chosen) : Bool :=
  (b.turn.1 == 4 && a.turn.1 != 4) || (a.turn.1 != 0 && a.turn.1 == b.turn.1 && a.turn.2.1 == b.turn.2.1 && decide (a.turn.2.2 < b.turn.2.2))

/-- Where a context issues: its core, or 1280 + its number for a system core. -/
def seatOf (g : Ctx) : Nat := match g.ids.ref.sysIndex with | some i => Config.nCores + i | none => g.ids.core

/-- Instructions of a class that a core issues in one clock (R102). -/
def portCount : EClass → Nat
  | .lane | .matrix | .copy => 1
  | .memory => 2
  | _ => 4

/-- The role a slot prefers (R102). -/
def slotRole (k : Nat) : Role := if k = 0 then .matrix else if k = 1 then .copy else .vector

/-- Is a list of numbers lexicographically greater? -/
def outranks : List Nat → List Nat → Bool
  | a :: as, b :: bs => b < a || (a == b && outranks as bs)
  | _, _ => false

namespace State

/-- The slot of a place that chooses next: four of a core, one of a system core. -/
def nextSlot (s : State) (k : Nat) : Option Nat :=
  let n := (s.chosen.filter (·.core == k)).length
  if n < (if k < Config.nCores then 4 else 1) then some n else none

/-- The ports that some instructions need are free on their core in this clock (R102). -/
def portsFree (s : State) (k : Nat) (is : List Instr) : Bool :=
  let used := (((s.chosen.filter (·.core == k)).map (·.ports)).flatten) ++ is.map engineOf
  is.all (fun i => used.count (engineOf i) ≤ portCount (engineOf i))

/-- May the next slot of its place choose a ready context? -/
def eligible (s : State) (g : Ctx) : Bool :=
  (s.nextSlot (seatOf g)).isSome && !s.chosen.any (·.c == g.ids.ref) && s.portsFree (seatOf g) (s.issues g)

/-- What a slot compares of a context, greatest first (R19): promotion and the wait, rule 1 (a group with a ready matrix instruction comes before
one without, DEDUCED, log 93), rule 2 (GENERAL matches no slot, R15), rule 3, rule 4, then the lower handle (DESIGN CHOICE, log 107). -/
def rank (s : State) (slot : Nat) (g : Ctx) : List Nat :=
  let mx := (s.issues g).head?.any (fun i => engineOf i == .matrix) && !s.passes.any (·.core == seatOf g)
  [if g.sched.promoted then 1 + g.sched.waited else 0, if mx then 1 + g.mclass else 0, (g.ids.role == slotRole slot).toNat, g.ids.stage,
   s.clock - g.sched.placed, 2 ^ 64 - g.handle.toNat]

/-- The next slot of a place chooses among the ready contexts there (R19, R102). -/
def choose (gs : List Ctx) (s : State) : State :=
  match gs.filter s.eligible with
  | [] => s
  | g :: gs =>
    let slot := (s.nextSlot (seatOf g)).getD 0
    let b := gs.foldl (fun a b => if outranks (s.rank slot b) (s.rank slot a) then b else a) g
    let is := s.issues b
    { s with chosen := s.chosen ++ [{ core := seatOf b, slot, c := b.ids.ref, ports := is.map engineOf, todo := true
                                      turn := (is.head?.map (turnOf b)).getD (0, 0, 0) }] }

/-- The choices of a clock, made when the first of them issues: every place fills its slots in turn. -/
def slated (s : State) : State :=
  if s.chosen.isEmpty then
    let gs := s.ctxs.filter s.ready
    (gs.map seatOf).eraseDups.foldl (fun s k => (List.range 4).foldl (fun s _ => s.choose (gs.filter (seatOf · == k))) s) s
  else s

/-- Whose turn it may be, among choices already made: the second instruction of a pair under way, or a choice that none still to issue must precede.
(Other choices of a clock do not depend on each other's order: DEDUCED, log 93.) -/
def mayIssue (s : State) : List CtxRef :=
  (s.chosen.filter (fun h => (s.ctx? h.c).any (fun g => h.mate == some g.flow.pc && s.ready g) ||
    (h.todo && !s.chosen.any (fun x => x.todo && x.precedes h)))).map (·.c)

/-- The context that issues next. -/
def pick (s : State) : Option CtxRef := s.slated.mayIssue.head?

/-- What issuing leaves besides its effect: `t` is the state after the chosen context of `s` has issued. Its starvation count starts again (R19), a split
pair is counted (R37), and the second instruction of a legal pair issues in the same clock unless the first has faulted (R38). -/
def note (s t : State) : State :=
  let c := s.g.ids.ref
  let done (t : State) (mate : Option Nat) : State := { t with chosen := t.chosen.map (fun h => if h.c = c then { h with todo := false, mate } else h) }
  match t.ctx? c with
  | none => done t none
  | some g =>
    let what := if g.sched.stalled then none else (s.coming s.g).map (·.2)
    let on := g.flow.pc == nextPc s.g.flow.pc && g.traps.level == s.g.traps.level
    let mate := match what with | some (.pair _) => if on then some g.flow.pc else none | _ => none
    done (t.modCtx c (fun g => { g with splits := g.splits + (what == some .split).toNat
                                        sched := { g.sched with promoted := false, waited := 0 } })) mate

/-- The free values of the next step are others, and contexts that waited at issue may try again. -/
def retry (s : State) : State :=
  let clear (g : Ctx) : Ctx := if g.sched.stalled then g.setStalled false else g
  { s with freeCtr := s.freeCtr + 1, g := clear s.g, others := s.others.map clear }

/-- Time passes: clocks with new issue slots; a cluster TLB may have given an entry up (log 10). The starvation count of a ready context that none has chosen grows (R19, R103). -/
def tick (n : Nat) (s : State) : State :=
  let wait (g : Ctx) : Ctx :=
    if s.ready g && !s.chosen.any (·.c == g.ids.ref) then { g with sched := { g.sched with waited := g.sched.waited + n } } else g
  let kept := (s.tlb.zipIdx.filter (fun e => Config.keepsTlb s.freeCtr e.2)).map (·.1)
  ({ s with clock := s.clock + n, chosen := [], tlb := kept, g := wait s.g, others := s.others.map wait } : State).retry

end State

/-- The state after a step that goes on. -/
def onward (f : State → State) : Res → Res
  | .next s => .next (f s)
  | .fault f => .fault f
  | .refused r => .refused r

/-- A chosen context runs its next instruction; one that can issue no more loses its turn. -/
def State.runCtx (s : State) (c : CtxRef) : Res :=
  let s := s.slated.switch c
  if s.g.ids.ref = c ∧ s.g.able then onward (fun t => (s.note t).bump) s.runNext else .next (s.note s).retry

/-- A step of the machine's own. -/
def State.runEvent (s : State) (i : Instr) (a : EvArg) : Res := onward State.retry (exec i { s with arg := a })

/-! ### A program of one instruction (the placing of a program from outside, log 2) -/

/-- A line word that marks every slot a target and carries the parity of its area (R33, R34). -/
def sealedLine (slot : Slot) : BitVec 512 :=
  let x := slot.toNat * 2 ^ 32
  BitVec.ofNat 512 (x + 0x1F + (List.range 16).foldl (fun p j => p + parity (bitsAt x (32 + 30 * j) 30) * 2 ^ (16 + j)) 0)

/-- Where the placed instruction lies: its virtual address, and the tables and the frame below it. -/
def placedAt : Nat := 0x400004

/-- Memory that holds the placed line in frame 1 and the tables of R207 that map it in ASN 0, readable, writable and executable. -/
def placedMem (m : Mem) (d : BitVec 512) : Mem :=
  ((((m.writeN 0x10000 64 d.toNat).writeN 0x20000 8 0x22001).writeN 0x22000 8 0x24001).writeN 0x24000 8 0x26001).writeN (0x26000 + 8 * 64) 8
    (2 ^ 32 + 0x1F)

/-- A group of one that stands for a launch: GENERAL role, all lanes, a whole core's scratchpad and tiles. -/
def placedGroup : Ctx :=
  { ids := { ref := .group 1 0, grid := 1, role := .general, prio := 7 }, flow := { pc := placedAt, active := allLanes }, sched := { sliceEnd := 1250000, delay := 2500000 } }

/-- The group's team, gang and grid. -/
def State.placeGroup (s : State) : State :=
  { s with
    g := placedGroup, others := s.g :: s.others, gridCtr := 1
    teams := [{ grid := 1, team := 0, size := 1, csize := Config.coreSpad, prio := 7
                bells := List.replicate 24 { expect := 1 }, tiles := List.replicate Config.nTiles {} }]
    gangs := [{ grid := 1, gang := 0, ksize := Config.clusterSpad }]
    grids := [{ gid := 1, addr := 0, asn := 0, world := 0, cap := 7, phase := 2, nextGang := 1
                desc := { gx := 1, gy := 1, gz := 1, gang := 1, ngrp := 1, cls := [0xC1, 0, 0, 0], prio := 7 } }] }

/-- A system core that starts at the placed instruction. -/
def State.placeCore (s : State) (c : CtxRef) : State :=
  (s.switch c).modG (fun g => { g with flow := { g.flow with pc := placedAt }, sched := { g.sched with held := false } })

end Machine

end Sys2Proof
end

