-- ==== Sys2Proof/Machine/Step.lean ====
section
/-! DEFINITION. One step of the machine, and an instruction placed where the next step fetches. -/

namespace Sys2Proof.Machine

/-- One step: the turn that the environment has chosen, or, with none, the first step of the machine's own that is due, or the next instruction
of the context whose turn it is, or, when nothing can issue in this clock any more, time passing. The environment lets no choice of an issue slot go
by: a context issues in its turn, and time passes when nothing is left to issue (R19). -/
def step (s : State) : Host.Outcome State Fault Refusal :=
  match s.sched with
  | .issue c :: rest => if s.slated.mayIssue.contains c then State.runCtx { s with sched := rest } c else .next (State.retry { s with sched := rest })
  | .event i a :: rest => if i.isEvent then State.runEvent { s with sched := rest } i a else .next (State.retry { s with sched := rest })
  | .pass n :: rest =>
    if n = 0 then .next (State.retry { s with sched := rest })
    else match s.pick with
      | some c => s.runCtx c
      | none =>
        if s.chosen.isEmpty then .next (State.tick n { s with sched := rest })
        else .next (State.tick 1 { s with sched := .pass (n - 1) :: rest })
  | .ecc w ok :: rest => .next (State.retry (({ s with sched := rest } : State).ecc w ok))
  | .make w :: rest => .next (State.retry (({ s with sched := rest } : State).make w))
  | [] =>
    match s.auto with
    | some (i, a) => s.runEvent i a
    | none =>
      match s.pick with
      | some c => s.runCtx c
      | none => .next (s.tick 1)

/-- `s` with an instruction placed where the next step fetches: instructions of a program run in a group on core 0, those of system privilege on
Prefect 0, KEYOP on the security core (R61). -/
def State.withFetchWord (s : State) (_nbits w : Nat) : State :=
  let slot : Slot := BitVec.ofNat 96 w
  let op := w / 2 ^ 88 % 256
  let s : State := { s with mem := placedMem s.mem (sealedLine slot), roots := SMap.set 0 s.roots 0 0x20001, sched := [] }
  if op = 0xBF then s.placeCore .secure else if privOp op then s.placeCore (.prefect 0) else s.placeGroup

end Sys2Proof.Machine
end

