-- ==== Sys2Proof/Safety.lean ====
section
/-! DEFINITION. What counts as a sound state and a safe step, and the vocabulary of the statements: when an instruction runs undisturbed, what
it leaves alone, what a register holds. -/

namespace Sys2Proof.Machine

/-- Memory is in its canonical form: locations rising, no listed byte zero. -/
abbrev Mem.wf (m : Mem) : Bool := SMap.wf 0 m

/-- The tables of the memory system are in their canonical form, so that equal contents are equal data: memory, poison, locks, translation roots, the
region map, worlds, keys, protected buffers and their frame tags, peers. -/
structure State.Canonical (s : State) : Prop where
  mem : s.mem.wf = true
  poison : SMap.wf false s.poison = true
  locks : SMap.wf none s.locks = true
  roots : SMap.wf 0 s.roots = true
  rmap : SMap.wf 0 s.rmap = true
  worlds : SMap.wf {} s.worlds = true
  keys : SMap.wf none s.keys = true
  bufs : SMap.wf {} s.bufs = true
  tags : SMap.wf 0 s.tags = true
  peers : SMap.wf {} s.peers = true

/-- A context's lanes and stack are in order: its trap level is 0, 1 or 2 (R339), its stack holds no more than 30 entries and those of fault entry
(R109), and an exited lane is neither in ACTIVE nor in an entry (R105, R121). -/
structure Ctx.Ordered (g : Ctx) : Prop where
  level : g.traps.level ≤ 2
  depth : g.flow.stack.length ≤ 30 + g.traps.level
  apart : g.flow.active &&& g.flow.exited = 0
  entries : ∀ e ∈ g.flow.stack, (e.mask ||| e.aux) &&& g.flow.exited = 0

/-- The step runs on: no stop of any kind. -/
def goesOn (r : Res) : Prop := ∃ t, r = .next t

/-- An instruction of the issuing context passes every check made before its own effect, and nothing comes first: the context may issue (R103),
checks 1 to 6 pass (R62), no register it names has a write pending (R103) and none it writes is locked (R212), the tile it names is held
(R258), no delivered cause is due (R344), a uniform guard holds (R107), no poison is consumed (R430, R431). -/
structure Clear (i : Instr) (s : State) : Prop where
  able : s.g.able = true
  checks : staticCheck i s.g = none
  free : (i.shape.regs.any s.g.marked || i.shape.writes.any s.g.locked) = false
  tile : tileFault i s = none
  quiet : State.deliverable s.g = none
  guarded : guardedOff i s.g = false
  sound : deathsOf i s.g = 0
  clean : lostUniform i s.g = false

/-- The state in which an instruction that issued in `s` has completed, given the state `u` its effect has made: the draw counter advanced
(R101), the program counter at the next slot (R114), the signature of R124. -/
def completed (i : Instr) (s u : State) : State :=
  retire i.shape.op s (u.modG fun g => { g with ns := g.ns + BitVec.ofNat 64 (drawsOf i) }) (nextPc s.g.flow.pc)

/-- The instruction completes with the effect that makes `u` of `s`. -/
def Does (i : Instr) (s u : State) : Prop := exec i s = .next (completed i s u)

/-- The registers named in `ds` aside (in the lanes of `act`, for vector and predicate registers), every register of `g'` is as in `g`. -/
structure SameBut (ds : List Reg) (act : Word) (g g' : Ctx) : Prop where
  v : ∀ r l, l < 32 → (Reg.v r ∉ ds ∨ bit act l = false) → g'.rdV r l = g.rdV r l ∧ g'.vpois r l = g.vpois r l
  s : ∀ r, Reg.s r ∉ ds → g'.rdS r = g.rdS r
  p : ∀ r l, l < 32 → (Reg.p r ∉ ds ∨ bit act l = false) → bit (g'.rdP r) l = bit (g.rdP r) l
  c : ∀ r, Reg.c r ∉ ds → g'.rdC r = g.rdC r
  w : ∀ r, Reg.w r ∉ ds → g'.rdW r = g.rdW r

/-- `n` registers from `d` hold the words of `x`, the low word first, unpoisoned: S registers of a uniform form, of which S63 reads zero
(R43), else lane `l` of V registers. -/
def Holds (g : Ctx) (y : Bool) (d l n x : Nat) : Prop :=
  ∀ k, k < n →
    if y then g.rdS (d + k) = if d + k = 63 then 0 else BitVec.ofNat 32 (x / 2 ^ (32 * k))
    else g.rdV (d + k) l = BitVec.ofNat 32 (x / 2 ^ (32 * k)) ∧ g.vpois (d + k) l = false

/-- A predicate reads `b`: C registers of a uniform form, else lane `l` of P registers; P7 and C7 stay true (R131). -/
def HoldsP (g : Ctx) (y : Bool) (d l : Nat) (b : Bool) : Prop := rdPred g y d l = (d == 7 || b)

/-- The instruction completes, changing nothing but the registers its destination fields name (in the lanes of EXEC) and GSTAT, which becomes
`gstat`; the new register files satisfy `ok`. Everything outside the register files is the completed state's: all of memory among it. -/
def Gives (i : Instr) (s : State) (gstat : Word) (ok : Ctx → Prop) : Prop :=
  ∃ r, exec i s = .next (completed i s (s.modG fun g => { g with regs := r, gstat := gstat })) ∧
    SameBut i.shape.writes (s.g.exec i.shape.hdr) s.g { s.g with regs := r } ∧ ok { s.g with regs := r }

/-- Every acting lane's `n` registers from `d` hold a value that satisfies `is`. -/
def Result (s : State) (h : Hdr) (d n : Nat) (is : Nat → Nat → Prop) (g : Ctx) : Prop :=
  ∀ l ∈ actLanes s.g h, ∃ x, is l x ∧ Holds g h.y d l n x

/-- Every acting lane's predicate `d` reads `is`. -/
def ResultP (s : State) (h : Hdr) (d : Nat) (is : Nat → Bool) (g : Ctx) : Prop :=
  ∀ l ∈ actLanes s.g h, HoldsP g h.y d l (is l)

/-- `x` is the integer `z` modulo `2^w`. -/
def IsMod (w : Nat) (z : Int) (x : Nat) : Prop := x < 2 ^ w ∧ (x : Int) % ((2 ^ w : Nat) : Int) = z % ((2 ^ w : Nat) : Int)

/-- `x` is the `w`-bit number with the bits `b`. -/
def HasBits (w : Nat) (b : Nat → Bool) (x : Nat) : Prop := x < 2 ^ w ∧ ∀ k, k < w → x.testBit k = b k

/-- `i` is the magnitude `m` × 2^`e` of a value with the sign `neg`, rounded to an integer; `x` is the draw of .RS (R77, R80). -/
def RoundsTo (mode : Rnd) (x : DWord) (neg : Bool) (m : Nat) (e : Int) (i : Nat) : Prop :=
  let p := m * 2 ^ e.toNat
  let q := 2 ^ (-e).toNat
  let away := p / q + if p % q = 0 then 0 else 1
  match mode with
  | .rn => 2 * p ≤ (2 * i + 1) * q ∧ 2 * i * q ≤ 2 * p + q ∧ ((2 * p = (2 * i + 1) * q ∨ 2 * i * q = 2 * p + q) → i % 2 = 0)
  | .rz => i = p / q
  | .rd => i = if neg then away else p / q
  | .rp => i = if neg then p / q else away
  | .rs => i = p / q + if x.toNat / 2 ^ 32 < p % q * 2 ^ 32 / q then 1 else 0

/-- The magnitude of a finite encoding, in units of 2^`k` (R73). -/
def Fmt.mag (f : Fmt) (k : Int) (b : Nat) : Nat :=
  match FV.read f b with
  | .fin _ m e => m * 2 ^ (e - k).toNat
  | _ => 0

/-- `b` encodes the magnitude of a value that lies within a format, rounded once (R77): to the nearest encoding, the even one of two, or to the neighbour
in the mode's direction. The value is given by the half units of 2^`k` that are not above it (`low`) and those not below it (`high`). -/
structure Rounds (f : Fmt) (mode : Rnd) (neg : Bool) (k : Int) (low high : Nat → Prop) (b : Nat) : Prop where
  fits : b ≤ f.maxBits
  down : (mode = .rz ∨ mode = if neg then .rp else .rd) → low (2 * f.mag k b) ∧ ∀ x ≤ f.maxBits, low (2 * f.mag k x) → f.mag k x ≤ f.mag k b
  up : (mode = if neg then .rd else .rp) → high (2 * f.mag k b) ∧ ∀ x ≤ f.maxBits, high (2 * f.mag k x) → f.mag k b ≤ f.mag k x
  near : mode = .rn → ∀ x ≤ f.maxBits, (f.mag k x < f.mag k b → low (f.mag k x + f.mag k b)) ∧ (f.mag k b < f.mag k x → high (f.mag k x + f.mag k b)) ∧
    (f.mag k x ≠ f.mag k b → low (f.mag k x + f.mag k b) → high (f.mag k x + f.mag k b) → b % 2 = 0)

/-- Control has moved from `s` to `t`: the group stands at `pc` with these active lanes and this reconvergence stack (lowest entry last); its
registers, lanes that have exited or died, signature, trap state and memory are as they were, and no poison is lifted (fetching its line
can find one whose MAC fails, R428). -/
structure Moved (s t : State) (pc : Nat) (active : Word) (stack : List Entry) : Prop where
  pc : t.g.flow.pc = pc
  active : t.g.flow.active = active
  stack : t.g.flow.stack = stack
  exited : t.g.flow.exited = s.g.flow.exited
  dead : t.g.flow.dead = s.g.flow.dead
  sig : t.g.flow.sig = s.g.flow.sig
  regs : t.g.regs = s.g.regs
  gstat : t.g.gstat = s.g.gstat
  traps : t.g.traps = s.g.traps
  mem : t.mem = s.mem
  poison : ∀ l, s.poisoned l = true → t.poisoned l = true

/-- The instruction completes and control moves as `Moved` says. -/
def Moves (i : Instr) (s : State) (pc : Nat) (active : Word) (stack : List Entry) : Prop := ∃ t, exec i s = .next t ∧ Moved s t pc active stack

/-- The instruction's target can be transferred to (R36, R104): it is a slot's address, its line can be fetched, its T bit is set. -/
def Reaches (i : Instr) (s : State) : Prop := ∃ t, targetsCheck s (targetsOf i s.g) = .ok t

/-- The context has nothing of its own in flight to memory: no access, no tile write. -/
def Idle (s : State) : Prop := (∀ a ∈ s.accs, a.owner ≠ some s.g.ids.ref) ∧ ∀ t ∈ s.tiles, t.owner ≠ some s.g.ids.ref

/-- Every unit of a memory operation of the issuing context passes translation and begins its access; `u` is the state then. -/
def Begins (s : State) (op : MemOp) (p : Pend) (u : State) : Prop :=
  State.admitAll { op with pend := s.nextId } op.reqs ({ s with nextId := s.nextId + 1 }.modG fun g =>
    { g with pend := g.pend ++ [{ p with id := s.nextId, level := g.traps.level }] }) = (u, [])

/-- Nothing but the scoreboard, the accesses in flight and the translation caches has changed. -/
structure Untroubled (s u : State) : Prop where
  mem : u.mem = s.mem
  poison : u.poison = s.poison
  regs : u.g.regs = s.g.regs
  flow : u.g.flow = s.g.flow
  traps : u.g.traps = s.g.traps
  gstat : u.g.gstat = s.g.gstat
  mark : u.g.mark = s.g.mark

/-- A load whose units have begun, in the state `u`, completes; one that reads a peer's memory rests at the next instruction (R196). -/
def StartsLoad (i : Instr) (s u : State) : Prop :=
  if u.g.pend.any (fun q => q.id == s.nextId && q.kind == .peer) then
    s.g.sched.expiry = false → ∃ t, exec i s = .next t ∧ t.g.wait = { kind := 4, addr := s.nextId } ∧ t.g.flow.pc = nextPc s.g.flow.pc ∧
      t.g.regs = u.g.regs ∧ t.g.pend = u.g.pend ∧ t.accs = u.accs ∧ t.mem = u.mem
  else Does i s u

end Sys2Proof.Machine
end

