-- ==== Sys2Proof/Certificates/Slice0/Obligations.lean ====
section
/-! DEFINITION. The statements for the provers. -/

open Sys2Proof Sys2Proof.Machine

/-! ### Encodings, reset and the step -/

/-- R31, R39 to R58: no bit of an encoding is dropped: the decoder reads the instruction that was encoded. R31, R58, R62: one slot, one meaning: a slot that decodes is the word of the instruction it decodes to, and an opcode that is not assigned is refused as ILLEGAL_OP. -/
def Obligations.EncodingRoundTrip : Prop :=
  (∀ i : Instr, i.isEvent = false → i.wf = true → decode (encode i) = .ok i) ∧
  ((∀ w i, decode w = .ok i → encode i = w ∧ i.isEvent = false) ∧ ∀ w : Slot, assigned (w.toNat / 2 ^ 88) = false → w.toNat / 2 ^ 88 ≠ 255 → decode w = .error .illegalOp)

/-- The words that the spec writes out, in every format, decode to the instructions it names beside them (02 to 18). -/
def Obligations.DecodesSpecWords : Prop :=
  let p1 : Hdr := { n := false, gi := 1, y := false }
  let lane : Hdr := { n := false, gi := 7, y := false }
  let uni : Hdr := { n := false, gi := 7, y := true }
  decodeTableWord 96 0x0070000000000F0000000000 = some (.nop { h := lane, d := 0, a := 0, b := 0, sel := 0, wf := 15, var8 := 0, imm := 0 }) ∧
  decodeTableWord 96 0x37B004050607610000000000 = some (.ffma { h := { n := true, gi := 3, y := false }, d := 4, a := 5, b := 6, x := 7, ty := .f32, rnd := .rz, ib := false, ub := false, ux := false, var := 0, imm := 0 }) ∧
  decodeTableWord 96 0x10200A0B00002081FFFFFFFB = some (.iadd { h := { n := false, gi := 2, y := false }, d := 10, a := 11, b := 0, x := 0, ty := .i32, rnd := .rn, ib := true, ub := false, ux := false, var := 1, imm := 0xFFFFFFFB }) ∧
  decodeTableWord 96 0x2B7002000000000000000007 = some (.movi { h := lane, d := 2, ty := .b32, var := 0, imm := 7 }) ∧
  decodeTableWord 96 0x0170400000000000FFFFFFFE = some (.braDiv { h := lane, slot := 2, cond := 0, zero := 0, ofs := 0xFFFFFFFE }) ∧
  decodeTableWord 96 0x071060000000000000000002 = some (.split { h := p1, slot := 3, cond := 0, zero := 0, ofs := 2 }) ∧
  decodeTableWord 96 0x607006080AE5FF0000000010 = some (.ld { h := lane, data := 6, base := 8, index := 10, space := .g, width := .b32, scale := 2, ix := true, wi := 15, wo := 15, sub := 0, aon := false, ver := false, ubase := false, uidx := false, off := 16 }) ∧
  decodeTableWord 96 0x831000081028000000000000 = some (.mma { h := p1, tile := 0, band := 0, abase := 4, bbase := 8, idx := 20, sca := 0, scb := 0, bsel := 0, fmta := .bf16, fmtb := .bf16, kst := 0, chain := 0, opx := 0 }) ∧
  decodeTableWord 96 0x90780102080000000000000C = some (.cpyMove { h := uni, yc := false, fn := 0, re := true, reply := 2, sa := 8, sb := 0, imm := 12 }) ∧
  decodeTableWord 96 0xB97801040000330000000000 = some (.msgsnd { h := uni, d := 1, a := 4, b := 0, sel := 3, wf := 3, var8 := 0, imm := 0 })

/-- R3, R17, R354, R362, R364, R386, R410, R434, R440, R441, R444: the machine right after reset: memory lists nothing and is in canonical form, every system core is held with its one lane, world 0 is active
with a full roster, and the registers that the spec gives a value have it. The model's own choices among these values: memory outside local HBM reads zero (log 3), the clock and the other counters start at zero (log 2), the
queues, mailboxes, teams, grids and tables of the units are empty (log 4), and what else the spec gives no value (log 5). Every context is in order (`Ctx.Ordered`) and every table canonical. -/
def Obligations.ResetState : Prop :=
  let s := State.reset
  s.mem.wf = true ∧ (∀ a, s.mem.get 0 a = 0) ∧ s.poison = [] ∧ s.clock = 0 ∧ s.ctxs.length = 93 ∧
  (∀ g ∈ s.ctxs, g.isSys = true ∧ g.sched.held = true ∧ g.flow.active = 1 ∧ g.flow.exited = 0xFFFFFFFE ∧ g.flow.dead = 0 ∧ g.flow.stack = [] ∧ g.flow.sig = 0xFFFFFFFF ∧
    g.traps.level = 0 ∧ g.ids.world = 0 ∧ g.ids.asn = 0 ∧ g.n = 0 ∧ g.ids.role = .general ∧ g.gmode = 0x0C020000) ∧
  (∀ c, c ∈ systemCores ↔ (∃ p, p < 80 ∧ c = .prefect p) ∨ (∃ f, f < 12 ∧ c = .front f) ∨ c = .secure) ∧ s.ctxs.map (·.ids.ref) = systemCores ∧
  (s.worlds.get {} 0).active = true ∧ (s.worlds.get {} 0).roster = BitVec.allOnes 256 ∧ (∀ w, w ≠ 0 → s.worlds.get {} w = {}) ∧
  (∀ p, p < 80 → (s.pref p).slice = 1250000 ∧ (s.pref p).forcedly = 2500000 ∧ (s.pref p).trapq = [] ∧ (s.pref p).mailbox = []) ∧
  s.hub.ready = false ∧ s.hub.fail = false ∧ s.hub.step = 0 ∧ s.hub.pwrcap = 2800 ∧ s.hub.secring = 0 ∧ s.errUE = [] ∧ s.errLog = [] ∧ s.meas = List.replicate 16 (List.replicate 32 0) ∧
  s.teams = [] ∧ s.grids = [] ∧ s.rmap = [] ∧ s.roots = [] ∧ s.peers = [] ∧ s.keys = [] ∧ s.bufs = [] ∧ s.Canonical ∧ ∀ g ∈ s.ctxs, g.Ordered

/-- R31 to R35, R58, R59, R62, R103, R104, R432: in the turn of a context that may issue, one that the issue slots have chosen in this clock, the step runs the instruction that the slot at the pc decodes to, with the line in
hand or the line's bytes in memory; around it the step only keeps the account of the issue slots (`State.note`: the choice is done, pairs of this clock, the context's starvation count and split pairs) and gives the next step
other free values (`State.bump`). A misaligned pc, a line that cannot be fetched, one whose parity fails, and a slot that is no instruction end as the spec says: ILLEGAL_OP for an opcode that is not assigned, is UDF or that a
system core lacks, ILLEGAL_ENC for reserved bits of the line word and every other slot. (A fetched line in a poisoned unit is taken as one whose parity fails: the model's choice, log 100. A system core fetches in ASN 0 and world 0: DEDUCED, log 91.) -/
def Obligations.StepRunsDecoded : Prop := ∀ (s v : State) (c : CtxRef) (q rest : List Turn) (n : Nat) (i : Instr) (d : BitVec 512) (a code : Nat) (tr : Tr),
  let t := State.switch (State.slated { s with sched := q }) c
  let pc := t.g.flow.pc
  let slot := d.extractLsb' (32 + 96 * ((pc % 64 - 4) / 12)) 96
  let op := slot.toNat / 2 ^ 88
  let turn := (s.sched = .issue c :: q ∧ c ∈ s.slated.mayIssue ∨ s.sched = [] ∧ q = [] ∧ s.auto = none ∧ s.pick = some c ∨
    s.sched = .pass (n + 1) :: rest ∧ q = s.sched ∧ s.pick = some c) ∧ t.g.ids.ref = c ∧ t.g.able = true
  let ends := fun (u : State) => step s = .next (t.note u).bump
  let away := t.g.flow.line = none ∨ ∃ b e, t.g.flow.line = some (b, e) ∧ ¬ (b ≤ pc ∧ pc < b + 64)
  let line := t.g.flow.line = some (a, d) ∧ a ≤ pc ∧ pc < a + 64 ∧ v = t ∨ away ∧ t.fetchLine t.g pc = .ok (v, d, true)
  let at_ := v.modG fun g => { g with flow := { g.flow with line := some (pc / 64 * 64, d) } }
  let bad := d.toNat / 2 ^ 9 % 2 ^ 7 ≠ 0 ∨ ∃ e, decode slot = .error e
  let noOp := assigned op = false ∨ op = 255 ∨ t.g.isSys = true ∧ noSysOp op = true
  let l := tr.loc (pc / 64 * 64)
  let core := match c with | .prefect p => 1280 + p | .front f => 1360 + f | .secure => 1372 | .group _ _ => t.g.ids.core
  (turn → slotAddr pc = true → line → d.toNat / 2 ^ 9 % 2 ^ 7 = 0 → decode slot = .ok i → ∀ u, exec i at_ = .next u → ends u) ∧
  (turn → slotAddr pc = true → line → bad → noOp → ends (at_.raise 0x01 pc (slot.extractLsb' 32 64))) ∧
  (turn → slotAddr pc = true → line → bad → ¬ noOp → ends (at_.raise 0x02 pc (slot.extractLsb' 32 64))) ∧
  (turn → slotAddr pc = false → ends (t.raise 0x04 pc (BitVec.ofNat 64 pc))) ∧
  (turn → slotAddr pc = true → away → t.fetchLine t.g pc = .error code → ends (t.raise code pc (BitVec.ofNat 64 pc))) ∧
  (turn → slotAddr pc = true → away → t.fetchLine t.g pc = .ok (v, d, false) →
    ends ((v.logError 6 3 (v.fetchedAt v.g) v.g.handle (some (Loc.unit v.g.regLoc))).escalate v.g.ids.ref 0x40 pc (BitVec.ofNat 64 (pc / 64 * 64)))) ∧
  (∀ u, (t.note u).bump.mem = u.mem ∧ (t.note u).bump.poison = u.poison ∧ (t.note u).bump.accs = u.accs ∧ (t.note u).bump.clock = u.clock ∧
    ∀ b g', (t.note u).bump.ctx? b = some g' → ∃ g, u.ctx? b = some g ∧ g'.regs = g.regs ∧ g'.flow = g.flow ∧ g'.traps = g.traps ∧ g'.gstat = g.gstat ∧
      g'.gmode = g.gmode ∧ g'.wait = g.wait ∧ g'.pend = g.pend ∧ g'.mark = g.mark) ∧
  (slotAddr pc = true ↔ pc % 64 ∈ [4, 16, 28, 40, 52]) ∧
  (t.g.ids.ref = c → t.lookup [] 0 t.g.cluster (if t.g.isSys then 0 else t.g.ids.asn) pc = some tr → tr.entry.getLsbD 4 = true →
    t.grants (if t.g.isSys then 0 else t.g.ids.world) { tr with entry := tr.entry ||| 4 } pc .load = none → tr.crypt.enc = false → t.poison = [] →
    (∀ e ∈ t.icache, ¬ (e.core = core ∧ e.loc = l)) → d = BitVec.ofNat 512 (t.mem.readN l 64) →
    (parityOk d = true → ∃ u, t.fetchLine t.g pc = .ok (u, d, true) ∧ u.mem = t.mem ∧ u.g = t.g ∧ u.icache = { core := core, loc := l, data := d } :: t.icache) ∧
    (parityOk d = false → ∃ u, t.fetchLine t.g pc = .ok (u, d, false) ∧ u.mem = t.mem ∧ u.icache = t.icache))

/-- Nothing stops the machine: whatever the state, the next step answers a next state, never a fault or a refusal. -/
def Obligations.StepGoesOn : Prop := ∀ s, goesOn (step s)

/-- Memory and the other tables of the memory system stay in their canonical form: keys rising, no listed value the default, so that equal tables are equal data. -/
def Obligations.StepKeepsMemory : Prop :=
  (∀ s t, s.mem.wf = true → step s = .next t → t.mem.wf = true) ∧ ∀ s t, s.Canonical → step s = .next t → t.Canonical

/-- R27, R105, R109, R121, R339: whatever happens, every context stays in order: its trap level is 0, 1 or 2, its reconvergence stack never holds more than 30 entries besides those of fault entry, and no exited lane is in
ACTIVE or in an entry of the stack. (An image that no save has written is read back so: the model's choice, log 42.) -/
def Obligations.ContextsStayOrdered : Prop := ∀ s t, (∀ g ∈ s.ctxs, g.Ordered) → step s = .next t → ∀ g ∈ t.ctxs, g.Ordered

/-- R40, R43, R131, R217: S63 and W15 read zero and P7 and C7 true in every state, a write to one of them writes nothing, and an instruction whose destination is one completes with no register changed. -/
def Obligations.ConstantRegisters : Prop :=
  (∀ (g : Ctx) (x : Word) (w : DWord) (m : Word) (b : Bool), g.rdS 63 = 0 ∧ g.rdW 15 = 0 ∧ g.rdP 7 = 0xFFFFFFFF ∧ g.rdC 7 = true ∧ g.wrS 63 x = g ∧ g.wrW 15 w = g ∧ g.wrP 7 m x = g ∧
    g.wrC 7 b = g) ∧
  (∀ (f : F3) (s : State) (i : Instr), i ∈ [Instr.iadd f, .isub f, .andB f, .orB f, .xor f, .shl f, .mov f, .imin f, .popc f] → Clear i s → f.h.y = true → f.d.toNat = 63 → f.ty.regs = 1 →
    ∃ gs, exec i s = .next (completed i s (s.modG fun g => { g with gstat := gs }))) ∧
  (∀ (f : F3) (s : State), Clear (.wnow f) s → f.d.toNat = 15 → ∃ u, Does (.wnow f) s u ∧ u.g.regs = s.g.regs)

/-! ### Issue, faults, signatures -/

/-- R22, R62, R103, R107, R258, R344, R431: what comes before the effect of every program instruction, in order: a context that may not issue, or that waits
for a register, stays where it is (one that was woken, and whose instruction has not acted, has left its blocking point); a failed check raises its fault at the instruction; a delivered cause that is due
is taken instead, unless the instruction has acted already and only ends its wait, or is a TLD.VER between its attempts (R200); a uniform instruction escalates that reads poison as its guard, or, unless its guard is false, as an
operand; a false uniform guard leaves only the step to the next slot (of EXIT, an empty event latch too). LDW alone looks at its witness and its address before its guard (R225). -/
def Obligations.IssueOrder : Prop := ∀ (i : Instr) (s : State), i.isEvent = false →
  let pc := s.g.flow.pc
  let waits := exec i s = .next (s.modG fun g => { g with sched := { g.sched with stalled := true }
                                                          wait := if g.able && !g.wait.ending then {} else g.wait })
  let busy := (i.shape.regs.any s.g.marked || i.shape.writes.any s.g.locked) = true
  let passed := fun t => s.g.able = true ∧ staticCheck i s.g = none ∧ ¬ busy ∧ targetsCheck s (targetsOf i s.g) = .ok t ∧ tileFault i s = none
  (s.g.able = false → waits) ∧
  (∀ c v, s.g.able = true → staticCheck i s.g = some (c, v) → exec i s = .next (s.raise c pc v)) ∧
  (s.g.able = true → staticCheck i s.g = none → busy → waits) ∧
  (∀ c v, s.g.able = true → staticCheck i s.g = none → ¬ busy → targetsCheck s (targetsOf i s.g) = .error (c, v) →
    exec i s = .next (s.raise c pc v)) ∧
  (∀ t h, s.g.able = true → staticCheck i s.g = none → ¬ busy → targetsCheck s (targetsOf i s.g) = .ok t → tileFault i s = some h →
    exec i s = .next (s.raise 0x20 pc (BitVec.ofNat 64 h))) ∧
  let within := s.g.wait.sat = true ∧ (s.g.wait.kind ∈ [1, 7, 9, 10] ∨ s.g.wait.seen.isSome = true) ∨ s.g.sched.tries ≠ 0
  let bad := fun (rs : List Reg) => rs.any s.g.upois
  let off := i.shape.hdr.y = true ∧ s.g.guardC i.shape.hdr = false ∧ i.shape.op ≠ 0x62
  (∀ t d, passed t → State.deliverable s.g = some d → ¬ within → exec i s = .next (s.takeDelivered d)) ∧
  (∀ t, passed t → State.deliverable s.g = none ∨ within →
    (i.shape.hdr.y = true → bad i.shape.guard = true ∨ ¬ off ∧ bad i.shape.sources = true →
      exec i s = .next ((t.logError 0 2 t.g.regLoc t.g.handle).escalate t.g.ids.ref 0x40 pc 0)) ∧
    (off → bad i.shape.guard = false →
      exec i s = .next (completed i t (if i.shape.op = 0x09 then t.modG (·.unlatch) else t))))

/-- R61, R62, R15: a system instruction of a group, a system register of a group, and KEYOP of a group, a Prefect or a front-end core raise PRIV; an instruction
that the group's role may not issue raises ROLE; each at the instruction, with its bits [95:32]. -/
def Obligations.PrivilegeAndRole : Prop := ∀ (i : Instr) (f : FS) (s : State),
  let stops := fun (i : Instr) (c : Nat) => exec i s = .next (s.raise c s.g.flow.pc ((encode i).extractLsb' 32 64))
  s.g.able = true →
  (i.isEvent = false → i.wf = true → s.g.isSys = false ∧ privOp i.shape.op = true ∨ s.g.ids.ref ≠ .secure ∧ i.shape.op = 0xBF → stops i 0x05) ∧
  (∀ j, s.g.isSys = false → j ∈ [Instr.srget f, .srset f, .srgetHubdata f, .srsetHubdata f, .srsetRmapent f, .srsetAsnroot f] → j.wf = true →
    f.sel.toNat / 256 = 1 → stops j 0x05) ∧
  (s.g.isSys = false → i.isEvent = false → i.wf = true → i.shape.op ≠ 0xFF → privOp i.shape.op = false → i.shape.op ≠ 0xBF → i.shape.op ≠ 0xB2 → i.shape.op ≠ 0xB3 →
    s.g.ids.role.may (classOf i.shape.op i.shape.hdr.y) = false → stops i 0x06)

/-- R340, R341, R344: taking a fault: the next level is entered, its bank records the resume address, the cause (bit 8 for a delivered one) and
the value, a TRAP entry with the active lanes is pushed, and the group stands at the handler; ACTIVE, the registers and memory are
unchanged, and so is the other bank. R343, R340, R339: a fault at TL2, or with no vector or one whose line cannot be fetched, escalates: the context stops, a group posts an
ESCALATE record with the cause, the address and the value to its Prefect, a system core is reported; nothing else of the context changes. -/
def Obligations.TakingAFault : Prop :=
  (∀ (s u : State) (cause epc : Nat) (value : DWord) (async : Bool) (d : BitVec 512) (good : Bool),
  let t := s.g.traps
  let v := State.vector t
  let r := s.raise cause epc value async
  let ec := BitVec.ofNat 32 (cause + if async then 256 else 0)
  t.level < 2 → v.getLsbD 0 = true → s.target (State.vectorAddr v) = .ok (u, d, good) →
  r.g.flow.pc = State.vectorAddr v ∧ r.g.flow.active = s.g.flow.active ∧ r.g.flow.exited = s.g.flow.exited ∧
  r.g.flow.stack = { kind := .trap, addr := epc, mask := s.g.flow.active } :: s.g.flow.stack ∧ r.g.flow.sig = s.g.flow.sig ∧
  r.g.traps = (if t.level = 0 then { t with level := 1, epc1 := BitVec.ofNat 64 epc, epcw1 := false, ecause1 := ec, eval1 := value }
    else { t with level := 2, epc2 := BitVec.ofNat 64 epc, epcw2 := false, ecause2 := ec, eval2 := value }) ∧
  r.g.regs = s.g.regs ∧ r.g.gstat = s.g.gstat ∧ r.g.gmode = s.g.gmode ∧ r.g.wait = {} ∧ SMap.get 0 r.mem = SMap.get 0 s.mem ∧
  (∀ l, s.poisoned l = true → r.poisoned l = true)) ∧
  (∀ (s : State) (cause epc : Nat) (value : DWord) (async : Bool),
  let t := s.g.traps
  let v := State.vector t
  let r := s.raise cause epc value async
  t.level = 2 ∨ v.getLsbD 0 = false ∨ (∃ c, s.target (State.vectorAddr v) = .error c) → s.g.sched.killed = false →
  r.g = { s.g with sched := { s.g.sched with escalated := true } } ∧ r.mem = s.mem ∧ r.others = s.others ∧
  (s.g.isSys = true → r.out = s.out ++
    [{ kind := 0, port := 2, bytes := [BitVec.ofNat 8 (match s.g.ids.ref with | .prefect p => p | _ => 0xFF)] }] ∧ r.prefs = s.prefs) ∧
  (s.g.isSys = false → s.g.cluster < s.prefs.length → (s.pref s.g.cluster).trapq.length < 64 → (s.pref s.g.cluster).posted = [] →
    ∃ rcd, (r.pref s.g.cluster).trapq = (s.pref s.g.cluster).trapq ++ [rcd] ∧ rcd.typ = 2 ∧ rcd.handle = s.g.handle ∧ rcd.cause = cause ∧
      rcd.pc = epc ∧ rcd.value = value ∧ rcd.world = s.g.ids.world ∧ rcd.asn = s.g.ids.asn))

/-- R124, R125, R126: completing a hashed instruction folds its record into SIGREG by CRC-32C in reflected form and clears the event latch;
completing another leaves both. (That EXIT is hashed and keeps what it has set in the latch is DEDUCED, log 20; that TRET is not hashed is DEDUCED, log 21.) -/
def Obligations.Signatures : Prop := ∀ (i : Instr) (s u : State),
  let fl := s.g.flow
  let op := i.shape.op
  let bit1 := fun (b : Bool) (n : Nat) => if b then 2 ^ n else 0
  let rcd := op * 2 ^ 56 + fl.active.toNat * 2 ^ 24 + bit1 fl.lResume 19 + bit1 (op == 0xB0) 18 + bit1 fl.lJoin 17 + bit1 fl.lSplit 16
  let update := fun (x : Word) (k : Nat) =>
    let b := x.getLsbD 0 ^^ rcd.testBit k
    if b then (x >>> 1) ^^^ 0x82F63B78 else x >>> 1
  let f' := (completed i s u).g.flow
  let unhashed := [0x01, 0x02, 0x03, 0x04, 0x05, 0x06, 0x07, 0x08, 0x0C, 0x0D, 0xB1]
  (unhashed.contains op = false → f'.sig = (List.range 64).foldl update u.g.flow.sig) ∧
  (unhashed.contains op = false → op ≠ 0x09 → f'.lSplit = false ∧ f'.lJoin = false ∧ f'.lResume = false) ∧
  (unhashed.contains op = true → f'.sig = u.g.flow.sig ∧ f'.lSplit = u.g.flow.lSplit ∧ f'.lJoin = u.g.flow.lJoin ∧ f'.lResume = u.g.flow.lResume)

/-- R107, R185, R430: lanes of a group that read poison die. Which lanes: of EXEC, those whose own elements among the registers read are poisoned (of SHFL, LANERD and IXRD the element they would take), or every one when an S,
P, C or W register that all read is poisoned. What follows, for every lane instruction: it completes for the other lanes exactly as it does where these lanes are dead already, and UNCORRECTABLE with their mask is delivered, with
the result when the instruction leaves one pending; the dead lanes' bits are set in DEADMASK and none of their registers is written. -/
def Obligations.PoisonKills : Prop :=
  (∀ (i : Instr) (s u : State),
  let m := deathsOf i s.g
  i.isEvent = false → i.shape.hdr.y = false → s.g.able = true → staticCheck i s.g = none → (i.shape.regs.any s.g.marked || i.shape.writes.any s.g.locked) = false →
  tileFault i s = none → State.deliverable s.g = none → m ≠ 0 → s.g.isSys = false → (∀ p ∈ s.g.pend, p.id < s.nextId) → exec i (s.modG (·.kill m)) = .next u →
  u.g.flow.pc = nextPc s.g.flow.pc → u.g.traps.level = s.g.traps.level → u.g.wait = {} → u.g.sched.killed = false → u.g.sched.finalWait = false → u.g.sched.escalated = false →
  ∃ t, exec i s = .next t ∧ t.g.flow = u.g.flow ∧ t.g.regs = u.g.regs ∧ t.g.gstat = u.g.gstat ∧ t.mem = u.mem ∧ t.poison = u.poison ∧ t.accs = u.accs ∧
    match u.g.pend.find? (fun p => decide (s.nextId ≤ p.id) && p.kind != .witness) with
    | none => t.g.pend = u.g.pend ∧ t.g.traps.delivered = u.g.traps.delivered ++ [{ cause := 0x40, value := m.toNat, level := s.g.traps.level }]
    | some p => t.g.traps.delivered = u.g.traps.delivered ∧ t.g.pend = u.g.pend.map fun q => if q.id = p.id then { q with killed := m } else q) ∧
  (∀ (f : F3) (s : State) (i : Instr),
  let m := deathsOf i s.g
  i ∈ [Instr.iadd f, .isub f, .imul f, .imulh f, .imad f, .imadWide f, .imin f, .imax f, .iabs f, .andB f, .orB f, .xor f, .andn f, .shl f, .shr f, .sar f, .rotl f, .popc f, .clz f, .brev f, .bfx f, .bfi f, .sel f, .mov f,
    .lea f, .iext f, .iaddc f, .icmp f, .fadd f, .fsub f, .fmul f, .ffma f, .fdiv f, .fsqrt f, .frcp f, .frsq f, .fex2 f, .flg2 f, .ftanh f, .fsin f, .fcos f, .fscl f, .fmin f, .fmax f, .fclamp f, .frnd f, .fcvt f,
    .icvf f, .fcvi f, .fdot2 f, .fcmp f, .fcls f, .prmt f, .shfl f] →
  s.g.able = true → staticCheck i s.g = none → (i.shape.regs.any s.g.marked || i.shape.writes.any s.g.locked) = false →
  State.deliverable s.g = none → f.h.y = false → m ≠ 0 → s.g.isSys = false → s.g.sched.killed = false → s.g.sched.finalWait = false → (∀ p ∈ s.g.pend, p.id < s.nextId) →
  ∃ t, exec i s = .next t ∧ t.g.flow.pc = nextPc s.g.flow.pc ∧ t.g.flow.dead = s.g.flow.dead ||| m ∧
    t.g.traps.delivered = s.g.traps.delivered ++ [{ cause := 0x40, value := m.toNat, level := s.g.traps.level }] ∧
    (∀ r l, l < 32 → bit m l = true → t.g.rdV r l = s.g.rdV r l) ∧
    (∀ r l, l < 32 → bit m l = true → r < s.g.bound → t.g.vpois r l = true) ∧ t.mem = s.mem) ∧
  (∀ (f : F3) (g : FM) (c : Ctx) (l : Nat), l < 32 →
  let el := fun (r n : Nat) => ∃ k, k < n ∧ c.vpois (r + k) l = true
  let n := f.ty.regs
  let a := el f.a.toNat n
  let b := fun (n : Nat) => f.ib = false ∧ f.ub = false ∧ el f.b.toNat n
  let x := fun (n : Nat) => f.ux = false ∧ el f.x.toNat n
  let dies := fun (i : Instr) (h : Hdr) (P : Prop) => h.y = false → c.regs.up = [] → (bit (deathsOf i c) l = true ↔ bit (c.exec h) l = true ∧ P)
  (∀ i, i ∈ [Instr.iadd f, .isub f, .imul f, .imulh f, .imin f, .imax f, .andB f, .orB f, .xor f, .andn f, .sel f, .iaddc f, .fadd f, .fsub f, .fmul f, .fdiv f, .fmin f, .fmax f, .icmp f, .fcmp f] → dies i f.h (a ∨ b n)) ∧
  (∀ i, i ∈ [Instr.shl f, .shr f, .sar f, .rotl f, .fscl f] → dies i f.h (a ∨ b 1)) ∧
  (∀ i, i ∈ [Instr.imad f, .ffma f, .fclamp f] → dies i f.h (a ∨ b n ∨ x n)) ∧
  (∀ i, i ∈ [Instr.iabs f, .popc f, .clz f, .brev f, .fsqrt f, .frcp f, .frsq f, .fex2 f, .flg2 f, .ftanh f, .fsin f, .fcos f, .frnd f] → dies i f.h a) ∧
  dies (.mov f) f.h (b n) ∧
  (∀ src, f.src = some src → dies (.fcvt f) f.h (el f.a.toNat src.regs)) ∧
  (f.ib = true → dies (.shfl f) f.h (∃ t ok, shflPick f c l = some (t, ok) ∧ ∃ k, k < n ∧ c.vpois (f.a.toNat + k) t = true)) ∧
  (let base := g.ubase = false ∧ el g.base.toNat (if g.space = .g then 2 else 1)
   let index := g.ix = true ∧ g.uidx = false ∧ el g.index.toNat 1
   dies (.ld g) g.h (base ∨ index) ∧ dies (.st g) g.h (base ∨ index ∨ el g.data.toNat g.width.regs)) ∧
  (∀ i r, i.shape.hdr.y = false → i.shape.op ≠ 0x98 → r ∈ i.shape.guard ++ i.shape.sources → c.upois r = true → deathsOf i c = c.exec i.shape.hdr))

/-! ### Integer instructions -/

/-- R133 to R136: the sums, products, quotients, minima and absolute values that a lane writes, `A` and `B`
read as the type reads them, narrowed modulo the width or clamped by .SAT; nothing else changes. With IDZ set, a zero divisor in an acting lane raises INT_DIVZ with the mask of such lanes. (Where R133's worked
value differs from its pseudocode, the pseudocode is followed: DESIGN CHOICE, log 25.) -/
def Obligations.IntegerArithmetic : Prop := ∀ (f : F3) (s : State),
  let w := f.ty.bits
  let A := fun l => (ab f s.g l).1
  let B := fun l => (ab f s.g l).2
  let sat := fun (z : Int) => if f.var = 1 then max (tyMin f.ty) (min (tyMax f.ty) z) else z
  let gives := fun (i : Instr) (is : Nat → Nat → Prop) => Clear i s → Gives i s s.g.gstat (Result s f.h f.d.toNat f.ty.regs is)
  let calm := s.g.gmode.getLsbD 1 = false ∨ ∀ l ∈ actLanes s.g f.h, B l ≠ 0
  gives (.iadd f) (fun l => IsMod w (sat (A l + B l))) ∧
  gives (.isub f) (fun l => IsMod w (sat (A l - B l))) ∧
  gives (.imul f) (fun l => IsMod w (A l * B l)) ∧
  gives (.imulh f) (fun l => IsMod w (A l * B l / ((2 ^ w : Nat) : Int))) ∧
  gives (.imad f) (fun l => IsMod w (A l * B l + valOf f.ty (s.g.xVal f f.ty.regs l))) ∧
  (Clear (.imadWide f) s →
    Gives (.imadWide f) s s.g.gstat (Result s f.h f.d.toNat 2 fun l => IsMod 64 (A l * B l + (s.g.xVal f 2 l : Int)))) ∧
  (calm → gives (.idiv f) (fun l => IsMod w
    (if B l = 0 then (if f.ty.signed ∧ A l < 0 then tyMin f.ty else tyMax f.ty) else (A l).tdiv (B l)))) ∧
  (calm → gives (.irem f) (fun l => IsMod w (if B l = 0 then A l else (A l).tmod (B l)))) ∧
  gives (.imin f) (fun l => IsMod w (min (A l) (B l))) ∧
  gives (.imax f) (fun l => IsMod w (max (A l) (B l))) ∧
  gives (.iabs f) (fun l => IsMod w (sat ((A l).natAbs : Int))) ∧
  (∀ i, i = .idiv f ∨ i = .irem f → Clear i s → s.g.gmode.getLsbD 1 = true → (∃ l ∈ actLanes s.g f.h, B l = 0) →
    exec i s = .next (s.raise 0x08 s.g.flow.pc ((maskOf ((actLanes s.g f.h).filter fun l => B l == 0)).setWidth 64)))

/-- R138, R139, R140, R141: the bits that logic, shifts, counts and bit fields write, bit by bit; nothing else changes. -/
def Obligations.IntegerBits : Prop := ∀ (f : F3) (s : State),
  let w := f.ty.bits
  let a := fun l k => (s.g.aVal f f.ty.regs l).testBit k
  let b := fun l k => (s.g.bVal f f.ty f.ty.regs l).testBit k
  let x := fun l k => (s.g.xVal f f.ty.regs l).testBit k
  let c := fun l => s.g.bWord f l
  let p := fun l => min (c l % 256) w
  let n := fun l => min (c l / 256 % 256) (w - p l)
  let gives := fun (i : Instr) (is : Nat → Nat → Prop) => Clear i s → Gives i s s.g.gstat (Result s f.h f.d.toNat f.ty.regs is)
  gives (.andB f) (fun l => HasBits w fun k => a l k && b l k) ∧
  gives (.orB f) (fun l => HasBits w fun k => a l k || b l k) ∧
  gives (.xor f) (fun l => HasBits w fun k => a l k ^^ b l k) ∧
  gives (.andn f) (fun l => HasBits w fun k => a l k && !b l k) ∧
  gives (.shl f) (fun l => HasBits w fun k => decide (c l ≤ k) && a l (k - c l)) ∧
  gives (.shr f) (fun l => HasBits w fun k => decide (k + c l < w) && a l (k + c l)) ∧
  gives (.sar f) (fun l => HasBits w fun k => a l (min (k + c l) (w - 1))) ∧
  gives (.rotl f) (fun l => HasBits w fun k => a l ((k + (w - c l % w)) % w)) ∧
  (Clear (.popc f) s → Gives (.popc f) s s.g.gstat
    (Result s f.h f.d.toNat 1 fun l v => v = ((List.range w).filter (a l)).length)) ∧
  (Clear (.clz f) s → Gives (.clz f) s s.g.gstat
    (Result s f.h f.d.toNat 1 fun l v => v ≤ w ∧ (∀ k, w ≤ v + k → k < w → a l k = false) ∧ (v < w → a l (w - 1 - v) = true))) ∧
  gives (.brev f) (fun l => HasBits w fun k => a l (w - 1 - k)) ∧
  gives (.bfx f) (fun l => HasBits w fun k =>
    if n l = 0 then false else if f.ty.signed then a l (p l + min k (n l - 1)) else decide (k < n l) && a l (p l + k)) ∧
  gives (.bfi f) (fun l => HasBits w fun k => if p l ≤ k ∧ k < p l + n l then a l (k - p l) else x l k)

/-- R142, R143, R144, R145, R146, R147, R137: moves, selection, addresses, carries and predicates; nothing else changes. IADDC writes its sum and
its carry. -/
def Obligations.IntegerMoves : Prop := ∀ (f : F3) (fi : FI) (s : State),
  let w := f.ty.bits
  let a := fun l => s.g.aVal f f.ty.regs l
  let b := fun l => s.g.bVal f f.ty f.ty.regs l
  let px := fun l => rdPred s.g f.h.y f.x.toNat l
  let src := f.src.getD .i32
  let v := fun l => valOf src (s.g.aVal f src.regs l)
  let t : Nat → Int := fun l => if f.var = 1 then (a l : Int) - b l - (px l).toNat else (a l : Int) + b l + (px l).toNat
  let gives := fun (i : Instr) (n : Nat) (is : Nat → Nat → Prop) => Clear i s → Gives i s s.g.gstat (Result s f.h f.d.toNat n is)
  let sets := fun (i : Instr) (is : Nat → Bool) => Clear i s → Gives i s s.g.gstat (ResultP s f.h f.d.toNat is)
  gives (.sel f) f.ty.regs (fun l z => z = if px l then a l else b l) ∧
  gives (.mov f) f.ty.regs (fun l z => z = b l) ∧
  (Clear (.movi fi) s → Gives (.movi fi) s s.g.gstat (Result s fi.h fi.d.toNat fi.ty.regs fun _ z => z = fi.imm.toNat)) ∧
  gives (.lea f) 2 (fun l => IsMod 64 ((s.g.aVal f 2 l : Int) +
    (if f.var.getLsbD 2 then ((s.g.bWord f l : Nat) : Int) else (BitVec.ofNat 32 (s.g.bWord f l)).toInt) * ((2 ^ (f.var.toNat % 4) : Nat) : Int) + f.imm.toInt)) ∧
  gives (.iext f) f.ty.regs (fun l => IsMod w (if f.imm = 1 then max (tyMin f.ty) (min (tyMax f.ty) (v l)) else v l)) ∧
  (Clear (.iaddc f) s → Gives (.iaddc f) s s.g.gstat fun g =>
    Result s f.h f.d.toNat f.ty.regs (fun l => IsMod w (t l)) g ∧
    ResultP s f.h f.x.toNat (fun l => if f.var = 1 then decide (t l < 0) else decide (((2 ^ w : Nat) : Int) ≤ t l)) g) ∧
  sets (.pset f) (fun l => f.var.getLsbD (2 * (rdPred s.g f.h.y f.a.toNat l).toNat + (rdPred s.g f.h.y f.b.toNat l).toNat)) ∧
  sets (.icmp f) (fun l =>
    let A := (ab f s.g l).1
    let B := (ab f s.g l).2
    let c := match f.var.toNat % 8 with
      | 0 => decide (A = B) | 1 => decide (A ≠ B) | 2 => decide (A < B) | 3 => decide (A ≤ B) | 4 => decide (A > B) | _ => decide (A ≥ B)
    match f.var.toNat / 8 with
    | 0 => c | 1 => c && px l | 2 => c || px l | _ => c ^^ px l)

/-- R149, R150, R151: XACQ, XACQ.TRY and XREL change the held count and nothing else but a result and the registers given up; a request that the
pool cannot serve at once waits (XACQ) or answers false (.TRY, which succeeds only while no XACQ waits on the core); the oldest waiter is granted when the pool can serve it; XREL waits while a register that it gives up
has a write pending or is locked by the operand log (R212). R152, R153: IXRD reads and IXWR writes, in each lane of EXEC, the register that the lane computes; a lane whose index is past the bound
stops both with REGIDX, the lowest such lane in EVAL and nothing written; either waits for pending writes, IXWR for locked registers too (IXWR raises REGIDX before it waits, IXRD after). -/
def Obligations.RegisterBlocks : Prop :=
  (∀ (f : FS) (s : State),
  let t := f.imm.toNat
  let fits := t ≤ s.g.n ∨ s.g.needs t = 0 ∨ (s.waiters s.g.ids.core 0 = [] ∧ s.g.needs t ≤ s.freeGranules s.g.ids.core)
  let fitsTry := s.waiters s.g.ids.core 0 = [] ∧ (t ≤ s.g.n ∨ s.g.needs t ≤ s.freeGranules s.g.ids.core)
  let kept := (∀ p ∈ s.g.pend, ∀ r, 64 + 32 * t ≤ r → Reg.v r ∉ p.marks) ∧ ∀ e ∈ s.g.log, e.state ≠ 0 → ∀ r, 64 + 32 * t ≤ r → Reg.v r ∉ e.locks
  (Clear (.xacq f) s → fits → exec (.xacq f) s = .next (completed (.xacq f) s (s.modG fun g => { g with n := max g.n t }))) ∧
  (Clear (.xacq f) s → ¬ fits → ∃ u, exec (.xacq f) s = .next u ∧ u.g.wait = acqWait 0 t s.now ∧ u.g.flow = s.g.flow ∧
    u.g.n = s.g.n ∧ u.g.regs = s.g.regs ∧ u.mem = s.mem) ∧
  (Clear (.xacqTry f) s → fitsTry →
    exec (.xacqTry f) s = .next (completed (.xacqTry f) s (s.modG fun g => { g.wrC f.d.toNat true with n := max g.n t }))) ∧
  (Clear (.xacqTry f) s → ¬ fitsTry → exec (.xacqTry f) s = .next (completed (.xacqTry f) s (s.modG fun g => g.wrC f.d.toNat false))) ∧
  (Clear (.xrel f) s → s.g.n ≤ t → exec (.xrel f) s = .next (completed (.xrel f) s s)) ∧
  (Clear (.xrel f) s → t < s.g.n → ¬ kept → exec (.xrel f) s = .next (s.modG Ctx.holdAtIssue)) ∧
  (Clear (.xrel f) s → t < s.g.n → kept →
    ∃ r, exec (.xrel f) s = .next (completed (.xrel f) s (s.modG fun g => { g with regs := r, n := t })) ∧
      (∀ k l, l < 32 → k < 64 + 32 * t → ({ s.g with regs := r } : Ctx).rdV k l = s.g.rdV k l ∧
        ({ s.g with regs := r } : Ctx).vpois k l = s.g.vpois k l) ∧
      (∀ k l, l < 32 → 64 + 32 * t ≤ k → ({ s.g with regs := r } : Ctx).rdV k l = 0 ∧ ({ s.g with regs := r } : Ctx).vpois k l = false) ∧
      r.s = s.g.regs.s ∧ r.p = s.g.regs.p ∧ r.c = s.g.regs.c ∧ r.w = s.g.regs.w) ∧
  (∀ g ∈ s.waiters s.arg.id 0, (∀ h ∈ s.waiters s.arg.id 0, h ≠ g → older s.now g h = true) →
    g.needs g.wait.count ≤ s.freeGranules s.arg.id →
    exec .xacqGrant s = .next (s.modCtx g.ids.ref fun x => { x with n := g.wait.count, wait := { g.wait with sat := true } }))) ∧
  (∀ (f : F3) (s : State),
  let ix := fun l => f.imm.toNat + (s.g.rdV f.a.toNat l).toNat
  let acts := lanes (s.g.exec f.h)
  let free := ∀ p ∈ s.g.pend, ∀ r, Reg.v r ∉ p.marks
  let open_ := ∀ l ∈ acts, s.g.locked (.v (ix l)) = false
  (Clear (.ixrd f) s → free → (∀ l ∈ acts, ix l < s.g.bound ∧ s.g.vpois (ix l) l = false) →
    Gives (.ixrd f) s s.g.gstat (Result s f.h f.d.toNat 1 fun l x => x = (s.g.rdV (ix l) l).toNat)) ∧
  (∀ i, i = .ixrd f ∧ ¬ free ∨ i = .ixwr f ∧ (∀ l ∈ acts, ix l < s.g.bound) ∧ ¬ (free ∧ open_) → Clear i s → exec i s = .next (s.modG Ctx.holdAtIssue)) ∧
  (Clear (.ixwr f) s → free → open_ → (∀ l ∈ acts, ix l < s.g.bound) →
    ∃ r, exec (.ixwr f) s = .next (completed (.ixwr f) s (s.modG fun g => { g with regs := r })) ∧
      (∀ k l, l < 32 → (l ∉ acts ∨ k ≠ ix l) → ({ s.g with regs := r } : Ctx).rdV k l = s.g.rdV k l ∧
        ({ s.g with regs := r } : Ctx).vpois k l = s.g.vpois k l) ∧
      (∀ l ∈ acts, ({ s.g with regs := r } : Ctx).rdV (ix l) l = BitVec.ofNat 32 (s.g.rd f.ub f.b.toNat l 1) ∧
        ({ s.g with regs := r } : Ctx).vpois (ix l) l = false) ∧
      r.s = s.g.regs.s ∧ r.p = s.g.regs.p ∧ r.c = s.g.regs.c ∧ r.w = s.g.regs.w) ∧
  (∀ i, i = .ixrd f ∧ free ∨ i = .ixwr f → Clear i s → ∀ l ∈ acts, s.g.bound ≤ ix l → (∀ k ∈ acts, k < l → ix k < s.g.bound) →
    exec i s = .next (s.raise 0x07 s.g.flow.pc (BitVec.ofNat 64 (l * 2 ^ 32 + min (ix l) 0xFFFFFFFF)))))

/-! ### Floating point -/

/-- R158, R160, R161, R162, R163, R164, R165, R167, R169, R170, R171, R172: each floating-point and conversion instruction completes, writing in every
acting lane the rounded value of its operands, read as their type reads them, and ORing the flags of every acting lane into GSTAT; nothing
else changes. -/
def Obligations.FloatResults : Prop := ∀ (f : F3) (s : State),
  let A := aF f s.g
  let B := bF f s.g
  let X := xF f s.g
  let c := ctlOf s.g f f.ty
  let src := f.src.getD .f32
  let isrc := f.src.getD .i32
  let S := fun l => (opF s.g src (s.g.aVal f src.regs l)).2
  let rawA := fun l => opF s.g f.ty (s.g.aVal f f.ty.regs l)
  let rawB := fun l => opF s.g f.ty (s.g.bVal f f.ty f.ty.regs l)
  let rawX := fun l => opF s.g f.ty (s.g.xVal f f.ty.regs l)
  let half := fun (x k : Nat) => (opF s.g f.ty (x / 2 ^ (16 * k) % 2 ^ 16)).2
  let b1 := fun l => s.g.rd f.ub f.b.toNat l 1
  let gives := fun (i : Instr) (n : Nat) (v : Nat → Nat × Nat) => Clear i s →
    Gives i s (s.g.gstat ||| BitVec.ofNat 32 (orFlags (actLanes s.g f.h) fun l => (v l).2))
      (Result s f.h f.d.toNat n fun l x => x = (v l).1)
  let r := f.ty.regs
  gives (.fadd f) r (fun l => fvAdd (c l) (A l) (B l)) ∧
  gives (.fsub f) r (fun l => fvAdd (c l) (A l) (B l).neg) ∧
  gives (.fmul f) r (fun l => match fvMul (A l) (B l) with | none => (c l).nan true | some p => (c l).of p) ∧
  gives (.ffma f) r (fun l => fvFma (c l) (A l) (B l) (X l)) ∧
  gives (.fdiv f) r (fun l => fvDiv (c l) (A l) (B l)) ∧
  gives (.fsqrt f) r (fun l => fvSqrt (c l) (A l)) ∧
  gives (.frcp f) r (fun l => fvDiv (c l) (.fin false 1 0) (A l)) ∧
  gives (.frsq f) r (fun l => fvRsqrt (c l) (A l)) ∧
  gives (.fex2 f) r (fun l => fvExp2 (c l) (A l)) ∧
  gives (.flg2 f) r (fun l => fvLog2 (c l) (A l)) ∧
  gives (.ftanh f) r (fun l => fvTanh (c l) (A l)) ∧
  gives (.fsin f) r (fun l => fvTrig (c l) false (A l)) ∧
  gives (.fcos f) r (fun l => fvTrig (c l) true (A l)) ∧
  gives (.fscl f) r (fun l => match A l with
    | .fin n m e => (c l).exact n m (e + signedOf 32 (s.g.bWord f l)) | v => (c l).of v) ∧
  gives (.fmin f) r (fun l => fvMinMax (fmtOf f.ty) true (f.var == 1) (rawA l) (rawB l)) ∧
  gives (.fmax f) r (fun l => fvMinMax (fmtOf f.ty) false (f.var == 1) (rawA l) (rawB l)) ∧
  gives (.fclamp f) r (fun l => clampF (fmtOf f.ty) (rawA l) (rawB l) (rawX l)) ∧
  gives (.frnd f) r (fun l => match A l with
    | .fin n m e => if 0 ≤ e then (c l).exact n m e else (c l).exact n (toIntegral f.rnd n m e).1 0 | v => (c l).of v) ∧
  gives (.fcvt f) r (fun l => convert { c l with sat := f.imm == 1 } (S l)) ∧
  gives (.icvf f) r (fun l => let i := valOf isrc (s.g.aVal f isrc.regs l); (c l).exact (i < 0) i.natAbs 0) ∧
  gives (.fcvi f) r (fun l => toInt f.ty f.rnd (S l)) ∧
  gives (.fdot2 f) 1 (fun l => dot2 (ctlOf s.g f .f32 l) (half (s.g.aVal f 1 l) 0) (half (b1 l) 0) (half (s.g.aVal f 1 l) 1) (half (b1 l) 1)
    (opF s.g .f32 (s.g.xVal f 1 l)).2)

/-- R166, R168, R174, R175: comparisons and classes write a predicate or a class word, FPACK a block's elements and its scale, FUNPK the
elements of a block; the flags go to GSTAT and nothing else changes. R82, R84, R87, R88: what a block is: the scale follows the largest magnitude; each element is its value over the scale, rounded once and saturated; a block of zeros
keeps their signs, one with a NaN or an infinity is all zero under the NaN scale with IV; what an element denotes under its scale. (Under .RD and .RP an element rounds as its signed value does: DESIGN CHOICE, log 100.) -/
def Obligations.FloatBlocks : Prop :=
  (∀ (t : Ty) (mode : Rnd) (dr : Nat → DWord) (vs : List FV),
  let w := match t with | .mxe2m1 => 4 | .mxe3m2 | .mxe2m3 => 6 | .sx2 => 3 | .sx4 => 5 | _ => 8
  let r := packBlock t mode dr vs
  let code := fun i => r.1 / 2 ^ (w * i) % 2 ^ w
  let special := ∃ v ∈ vs, ∀ n m e, v ≠ .fin n m e
  let zero := ∀ v ∈ vs, v.isZero = true
  let below := fun (m : Nat) (e x : Int) => m * 2 ^ (e - min e x).toNat < 2 ^ (x - min e x).toNat
  let top := fun (us : List FV) (lg : Int) => (∀ n m e, FV.fin n m e ∈ us → below m e (lg + 1)) ∧ ∃ n m e, FV.fin n m e ∈ us ∧ ¬ below m e lg
  let M := match t with | .sx2 => 2 | .sx4 => 4 | _ => 7
  let emax : Int := match t with | .mxe4m3 => 8 | .mxe5m2 => 15 | .mxe3m2 => 4 | .mxe2m3 | .mxe2m1 => 2 | _ => 0
  (t.isMX = true → vs.length = 32 →
    (special → r = (0, 0xFF, fIV)) ∧
    (zero → r.2 = (0, 0) ∧ ∀ i n m e, vs[i]? = some (.fin n m e) → code i = if t ≠ .mxi8 ∧ n = true then 2 ^ (w - 1) else 0) ∧
    (∀ lg, ¬ special → top vs lg →
      let e : Int := max (-127) (min 127 (lg - emax))
      (r.2.1 : Int) = e + 127 ∧ ∀ i n m k, vs[i]? = some (.fin n m k) →
        if t = .mxi8 then ∃ j, RoundsTo mode (dr i) n m (k + 6 - e) j ∧ code i = if n then (256 - min j 128) % 256 else min j 127
        else code i = (RoundCtl.exact { f := fmtOf t, mode, x := dr i, sat := true } n m (k - e)).1)) ∧
  (t.isSX = true → vs.length = 16 →
    (special → r = (0, 0xFF00, fIV)) ∧
    (zero → r.2 = (0x00FF, 0) ∧ ∀ i n m e, vs[i]? = some (.fin n m e) → code i = if n then 2 ^ M else 0) ∧
    (∀ lg, ¬ special → top vs lg →
      let E : Int := max 0 (min 254 (lg + 127))
      let mj := fun j => r.2.1.testBit j
      ((r.2.1 / 256 : Nat) : Int) = E ∧ (∀ j, j < 8 → (mj j = true ↔ ∀ n m e, FV.fin n m e ∈ (vs.drop (2 * j)).take 2 → below m e (E - 127))) ∧
      ∀ i n m k, vs[i]? = some (.fin n m k) →
        ∃ j, RoundsTo mode (dr i) n m (k + (M - 1 : Nat) + 127 - E + (mj (i / 2)).toNat) j ∧ code i = min j (2 ^ M - 1) + if n then 2 ^ M else 0))) ∧
  (∀ (t : Ty) (field sc i : Nat),
  let w := match t with | .mxe2m1 => 4 | .mxe3m2 | .mxe2m3 => 6 | .sx2 => 3 | .sx4 => 5 | _ => 8
  let x := field / 2 ^ (w * i) % 2 ^ w
  let v := blockElem t field sc i
  (t.isMX = true → sc % 256 = 255 → v = .nan false) ∧
  (t = .mxi8 → sc % 256 ≠ 255 → ∃ n m, v = .fin n m ((sc % 256 : Nat) - 133) ∧ (if n then -(m : Int) else m) = (BitVec.ofNat 8 x).toInt) ∧
  (t.isMX = true → t ≠ .mxi8 → sc % 256 ≠ 255 → v = match FV.read (fmtOf t) x with | .fin n m e => .fin n m (e + (sc % 256 : Nat) - 127) | u => u) ∧
  (t.isSX = true → sc / 256 % 256 = 255 → v = .nan false) ∧
  (t.isSX = true → sc / 256 % 256 ≠ 255 →
    v = .fin (x.testBit (w - 1)) (x % 2 ^ (w - 1)) ((sc / 256 % 256 : Nat) - 127 - (sc.testBit (i / 2)).toNat - (w - 2 : Nat)))) ∧
  (∀ (f : F3) (s : State),
  let A := aF f s.g
  let B := bF f s.g
  let un := fun l => (A l).isNan || (B l).isNan
  let px := fun l => rdPred s.g f.h.y f.x.toNat l
  let flags := fun (v : Nat → Nat) => s.g.gstat ||| BitVec.ofNat 32 (orFlags (actLanes s.g f.h) v)
  let cls := fun l => classBit (fmtOf f.ty) (FV.read (fmtOf f.ty) (s.g.aVal f f.ty.regs l))
  (Clear (.fcmp f) s → Gives (.fcmp f) s
    (flags fun l => if (A l).isSig || (B l).isSig || (un l && decide (2 ≤ f.var.toNat % 8 ∧ f.var.toNat % 8 ≤ 5)) then fIV else 0)
    (ResultP s f.h f.d.toNat fun l =>
      let c := match f.var.toNat % 8 with
        | 0 => fvEq (A l) (B l) | 1 => !fvEq (A l) (B l) | 2 => fvLt (A l) (B l) | 3 => fvLt (A l) (B l) || fvEq (A l) (B l)
        | 4 => fvLt (B l) (A l) | 5 => fvLt (B l) (A l) || fvEq (A l) (B l) | 6 => un l | _ => !un l
      match f.var.toNat / 8 with | 0 => c | 1 => c && px l | 2 => c || px l | _ => c ^^ px l)) ∧
  (Clear (.fcls f) s → f.var = 0 → Gives (.fcls f) s s.g.gstat (Result s f.h f.d.toNat 1 fun l x => x = 2 ^ cls l)) ∧
  (Clear (.fcls f) s → f.var = 1 → Gives (.fcls f) s s.g.gstat (ResultP s f.h f.d.toNat fun l => f.imm.getLsbD (cls l))) ∧
  (Clear (.fpack f) s → Gives (.fpack f) s (flags fun l => (packLane f s.g l).2.2) fun g =>
    Result s f.h f.d.toNat f.ty.blockRegs (fun l x => x = (packLane f s.g l).1) g ∧
    Result s f.h f.x.toNat 1 (fun l x => x = (packLane f s.g l).2.1) g) ∧
  (Clear (.funpk f) s → Gives (.funpk f) s (flags fun l => (unpackLane f s.g l).foldl (fun a e => a ||| e.2) 0)
    fun g => ∀ l ∈ actLanes s.g f.h, ∀ k, k < (f.src.getD .sx4).blockElems →
      ∃ v, (unpackLane f s.g l)[k]? = some v ∧ g.rdV (f.d.toNat + k) l = BitVec.ofNat 32 v.1 ∧ g.vpois (f.d.toNat + k) l = false))

/-- R78, R79, R161, R162, R163, R165: the special results of the value operations and functions: NaNs, infinities, zeros, zero divisors, negative roots, and the
operand that FMIN and FMAX return beside a NaN. R77, R78, R79, R80, R162, R163: rounding: in every format a value goes to the nearest encoding, the even one of two, or to the neighbour in the mode's direction, under .RS to the one
that the draw chooses, with NX raised just when it is inexact; one beyond the largest finite number goes where R78 and R79 send it; a quotient, a square root and a reciprocal square root are rounded so from their exact values, and
FRND and FCVI round so to an integer. R77, R78: a finite value that a format holds exactly rounds to its own encoding with no flag, in every rounding mode, for the formats of
F16, BF16, F32, F64 and E5M2 (subnormals under FTZ aside: R75). -/
def Obligations.FloatSpecials : Prop :=
  (∀ (c : RoundCtl) (n k : Bool) (m : Nat) (e : Int) (a b : FV) (fm : Fmt) (lo : Bool) (x y : Nat),
  (a.isNan = true ∨ b.isNan = true → fvAdd c a b = (c.f.nanBits, if a.isSig || b.isSig then fIV else 0)) ∧
  fvAdd c (.inf n) (.inf !n) = (c.f.nanBits, fIV) ∧
  (0 < m → fvMul (.fin n m e) (.inf k) = some (.inf (n != k))) ∧
  fvMul (.fin n 0 e) (.inf k) = none ∧
  fvFma c (.fin n 0 e) (.inf k) a = (c.f.nanBits, fIV) ∧
  (0 < m → fvDiv c (.fin n m e) (.fin k 0 e) = c.inf (n != k) fDZ) ∧
  fvDiv c (.fin n 0 e) (.fin k 0 e) = (c.f.nanBits, fIV) ∧
  fvDiv c (.inf n) (.inf k) = (c.f.nanBits, fIV) ∧
  (0 < m → fvSqrt c (.fin true m e) = (c.f.nanBits, fIV)) ∧
  fvSqrt c (.fin n 0 e) = (withSign c.f n 0, 0) ∧
  (a.isNan = false → fvMinMax fm lo false (x, a) (y, .nan n) = (x, if n then fIV else 0)) ∧
  (a.isNan = false → fvMinMax fm lo false (y, .nan n) (x, a) = (x, if n then fIV else 0)) ∧
  fvMinMax fm lo true (x, a) (y, .nan n) = (fm.nanBits, if a.isSig || n then fIV else 0) ∧
  fvDiv c (.fin false 1 0) (.inf n) = (withSign c.f n 0, 0) ∧ fvRsqrt c (.fin n 0 e) = c.inf n fDZ ∧ (0 < m → fvRsqrt c (.fin true m e) = (c.f.nanBits, fIV)) ∧ fvRsqrt c (.inf false) = (0, 0) ∧
  fvExp2 c (.inf n) = (if n then (0, 0) else c.inf false) ∧ fvExp2 c (.fin n m 0) = c.exact false 1 (if n then -(m : Int) else m) ∧
  fvLog2 c (.fin n 0 e) = c.inf true fDZ ∧ (0 < m → fvLog2 c (.fin true m e) = (c.f.nanBits, fIV)) ∧ fvLog2 c (.inf false) = c.inf false ∧ fvLog2 c (.fin false 1 e) = c.exact (e < 0) e.natAbs 0 ∧
  fvTanh c (.inf n) = c.exact n 1 0 ∧ fvTanh c (.fin n 0 e) = (withSign c.f n 0, 0) ∧ fvTrig c lo (.inf n) = (c.f.nanBits, fIV) ∧ fvTrig c false (.fin n 0 e) = (withSign c.f n 0, 0) ∧
  fvTrig c true (.fin n 0 e) = c.exact false 1 0 ∧
  (∀ g ∈ [fvSqrt, fvRsqrt, fvExp2, fvLog2, fvTanh, fun c a => fvTrig c lo a], g c (.nan n) = (c.f.nanBits, if n then fIV else 0)) ∧
  (c.mode ≠ .rs → RoundsTo c.mode 0 n m e (toIntegral c.mode n m e).1 ∧ ((toIntegral c.mode n m e).2 = true ↔ m * 2 ^ e.toNat % 2 ^ (-e).toNat = 0))) ∧
  (∀ (c : RoundCtl) (n n' : Bool) (m m' : Nat) (e e' : Int),
  let f := c.f
  let k := min e (f.emin - f.fb)
  let N := f.mag k f.maxBits
  let ulp := N - f.mag k (f.maxBits - 1)
  let V := m * 2 ^ (e - k).toNat
  let low := fun x => x ≤ 2 * V
  let high := fun x => 2 * V ≤ x
  let r := c.exact n m e
  let chance := fun (lo gap : Nat) => c.x.toNat / 2 ^ 32 < (V - lo) * 2 ^ 32 / gap
  f ∈ [Fmt.f16, Fmt.bf16, Fmt.f32, Fmt.f64, Fmt.e5m2, Fmt.e4m3', Fmt.e3m2, Fmt.e2m3, Fmt.e2m1] → c.ftz = false → 0 < m →
  (V ≤ N → c.mode ≠ .rs → ∃ b, r.1 = withSign f n b ∧ Rounds f c.mode n k low high b ∧ (r.2.testBit 4 = true ↔ f.mag k b ≠ V)) ∧
  (V ≤ N → c.mode = .rs → ∃ b, Rounds f .rz n k low high b ∧
    r.1 = withSign f n (if f.mag k b ≠ V ∧ chance (f.mag k b) (f.mag k (b + 1) - f.mag k b) then b + 1 else b)) ∧
  (N < V →
    let away := match c.mode with
      | .rn => decide (2 * N + ulp ≤ 2 * V) | .rz => false | .rd => n | .rp => !n | .rs => decide (N + ulp ≤ V ∨ chance N ulp)
    r.1 = withSign f n (if f.ieee && !c.sat && away then f.infBits else f.maxBits) ∧ r.2.testBit 4 = true) ∧
  (let k := f.emin - f.fb
   let j := min e (k + e')
   let low := fun x => x * m' * 2 ^ (k + e' - j).toNat ≤ 2 * m * 2 ^ (e - j).toNat
   let high := fun x => 2 * m * 2 ^ (e - j).toNat ≤ x * m' * 2 ^ (k + e' - j).toNat
   0 < m' → high (2 * f.mag k f.maxBits) → c.mode ≠ .rs → ∃ b, (fvDiv c (.fin n m e) (.fin n' m' e')).1 = withSign f (n != n') b ∧ Rounds f c.mode (n != n') k low high b) ∧
  (let k := f.emin - f.fb
   let j := min e (2 * k)
   let low := fun x => x * x * 2 ^ (2 * k - j).toNat ≤ 4 * m * 2 ^ (e - j).toNat
   let high := fun x => 4 * m * 2 ^ (e - j).toNat ≤ x * x * 2 ^ (2 * k - j).toNat
   high (2 * f.mag k f.maxBits) → c.mode ≠ .rs → ∃ b, (fvSqrt c (.fin false m e)).1 = b ∧ Rounds f c.mode false k low high b) ∧
  (∀ a, let k := f.emin - f.fb
   let t := 2 * k + e
   let low := fun x => x * x * m * 2 ^ t.toNat ≤ 4 * 2 ^ (-t).toNat
   let high := fun x => 4 * 2 ^ (-t).toNat ≤ x * x * m * 2 ^ t.toNat
   f ∈ [Fmt.f16, Fmt.bf16, Fmt.f32] → FV.read f a = .fin false m e → c.mode ≠ .rs → ∃ b, (fvRsqrt c (.fin false m e)).1 = b ∧ Rounds f c.mode false k low high b)) ∧
  (∀ (c : RoundCtl) (x : Nat) (n : Bool) (m : Nat) (e : Int),
  c.f ∈ [Fmt.f16, Fmt.bf16, Fmt.f32, Fmt.f64, Fmt.e5m2] → x < 2 ^ (c.f.signBit + 1) → FV.read c.f x = .fin n m e →
  c.ftz = false ∨ 2 ^ c.f.fb ≤ m → c.exact n m e = (x, 0))

/-! ### Lane exchange -/

/-- R179, R180: SHFL, LANERD and LANEWR move values between lanes as the rules' pseudocode says, dead and exited lanes giving nothing; nothing
else changes. (A poisoned element that a lane would take kills it instead: `PoisonKills`.). R181, R182, R183: PRMT picks nibbles, VOTE combines the inputs of EXEC, MATCH compares the lanes of EXEC; nothing else changes. -/
def Obligations.LaneInstructions : Prop :=
  (∀ (f : F3) (s : State),
  let g := s.g
  let n := f.ty.regs
  let a := fun l => g.aVal f n l
  let sound := ∀ k, k < n → ∀ l, l < 32 → g.vpois (f.a.toNat + k) l = false
  let seg := 2 ^ (f.var.toNat / 4)
  let base := fun l => l - l % seg
  let from' : Nat → Option Nat := fun l =>
    let b := g.bWord f l
    match f.var.toNat % 4 with
    | 0 => some (base l + b % seg)
    | 1 => some (base l + (l % seg + b) % seg)
    | 2 =>
      let t : Int := l + (BitVec.ofNat 32 b).toInt
      if t < (base l : Int) ∨ ((base l + seg : Nat) : Int) ≤ t then none else some t.toNat
    | _ => some (base l + (seg - 1 - l % seg + b) % seg)
  let inActive := fun (t : Option Nat) => t.any (fun t => bit g.flow.active t)
  let dead := fun (t : Option Nat) => t.any (fun t => bit g.flow.dead t)
  let t := g.bWord f 0
  let alive := decide (t < 32) && !bit g.flow.dead t
  (Clear (.shfl f) s → sound → Gives (.shfl f) s g.gstat fun g' =>
    Result s f.h f.d.toNat n (fun l x => x =
      if inActive (from' l) = false then a l else if dead (from' l) then 0 else a ((from' l).getD 0)) g' ∧
    ResultP s f.h f.x.toNat (fun l => inActive (from' l) && !dead (from' l)) g') ∧
  (Clear (.lanerd f) s → sound → Gives (.lanerd f) s g.gstat fun g' =>
    Result s f.h f.d.toNat n (fun _ x => x = if alive then a t else 0) g' ∧ ResultP s f.h f.x.toNat (fun _ => alive) g') ∧
  (Clear (.lanewr f) s → Gives (.lanewr f) s g.gstat fun g' =>
    (bit (g.exec f.h) f.var.toNat = true → Holds g' false f.d.toNat f.var.toNat n (g.bVal f f.ty n f.var.toNat)) ∧
    (∀ r l, l < 32 → l ≠ f.var.toNat → g'.rdV r l = g.rdV r l ∧ g'.vpois r l = g.vpois r l))) ∧
  (∀ (f : F3) (s : State),
  let g := s.g
  let e := g.exec f.h
  let acts := lanes e
  let z := fun l => g.aVal f 1 l + 2 ^ 32 * if f.var.getLsbD 0 then g.rd f.ub f.b.toNat l 1 else g.bVal f .b32 1 l
  let sel := fun l => if f.var.getLsbD 0 then f.imm.toNat else g.xVal f 1 l
  let nib := fun l k => (z l).testBit (4 * (sel l / 2 ^ (4 * (k / 4)) % 16) + k % 4)
  let ext := 8 * (f.var.toNat / 2)
  let v := fun l => bit (g.rdP f.a.toNat) l ^^ f.var.getLsbD 2
  let same := fun l => acts.filter (fun x => g.aVal f f.ty.regs x == g.aVal f f.ty.regs l)
  (Clear (.prmt f) s → Gives (.prmt f) s g.gstat (Result s f.h f.d.toNat 1 fun l => HasBits 32 fun k =>
    nib l (if f.var.toNat / 2 = 0 then k else min k (ext - 1)))) ∧
  (Clear (.vote f) s → f.var.toNat % 4 ≠ 3 → Gives (.vote f) s g.gstat (ResultP s f.h f.d.toNat fun _ =>
    match f.var.toNat % 4 with
    | 0 => acts.all v | 1 => acts.any v | _ => acts.all v || acts.all (fun l => !v l))) ∧
  (Clear (.vote f) s → f.var.toNat % 4 = 3 → Gives (.vote f) s g.gstat
    (Result s f.h f.d.toNat 1 fun _ => HasBits 32 fun l => bit e l && v l)) ∧
  (Clear (.laneMatch f) s → Gives (.laneMatch f) s g.gstat fun g' =>
    Result s f.h f.d.toNat 1 (fun l x => match f.var.toNat with
      | 0 => x ∈ same l ∧ ∀ y ∈ same l, x ≤ y
      | 1 => HasBits 32 (fun y => (same l).contains y) x
      | _ => x = ((same l).filter (· < l)).length + 256 * (same l).length) g' ∧
    ResultP s f.h f.x.toNat (fun l => if f.var.toNat = 1 then acts.all (fun y => g.aVal f f.ty.regs y == g.aVal f f.ty.regs l)
      else (same l).all (l ≤ ·)) g'))

/-- R184: REDUX and SCANL write the prefix of the fixed tree, and OR the flags of its combines into GSTAT (of every combine of the tree, those that no prefix of SCANL uses among them: DEDUCED, log 26); nothing else changes. R184: for integer and bit types, REDUX .ADD writes the sum of the values of the lanes of EXEC, and SCANL .ADD the sum over those below or up
to the lane, modulo the width. -/
def Obligations.Reductions : Prop :=
  (∀ (f : F3) (s : State),
  let idn := redIdentity f.ty (f.var.toNat % 8)
  let tree := redTree f s.g
  let pre := fun m => redPrefix f s.g tree m 6 0 (idn, 0)
  let gives := fun (i : Instr) (m : Nat → Nat) => Clear i s →
    Gives i s (s.g.gstat ||| BitVec.ofNat 32 (tree.flatten.foldl (fun a n => a ||| n.2) 0 ||| orFlags (actLanes s.g f.h) fun l => (pre (m l)).2))
      (Result s f.h f.d.toNat f.ty.regs fun l x => x = (pre (m l)).1)
  gives (.redux f) (fun _ => 32) ∧ gives (.scanl f) (fun l => if f.var.getLsbD 3 then l else l + 1)) ∧
  (∀ (f : F3) (s : State),
  let v : Nat → Int := fun l => (s.g.aVal f f.ty.regs l : Int)
  let sum : Nat → Int := fun m => (((lanes (s.g.exec f.h)).filter (· < m)).map v).sum
  f.ty.isF = false → f.var.toNat % 8 = 0 →
  (Clear (.redux f) s → Gives (.redux f) s s.g.gstat (Result s f.h f.d.toNat f.ty.regs fun _ => IsMod f.ty.bits (sum 32))) ∧
  (Clear (.scanl f) s → Gives (.scanl f) s s.g.gstat
    (Result s f.h f.d.toNat f.ty.regs fun l => IsMod f.ty.bits (sum (if f.var.getLsbD 3 then l else l + 1)))))

/-! ### Control -/

/-- R113, R114, R115, R116, R118: branches, calls and SPLIT: where control goes, which lanes stay active, what is pushed; an instruction that
would leave more than 30 entries raises RSTACK_OVF with the depth, a divergent BRA that pushes one entry or two among them (R109). R117, R119, R120: JOIN and RET close, switch or fall through by the entry on top of the stack, and what they transfer to is checked as they issue (R62): that a slot starts
there, and for RET's return the target's line and T bit too (R36); RET without a CALL entry raises BADTARGET. -/
def Obligations.BranchesAndJoins : Prop :=
  (∀ (f : FB) (f3 : F3) (s : State),
  let fl := s.g.flow
  let tk := if f.h.gi = 7 then fl.active else fl.active &&& ~~~fl.dead &&& s.g.guardMask f.h
  let nt := fl.active &&& ~~~tk
  let dest := branchTarget fl.pc f
  let fall := nextPc fl.pc
  let live := fl.active &&& ~~~fl.dead
  let landing := jumpTarget s.g f3
  let deferred : Entry := { kind := .split, d := true, addr := fall, mask := nt }
  let opened : Entry := { kind := .split, b := true, mask := fl.active }
  let room := fun n => fl.stack.length + n ≤ 30
  let runs := fun i => Clear i s ∧ Reaches i s
  (runs (.braDiv f) → nt = 0 → Moves (.braDiv f) s dest fl.active fl.stack) ∧
  (runs (.braDiv f) → tk = 0 → nt ≠ 0 → Moves (.braDiv f) s fall fl.active fl.stack) ∧
  (∀ e rest, runs (.braDiv f) → tk ≠ 0 → nt ≠ 0 → fl.stack = e :: rest → e.kind = .split → e.d = true ∧ e.addr = fall →
    Moves (.braDiv f) s dest tk ({ e with mask := e.mask ||| nt } :: rest)) ∧
  (∀ e rest, runs (.braDiv f) → tk ≠ 0 → nt ≠ 0 → fl.stack = e :: rest → e.kind = .split → ¬ (e.d = true ∧ e.addr = fall) → room 1 →
    Moves (.braDiv f) s dest tk (deferred :: fl.stack)) ∧
  (runs (.braDiv f) → tk ≠ 0 → nt ≠ 0 → (∀ e rest, fl.stack = e :: rest → e.kind ≠ .split) → room 2 →
    Moves (.braDiv f) s dest tk (deferred :: opened :: fl.stack)) ∧
  (runs (.braAny f) → Moves (.braAny f) s (if tk &&& ~~~fl.dead ≠ 0 then dest else fall) fl.active fl.stack) ∧
  (runs (.braAll f) → Moves (.braAll f) s (if tk &&& ~~~fl.dead = live then dest else fall) fl.active fl.stack) ∧
  (runs (.brc f) → Moves (.brc f) s dest fl.active fl.stack) ∧
  (runs (.jmpi f3) → Moves (.jmpi f3) s landing fl.active fl.stack) ∧
  (runs (.call f) → tk = 0 → Moves (.call f) s fall fl.active fl.stack) ∧
  (runs (.call f) → tk ≠ 0 → room 1 → Moves (.call f) s dest tk ({ kind := .call, addr := fall, mask := fl.active } :: fl.stack)) ∧
  (runs (.calli f3) → room 1 → Moves (.calli f3) s landing fl.active ({ kind := .call, addr := fall, mask := fl.active } :: fl.stack)) ∧
  (runs (.split f) → tk = 0 → Moves (.split f) s (nextPc dest) fl.active fl.stack) ∧
  (runs (.split f) → tk ≠ 0 → room 1 → Moves (.split f) s fall tk ({ kind := .split, addr := dest, mask := fl.active } :: fl.stack)) ∧
  let merges := ∃ e rest, fl.stack = e :: rest ∧ e.kind = .split ∧ e.d = true ∧ e.addr = fall
  let region := ∃ e rest, fl.stack = e :: rest ∧ e.kind = .split
  let full := fun i => i = .split f ∧ tk ≠ 0 ∧ ¬ room 1 ∨ i = .call f ∧ tk ≠ 0 ∧ ¬ room 1 ∨ i = .calli f3 ∧ ¬ room 1 ∨
    i = .braDiv f ∧ tk ≠ 0 ∧ nt ≠ 0 ∧ (region ∧ ¬ merges ∧ ¬ room 1 ∨ ¬ region ∧ ¬ room 2)
  (∀ i, full i → runs i →
    ∃ u, targetsCheck s (targetsOf i s.g) = .ok u ∧ exec i s = .next (u.raise 0x0B fl.pc (BitVec.ofNat 64 fl.stack.length)))) ∧
  (∀ (f : FS) (s : State) (e e2 : Entry) (rest : List Entry),
  let fl := s.g.flow
  let here := fl.pc
  let fall := nextPc fl.pc
  let noted := match rest with
    | b :: bs => if b.kind = .split ∧ b.d = false ∧ b.b = true then { b with addr := here } :: bs else b :: bs
    | [] => []
  let parks := fun i => ∃ t, exec i s = .next t ∧ t.g.wait.kind = 6 ∧ t.g.wait.sat = false ∧ t.g.flow = fl ∧ t.g.regs = s.g.regs ∧ t.mem = s.mem
  let runs := fun i => Clear i s ∧ Reaches i s
  (Clear (.join f) s → fl.stack = [] → Moves (.join f) s fall fl.active []) ∧
  (Clear (.join f) s → fl.stack = e :: rest → e.kind = .call ∨ e.kind = .trap → Moves (.join f) s fall fl.active fl.stack) ∧
  (Clear (.join f) s → fl.stack = e :: rest → e.kind = .split → e.d = false → Moves (.join f) s fall e.mask rest) ∧
  (∀ i, i = .join f ∨ i = .ret f ∧ callOpen fl.stack = true → fl.stack = e :: rest →
    (e.kind = .split → e.d = true → runs i → Moves i s e.addr e.mask noted) ∧
    (e.kind = .pend → e.d = false → e.aux ≠ e.mask → Clear i s → parks i) ∧
    (e.kind = .pend → e.d = false → e.aux = e.mask → runs i →
      Moves i s e.addr e.mask ({ e with d := true, aux := fl.active, addr := here } :: rest))) ∧
  (Clear (.join f) s → fl.stack = e :: e2 :: rest → e.kind = .pend → e.d = true → e2.kind = .split → e2.d = false →
    Moves (.join f) s fall e2.mask rest) ∧
  (runs (.ret f) → fl.stack = e :: rest → e.kind = .call → Moves (.ret f) s e.addr e.mask rest) ∧
  (fl.stack = e :: rest → e.kind = .call → (Reaches (.ret f) s ↔ ∃ x, s.target e.addr = .ok x)) ∧
  (∀ i, i = .join f ∨ i = .ret f ∧ callOpen fl.stack = true → fl.stack = e :: rest → e.kind = .split ∧ e.d = true → (Reaches i s ↔ slotAddr e.addr = true)) ∧
  (Clear (.ret f) s → callOpen fl.stack = false → exec (.ret f) s = .next (s.raise 0x03 here 0)))

/-- R59, R113, R122, R123, R126, R128: NOP, YIELD, BRK, SIGCHK, SIGSET, ELECT and UDF. R121: EXIT ends the active lanes: they join the exited set and leave every entry; entries left without lanes are popped, each TRAP entry among them leaving its level, and the first entry
that still has some says who goes on where: a TRAP entry's lanes return as TRET would return them, a PEND entry's wait until they are resumed, with nothing changed (R110); with none left the group ends (R27), and a cause that is
still pending then escalates (R213). -/
def Obligations.PlainControl : Prop :=
  (∀ (f : FS) (f3 : F3) (b : BitVec 88) (s : State),
  let fl := s.g.flow
  let seen := fl.sig.toNat % 2 ^ 24
  let sig := fun (x : Word) => s.modG fun g => { g with flow := { g.flow with sig := x } }
  let el := s.g.exec f3.h
  let rcd : TrapRec := { s.record s.g 3 with pc := nextPc fl.pc, code := f.imm.toNat }
  (Clear (.nop f) s → exec (.nop f) s = .next (completed (.nop f) s s)) ∧
  (Clear (.yield f) s → exec (.yield f) s = .next (completed (.yield f) s (s.modG fun g => { g with sched :=
    { g.sched with yieldUntil := if f.imm = 0 then none else some (s.clock + f.imm.toNat), placed := s.clock } }))) ∧
  (Clear (.brk f) s → s.g.sched.attached = false →
    exec (.brk f) s = .next ((completed (.brk f) s s).raise 0x0A (nextPc fl.pc) (f.imm.setWidth 64))) ∧
  (Clear (.brk f) s → s.g.sched.attached = true → exec (.brk f) s = .next (completed (.brk f) s
    ((s.modG fun g => { g with sched := { g.sched with halted := true, haltedAt := s.clock } }).post s.g.cluster s.g.ids.core s.g.ids.slot rcd))) ∧
  (Clear (.sigchk f) s → seen = f.imm.toNat → exec (.sigchk f) s = .next (completed (.sigchk f) s (sig 0xFFFFFFFF))) ∧
  (Clear (.sigchk f) s → seen ≠ f.imm.toNat → exec (.sigchk f) s =
    .next ((completed (.sigchk f) s (sig 0xFFFFFFFF)).raise 0x09 (nextPc fl.pc) (BitVec.ofNat 64 (2 ^ 56 + seen * 2 ^ 24 + f.imm.toNat)))) ∧
  (Clear (.sigset f) s → exec (.sigset f) s = .next (completed (.sigset f) s (sig (if f.var8 = 0 then f.imm else s.g.rdS f.a.toNat)))) ∧
  (Clear (.elect f3) s → ∃ r, exec (.elect f3) s = .next (completed (.elect f3) s (s.modG fun g => { g with regs := r })) ∧
    (let g' : Ctx := { s.g with regs := r }
     (∀ l ∈ lanes el, HoldsP g' false f3.d.toNat l ((lanes el).all (l ≤ ·))) ∧
     Holds g' true f3.a.toNat 0 1 ((lanes el).headD 32) ∧ SameBut [.p f3.d.toNat, .s f3.a.toNat] el s.g g')) ∧
  (s.g.able = true → exec (.udf b) s = .next (s.raise 0x01 fl.pc (((0xFF : BitVec 8) ++ b : Slot).extractLsb' 32 64)))) ∧
  (∀ (f : FS) (s : State) (e : Entry) (rest : List Entry),
  let fl := s.g.flow
  let empty := fun (e : Entry) => e.mask == 0 && e.aux == 0
  let gone := fl.exited ||| fl.active
  let es := fl.stack.map fun e => { e with mask := e.mask &&& ~~~gone, aux := e.aux &&& ~~~gone }
  let left := es.dropWhile empty
  let goes := fun (pc : Nat) (active : Word) (stack : List Entry) => ∃ t, exec (.exit f) s = .next t ∧ t.g.flow.pc = pc ∧
    t.g.flow.active = active ∧ t.g.flow.stack = stack ∧ t.g.flow.exited = fl.exited ||| fl.active ∧ t.g.flow.dead = fl.dead ∧
    t.g.regs = s.g.regs ∧ t.mem = s.mem
  let same := fun (traps : Traps) => ∃ t, exec (.exit f) s = .next t ∧ t.g.traps = traps
  let level := s.g.traps.level - ((es.takeWhile empty).filter (·.kind == .trap)).length
  Clear (.exit f) s →
  (left = [] → s.g.traps.delivered = [] → goes (nextPc fl.pc) 0 [] ∧ same { s.g.traps with level } ∧ ∃ t, exec (.exit f) s = .next t ∧ t.g.sched.finalWait = true) ∧
  (left = [] → s.g.log = [] → s.g.sched.killed = false → s.g.traps.delivered ≠ [] →
    ∃ t, exec (.exit f) s = .next t ∧ t.g.sched.finalWait = true ∧ t.g.sched.escalated = true ∧ t.mem = s.mem) ∧
  (left = e :: rest →
    (e.kind = .split → e.d = true → Reaches (.exit f) s → goes e.addr e.mask rest ∧ same { s.g.traps with level }) ∧
    (e.kind = .split → e.d = false → Reaches (.exit f) s → goes e.addr e.mask (e :: rest) ∧ same { s.g.traps with level }) ∧
    (e.kind = .call → Reaches (.exit f) s → goes e.addr e.mask rest ∧ same { s.g.traps with level }) ∧
    (e.kind = .trap → Reaches (.exit f) s → goes ((if level = 1 then s.g.traps.epc1 else s.g.traps.epc2).toNat % 2 ^ 56) e.mask rest ∧
      same { s.g.traps with level := level - 1 }) ∧
    (e.kind = .pend → e.d = true → Reaches (.exit f) s → goes e.addr e.aux rest ∧ same { s.g.traps with level }) ∧
    (e.kind = .pend → e.d = false → e.aux = e.mask → Reaches (.exit f) s → goes e.addr e.mask rest ∧ same { s.g.traps with level }) ∧
    (e.kind = .pend → e.d = false → e.aux ≠ e.mask →
      ∃ t, exec (.exit f) s = .next t ∧ t.g.wait.kind = 6 ∧ t.g.wait.sat = false ∧ t.g.flow = fl ∧ t.g.traps = s.g.traps ∧ t.g.regs = s.g.regs ∧ t.mem = s.mem)))

/-- R19, R62, R104, R122, R344: the machine's own steps at a context: a YIELD window ends after its last clock, a group that was ready for 224 clocks and not chosen is promoted, the line of the next
instruction arrives, a pending delivered cause is taken before it once it has passed every check. -/
def Obligations.ControlEvents : Prop := ∀ (s : State) (g : Ctx), s.ctx? s.arg.c = some g →
  (∀ t, g.sched.yieldUntil = some t → exec .yieldWindowEnd s = .next (if s.clock ≤ t then s else s.modCtx s.arg.c fun g =>
    { g with sched := { g.sched with yieldUntil := none, promoted := false, waited := 0 } })) ∧
  (g.isSys = false → g.able = true → g.sched.promoted = false → 224 ≤ g.sched.waited →
    exec .groupPromotion s = .next (s.modCtx s.arg.c fun g => { g with sched := { g.sched with promoted := true } })) ∧
  (∀ u d good, s.fetchLine g g.flow.pc = .ok (u, d, good) → exec .lineFetch s = .next (u.modCtx s.arg.c fun g =>
    { g with flow := { g.flow with line := if good then some (g.flow.pc / 64 * 64, d) else none } })) ∧
  (∀ d a line i u, let t := s.switch s.arg.c
    g.flow.line = some (a, line) → a ≤ g.flow.pc → g.flow.pc < a + 64 → line.toNat / 2 ^ 9 % 2 ^ 7 = 0 → decode (lineSlot line (slotIx g.flow.pc)) = .ok i →
    t.g.able = true → staticCheck i t.g = none → (i.shape.regs.any t.g.marked || i.shape.writes.any t.g.locked) = false →
    targetsCheck t (targetsOf i t.g) = .ok u → tileFault i t = none → State.deliverable t.g = some d → t.g.midway = false →
    exec .deliveredCauseTaken s = .next (s.via s.arg.c fun s => s.takeDelivered d))

/-! ### Traps and system instructions -/

/-- R332, R333, R342: TRAP of no lane only completes; else it waits until every earlier store has its witness, parks while an earlier trap is under way, records the lanes and their arguments, pushes a TRAP entry and parks after itself
until it is resumed; TRET leaves the level for the address in EPC, which a slot must start at, and which is a transfer's target when software has written it (R36, R62); it faults when there is no level or no TRAP entry on top. -/
def Obligations.TrapAndReturn : Prop := ∀ (f : FS) (s : State),
  let fl := s.g.flow
  let t := s.g.exec f.h
  let va := f.a.toNat
  let next := nextPc fl.pc
  let q := s.pref s.g.cluster
  let ready := Clear (.trap f) s ∧ Reaches (.trap f) s ∧ t ≠ 0 ∧ s.g.storesFormed = true
  (Clear (.trap f) s → Reaches (.trap f) s → t = 0 →
    ∃ u, exec (.trap f) s = .next (completed (.trap f) s u) ∧ u.g = s.g ∧ u.mem = s.mem) ∧
  (ready → s.g.slot.mode = .idle → fl.stack.length < 30 → s.g.sched.expiry = false → s.g.cluster < s.prefs.length → q.trapq.length < 64 →
    q.posted = [] → ∃ u rcd, exec (.trap f) s = .next u ∧ u.g.flow.pc = next ∧ u.g.flow.active = fl.active ∧
      u.g.flow.stack = { kind := .trap, addr := next, mask := t } :: fl.stack ∧
      u.g.slot = { mode := if f.var8 = 0 then .all else .any, rem := t, va, wd := f.wf.toNat } ∧ u.g.wait.kind = 6 ∧ u.g.wait.sat = false ∧
      u.g.regs = s.g.regs ∧ u.g.traps = s.g.traps ∧ u.mem = s.mem ∧
      (u.pref s.g.cluster).trapq = q.trapq ++ [rcd] ∧ rcd.typ = 0 ∧ rcd.handle = s.g.handle ∧ rcd.va = va ∧ rcd.code = f.imm.toNat ∧
      rcd.mask = t ∧ rcd.active = fl.active ∧ rcd.pc = next ∧ rcd.mark = s.g.mark ∧
      (∀ l k, l < 32 → k < 4 → rcd.body.getD (4 * l + k) 0 =
        if bit t l then BitVec.ofNat 64 (s.g.rd false (va + 2 * k) l 2) else 0)) ∧
  (ready → s.g.slot.mode = .idle → 30 ≤ fl.stack.length → ∃ u : State, exec (.trap f) s = .next (u.raise 0x0B fl.pc (BitVec.ofNat 64 fl.stack.length)) ∧ u.g = s.g) ∧
  (Clear (.trap f) s → Reaches (.trap f) s → t ≠ 0 → s.g.storesFormed = false → ∃ u : State, exec (.trap f) s = .next (u.modG Ctx.holdAtIssue) ∧ u.g = s.g ∧ u.mem = s.mem) ∧
  (ready → s.g.slot.mode ≠ .idle → ∃ u, exec (.trap f) s = .next u ∧ u.g.wait.kind = 6 ∧ u.g.wait.sat = false ∧ u.g.flow = fl ∧ u.g.slot = s.g.slot ∧
    u.g.regs = s.g.regs ∧ u.mem = s.mem) ∧
  (Clear (.tret f) s → s.g.traps.level = 0 → exec (.tret f) s = .next (s.raise 0x03 fl.pc 0)) ∧
  (Clear (.tret f) s → s.g.traps.level ≠ 0 → (∀ e rest, fl.stack = e :: rest → e.kind ≠ .trap) →
    exec (.tret f) s = .next (s.raise 0x03 fl.pc (BitVec.ofNat 64 fl.stack.length))) ∧
  (∀ e rest, Clear (.tret f) s → s.g.traps.level ≠ 0 → fl.stack = e :: rest → e.kind = .trap →
    let epc := (if s.g.traps.level = 1 then s.g.traps.epc1 else s.g.traps.epc2).toNat % 2 ^ 56
    let written := if s.g.traps.level = 1 then s.g.traps.epcw1 else s.g.traps.epcw2
    (if written then ∃ x, s.target epc = .ok x else slotAddr epc = true) →
    ∃ u, exec (.tret f) s = .next u ∧ u.g.flow.pc = epc ∧ u.g.flow.active = e.mask ∧ u.g.flow.stack = rest ∧ u.g.flow.lResume = true ∧
      u.g.flow.sig = fl.sig ∧ u.g.traps = { s.g.traps with level := s.g.traps.level - 1 } ∧ u.g.regs = s.g.regs ∧ u.mem = s.mem)

/-- R346, R347, R363, R365, R358: SRGET writes the value of the register that it names and nothing else; SRSET writes the register's writable bits
(GSTAT: a one clears its bit; EPC marks itself written); RMAPENT with a new owner zeroes its region; ASNROOT and HUBDATA go to what their
selectors name. R326 to R328: LINRD and POPQ read the lane's line and the population's record, RNGS and RNG the generator, and RNG uses one output for each lane or,
in its uniform form, one in all. -/
def Obligations.SystemRegisters : Prop := ∀ (f : FS) (s : State),
  let g := s.g
  let t := g.traps
  let q := s.pref g.own
  let k := f.sel.toNat
  let x := g.rdS f.a.toNat
  let xx := g.rdS64 f.a.toNat
  let gives := fun (v : Nat → Nat) => Gives (.srget f) s s.g.gstat (Result s f.h f.d.toNat (sysRegs k) fun l n => n = v l)
  let writes := fun (u : State) => Does (.srset f) s u
  (∀ n v, (n, v) ∈ [(0x005, g.ids.stage), (0x007, g.ids.world), (0x008, g.flow.dead.toNat), (0x009, g.flow.active.toNat),
      (0x00A, g.flow.sig.toNat), (0x00B, g.gmode.toNat), (0x00C, g.gstat.toNat), (0x00F, g.mclass), (0x011, t.epc1.toNat), (0x012, t.epc2.toNat),
      (0x013, t.ecause1.toNat), (0x014, t.ecause2.toNat), (0x015, t.eval1.toNat), (0x016, t.eval2.toNat), (0x017, t.tvec1.toNat),
      (0x018, t.tvec2.toNat), (0x101, q.trapq.length), (0x102, q.evpend), (0x103, q.slice.toNat), (0x104, q.forcedly.toNat),
      (0x105, q.rmapsel.toNat), (0x106, (s.rmap.get 0 q.rmapsel.toNat).toNat), (0x107, q.asnsel.toNat),
      (0x108, (s.roots.get 0 q.asnsel.toNat).toNat), (0x109, q.mailbox.length), (0x10A, min 256 q.completions.length), (0x10B, s.hub.secring.toNat),
      (0x10C, q.hubsel.toNat)] → k = n → Clear (.srget f) s → (k = 8 → g.vPending = false) → gives fun _ => v) ∧
  (∀ n v, (n, v) ∈ [(0x001, g.ids.gidx), (0x002, g.ids.team), (0x003, g.ids.gang), (0x004, g.ids.grid), (0x00D, g.ids.core), (0x00E, g.ids.gpos)] →
    k = n → g.isSys = false → Clear (.srget f) s → gives fun _ => v) ∧
  (Clear (.srget f) s → k ≠ 8 → gives (s.sysVal k)) ∧
  (k = 0 → Clear (.srget f) s → gives fun l => l) ∧
  (k = 0x10 → Clear (.srget f) s → gives fun _ => t.level + (if t.epcw1 then 4 else 0) + (if t.epcw2 then 8 else 0) +
    if g.sched.attached then 16 else 0) ∧
  (k = 0x20 → g.isSys = false → Clear (.srget f) s → gives fun l => (g.pop.lineage.get 0 l).toNat) ∧
  (Clear (.srgetHubdata f) s → Gives (.srgetHubdata f) s s.g.gstat
    (Result s f.h f.d.toNat (sysRegs k) fun _ n => n = s.bar0Read (q.hubsel.toNat % 2 ^ 24))) ∧
  (∀ n u, (n, u) ∈ [(0x00B, s.modG fun g => { g with gmode := x &&& 0x0FFF0003 }), (0x00C, s.modG fun g => { g with gstat := g.gstat &&& ~~~x }),
      (0x011, s.modG fun g => { g with traps := { t with epc1 := xx, epcw1 := true } }),
      (0x012, s.modG fun g => { g with traps := { t with epc2 := xx, epcw2 := true } }),
      (0x013, s.modG fun g => { g with traps := { t with ecause1 := x &&& 0x1FF } }),
      (0x014, s.modG fun g => { g with traps := { t with ecause2 := x &&& 0x1FF } }),
      (0x015, s.modG fun g => { g with traps := { t with eval1 := xx } }), (0x016, s.modG fun g => { g with traps := { t with eval2 := xx } }),
      (0x017, s.modG fun g => { g with traps := { t with tvec1 := xx &&& 0x00FFFFFFFFFFFFFF } }),
      (0x018, s.modG fun g => { g with traps := { t with tvec2 := xx &&& 0x00FFFFFFFFFFFFFF } }),
      (0x103, s.modPref g.own fun q => { q with slice := x }), (0x104, s.modPref g.own fun q => { q with forcedly := x }),
      (0x105, s.modPref g.own fun q => { q with rmapsel := x &&& 0xFFF }), (0x107, s.modPref g.own fun q => { q with asnsel := x &&& 0xFFF }),
      (0x10C, s.modPref g.own fun q => { q with hubsel := x &&& 0xFFFFF8 })] → k = n → Clear (.srset f) s → writes u) ∧
  (Clear (.srsetAsnroot f) s → Does (.srsetAsnroot f) s { s with roots := SMap.set 0 s.roots q.asnsel.toNat xx }) ∧
  (Clear (.srsetHubdata f) s → Does (.srsetHubdata f) s (s.bar0Write true q.hubsel.toNat xx.toNat)) ∧
  (let r := q.rmapsel.toNat
   let e := x &&& 0xFF0F
   let lo := Loc.die (r * 2 ^ 16)
   let moved := bitsAt (s.rmap.get 0 r).toNat 8 8 ≠ bitsAt e.toNat 8 8
   (Clear (.srsetRmapent f) s → s.regionBusy r = true → exec (.srsetRmapent f) s = .next (s.modG Ctx.holdAtIssue)) ∧
   (Clear (.srsetRmapent f) s → s.regionBusy r = false →
    ∃ u, Does (.srsetRmapent f) s u ∧ u.g = s.g ∧ u.rmap = SMap.set 0 s.rmap r e ∧
      ∀ a, u.mem.get 0 a = if moved ∧ lo ≤ a ∧ a < lo + 2 ^ 16 then 0 else s.mem.get 0 a)) ∧
  (∀ f : F3,
  let pop := g.isSys = false ∧ s.isPop g.ids.grid = true
  let x := fun l => (g.pop.lineage.get 0 l).toNat
  let field := fun l => if f.var = 0 then x l else if f.var = 1 then x l / 2 ^ 44 else if f.var = 2 then x l / 2 ^ 16 % 2 ^ 28
    else if f.var = 3 then x l % 2 ^ 16 else 32 * g.pop.index + l
  let out := fun l => gen g.ks (g.ns + BitVec.ofNat 64 (if f.h.y then 0 else l))
  (Clear (.linrd f) s → pop → Gives (.linrd f) s g.gstat (Result s f.h f.d.toNat (if f.var = 0 then 2 else 1) fun l v => v = field l)) ∧
  (Clear (.popq f) s → pop → Does (.popq f) s (s.modG fun g => if f.var = 0 then g.wrS f.d.toNat (BitVec.ofNat 32 g.pop.size)
    else if f.var = 1 then g.wrS f.d.toNat (BitVec.ofNat 32 g.pop.gen) else g.wrS64 f.d.toNat g.pop.total)) ∧
  (Clear (.rngsSet f) s → Does (.rngsSet f) s (s.modG fun g => { g with ks := g.rdS64 f.a.toNat, ns := g.rdS64 f.b.toNat })) ∧
  (Clear (.rngsGetk f) s → Does (.rngsGetk f) s (s.modG fun g => g.wrS64 f.d.toNat g.ks)) ∧
  (Clear (.rngsGetn f) s → Does (.rngsGetn f) s (s.modG fun g => g.wrS64 f.d.toNat g.ns)) ∧
  (Clear (.rng f) s → Gives (.rng f) s g.gstat (Result s f.h f.d.toNat f.ty.regs fun l v => v = rngValue f.ty (out l).toNat)) ∧
  (∀ u, (completed (.rng f) s u).g.ns = u.g.ns + BitVec.ofNat 64 (if f.h.y then 1 else 32)))

/-- R336, R337, R338: RESUME.LANES writes the status of its target to Sd: NOTRES, BADTRAP, or success with the rows of C applied; RESUME.LOG settles
the fault that its tag names; with .IMG either answers what is wrong with the image, that it is a team's (BADIMG) or that its group is resident (STALE), or does to the group in the image what it does to a resident one: the image is
written again with the group's new values, witness, wait and log, under a CRC that holds, and so is that of every team image around it. R336: what resuming lanes does to the group: each live lane named receives its value and status, the others keep theirs; the remaining lanes
shrink; when none remains, or in ANY mode at the first, control leaves the trap, the lanes still missing in a PEND entry. (That the rows lie 16-byte aligned in C and that every RESUME sets the latch's resume bit is DEDUCED, log 45; the
PEND entry meant is the one whose lanes are still missing: DEDUCED, log 79.) -/
def Obligations.Resume : Prop :=
  (∀ (f : FS) (s : State) (g : Ctx),
  let h := (s.g.rdS64 f.a.toNat).toNat
  let m := s.g.rdS f.b.toNat
  let base := (s.g.rdS (f.b.toNat + 1)).toNat
  let w := s.g.rdW f.wf.toNat
  let answers := fun (x : Nat) (u : State) => u.modG fun g => g.wrS f.d.toNat (BitVec.ofNat 32 x)
  let img := f.imm.getLsbD 0
  let nr := f.imm.getLsbD 1
  let at_ := fun l => s.place s.g .c (base + 16 * l)
  let readable := nr = true ∨ ((∀ l ∈ lanes m, base + 16 * l + 16 ≤ s.limit s.g .c ∧ s.rangeBad (at_ l) 12 = false) ∧ base % 16 = 0 ∧
    (∀ a ∈ s.accs, a.owner ≠ some s.g.ids.ref) ∧ ∀ t ∈ s.tiles, t.owner ≠ some s.g.ids.ref)
  let rows := if nr then [] else (lanes m).map fun l => (l, s.mem.readN (at_ l) 8, s.mem.readN (at_ l + 8) 4)
  let tag := m.toNat % 256
  let cid := base
  let can := Clear (.resumeLanes f) s ∧ wValid w = true ∧ readable
  (can → img = false → s.resident h = none → Does (.resumeLanes f) s (answers 2 s)) ∧
  (can → img = false → s.resident h = some g → g.trapped m = false → Does (.resumeLanes f) s (answers 8 s)) ∧
  (can → img = false → s.resident h = some g → g.trapped m = true →
    Does (.resumeLanes f) s (answers 0 (s.modCtx g.ids.ref (Ctx.resume s.now m rows w)))) ∧
  let asn := s.g.ids.asn
  let wd := s.g.ids.world
  let cl := s.g.cluster
  let imaged := fun (i : Instr) (test : State → Ctx → Bool) (no : Nat) (act : CtxRef → State → State) =>
    (∀ v x, s.openImage h = (v, .error x) → Does i s (answers x v)) ∧
    (∀ v bs bad, s.openImage h = (v, .ok (bs, bad)) →
      let c := refOf (field bs 8 8)
      let g := groupBack v.now (v.shadow (field bs 8 8) (field bs 0x14 1) (field bs 0x16 2)) bs bad v.nextId
      let t := act g.ids.ref { v with others := v.others ++ [g], nextId := v.nextId + 4 }
      (field bs 6 1 ≠ 0 → Does i s (answers 4 v)) ∧
      (field bs 6 1 = 0 → (∃ r, v.ctx? c = some r) → Does i s (answers 3 v)) ∧
      (field bs 6 1 = 0 → v.ctx? c = none → test v g = false → Does i s (answers no v)) ∧
      (∀ r y hd z, field bs 6 1 = 0 → v.ctx? c = none → test v g = true → v.readImg cl asn wd h 24 = some (y, hd, z) → field hd 0x10 4 = bs.length → v.readImg cl asn wd h bs.length = some (v, bs, bad) →
        t.ctx? g.ids.ref = some r →
        let keep := r.leaving v.now
        let body := groupBody t keep (field bs 0x154 4)
        let t' : State := { t with
          others := t.others.filter fun x => x.ids.ref != g.ids.ref, late := t.late ++ r.traps.delivered.map fun d => (g.ids.ref, d)
          saved := t.saved.map fun v => { v with ctxs := v.ctxs.map fun e => if e.1.ids.ref = g.ids.ref then (keep, e.2) else e } }
        Does i s (answers 0 ((t'.writeImg cl asn wd h (sealImage (bs.take 256 ++ body ++ bs.drop (256 + body.length))) (groupBad keep)).resealTeams cl asn wd h))))
  (can → img = true → h % 64 = 0 → imaged (.resumeLanes f) (fun _ g => g.trapped m) 8 fun c t => t.modCtx c (Ctx.resume s.now m rows w)) ∧
  (Clear (.resumeLog f) s → img = false → s.resident h = none → Does (.resumeLog f) s (answers 2 s)) ∧
  (Clear (.resumeLog f) s → img = false → s.resident h = some g → s.faultWaits g tag cid = false → Does (.resumeLog f) s (answers 9 s)) ∧
  (Clear (.resumeLog f) s → img = false → s.resident h = some g → s.faultWaits g tag cid = true →
    Does (.resumeLog f) s (answers 0 (s.settleFault g.ids.ref tag cid (m.getLsbD 8)))) ∧
  (Clear (.resumeLog f) s → img = true → h % 64 = 0 → imaged (.resumeLog f) (fun u g => u.faultWaits g tag cid) 9 fun c t => t.settleFault c tag cid (m.getLsbD 8)) ∧
  (∀ i, i ∈ [Instr.resumeLanes f, .resumeLog f] → (i = .resumeLanes f → can) → Clear i s → img = true → h % 64 ≠ 0 →
    exec i s = .next (s.raise 0x13 s.g.flow.pc (laneEval 0 h)))) ∧
  (∀ (g : Ctx) (now : Nat) (m : Word) (w : DWord) (val : Nat → Nat × Nat) (e : Entry) (rest : List Entry),
  let g' := Ctx.resume now m ((lanes m).map fun l => (l, val l)) w g
  let va := g.slot.va
  let rem := g.slot.rem &&& ~~~m
  let live := fun l => bit m l = true ∧ bit g.flow.dead l = false
  (∀ l, l < 32 → live l → g'.rdV va l = BitVec.ofNat 32 (val l).1 ∧ g'.rdV (va + 1) l = BitVec.ofNat 32 ((val l).1 / 2 ^ 32) ∧
    g'.rdV (va + 2) l = BitVec.ofNat 32 (val l).2) ∧
  (∀ r l, l < 32 → ¬ (live l ∧ va ≤ r ∧ r ≤ va + 2) → g'.rdV r l = g.rdV r l) ∧
  (∀ r, g'.rdS r = g.rdS r ∧ g'.rdP r = g.rdP r ∧ g'.rdC r = g.rdC r) ∧
  (∀ r, g'.rdW r = if r = g.slot.wd ∧ r ≠ 15 then mergeWit now (g.rdW r) w else g.rdW r) ∧
  g'.slot.rem = rem ∧ g'.slot.mode = (if rem = 0 then .idle else g.slot.mode) ∧ g'.flow.lResume = true ∧ g'.traps = g.traps ∧
  (g.flow.stack = e :: rest → g.flow.stack.any Entry.open_ = false →
    (rem = 0 → g'.flow.pc = e.addr ∧ g'.flow.stack = rest ∧ g'.flow.active = g.flow.active ∧ g'.wait.sat = true) ∧
    (rem ≠ 0 → g.slot.mode = .any → g'.flow.pc = e.addr ∧ g'.flow.stack = { kind := .pend, addr := e.addr, mask := rem &&& e.mask } :: rest ∧
      g'.flow.active = g.flow.active &&& ~~~rem ∧ g'.wait.sat = true) ∧
    (rem ≠ 0 → g.slot.mode ≠ .any → g'.flow.pc = g.flow.pc ∧ g'.flow.stack = g.flow.stack ∧ g'.flow.active = g.flow.active ∧ g'.wait = g.wait)) ∧
  (g.flow.stack.any Entry.open_ = true → g'.flow.pc = g.flow.pc ∧ g'.flow.active = g.flow.active ∧
    g'.flow.stack = g.flow.stack.map fun e => if e.open_ then { e with aux := e.aux ||| (m &&& e.mask) } else e))

/-- R32, R343, R353, R355, R356: CTXSV answers NOTRES or NOTBP (an escalated group is at no blocking point), or saves the group once it has settled; CTXLD answers what is wrong with the image, or puts the
group back on its team's core, unless no slot starts at its program counter; GKILL stops what it names, or answers NOTRES. R349, R351, R108: where a group image holds the group's state, and that a group read back has what was
saved. (A kill block is checked for its bounds alone: DEDUCED, log 45. The records of a killed group leave the trap queues: DEDUCED, log 59. What an image has no place for is log 42's.) -/
def Obligations.SavesAndKills : Prop :=
  (∀ (s : State) (g : Ctx) (n : Nat),
  let b := groupBody s g n
  g.flow.stack.length ≤ 32 → (∀ e ∈ g.log, e.ix < 4) →
  b.length = 9984 + 4096 * g.n ∧
  field b 0 8 = g.flow.pc % 2 ^ 64 ∧ field b 8 4 = g.flow.active.toNat ∧ field b 0xC 4 = g.flow.exited.toNat ∧ field b 0x10 4 = g.flow.dead.toNat ∧ field b 0x14 4 = g.flow.sig.toNat ∧
  field b 0x18 4 = g.gmode.toNat ∧ field b 0x1C 4 = g.gstat.toNat ∧ field b 0x28 8 = g.mark.toNat ∧ field b 0x30 8 = g.ks.toNat ∧ field b 0x38 8 = g.ns.toNat ∧
  field b 0x80 8 = g.traps.epc1.toNat ∧ field b 0x88 8 = g.traps.epc2.toNat ∧ field b 0x90 8 = g.traps.eval1.toNat ∧ field b 0x98 8 = g.traps.eval2.toNat ∧
  field b 0xA0 8 = g.traps.tvec1.toNat ∧ field b 0xA8 8 = g.traps.tvec2.toNat ∧ field b 0xC0 1 = g.wait.kind % 256 ∧ field b 0x2C4 4 = g.slot.rem.toNat ∧
  (∀ i, i < 16 → field b (0x100 + 8 * i) 8 = (g.rdW i).toNat) ∧ (∀ i, i < 64 → field b (0x180 + 4 * i) 4 = (g.rdS i).toNat) ∧ (∀ i, i < 8 → field b (0x280 + 4 * i) 4 = (g.rdP i).toNat) ∧
  (∀ r l, r < 64 + 32 * g.n → l < 32 → field b (0x700 + 128 * r + 4 * l) 4 = (g.rdV r l).toNat) ∧
  (∀ e i, g.flow.stack.reverse[i]? = some e →
    let x := field b (0x300 + 16 * i) 16
    x % 2 ^ 56 = e.addr % 2 ^ 56 ∧ x / 2 ^ 56 % 2 ^ 32 = e.mask.toNat ∧ x / 2 ^ 88 % 2 ^ 32 = e.aux.toNat ∧ (x.testBit 122 = true ↔ e.d = true) ∧ (x.testBit 123 = true ↔ e.b = true) ∧
      x / 2 ^ 120 % 4 = match e.kind with | .split => 0 | .call => 1 | .trap => 2 | .pend => 3)) ∧
  (∀ (now id : Nat) (sh g : Ctx) (s : State) (hd : List Byte) (n : Nat),
  let b := groupBack now sh (hd ++ groupBody s g n) [] id
  hd.length = 256 → g.Ordered → (∀ e ∈ g.log, e.ix < 4) → g.n < 256 → g.flow.pc < 2 ^ 56 → (∀ e ∈ g.flow.stack, e.addr < 2 ^ 56) →
  b.flow.pc = g.flow.pc ∧ b.flow.active = g.flow.active ∧ b.flow.exited = g.flow.exited ∧ b.flow.dead = g.flow.dead ∧ b.flow.sig = g.flow.sig ∧ b.flow.stack = g.flow.stack ∧
  b.traps.level = g.traps.level ∧ b.traps.epc1 = g.traps.epc1 ∧ b.traps.epc2 = g.traps.epc2 ∧ b.traps.eval1 = g.traps.eval1 ∧ b.traps.eval2 = g.traps.eval2 ∧ b.mark = g.mark ∧ b.n = g.n ∧
  b.ks = g.ks ∧ b.ns = g.ns ∧ b.slot.rem = g.slot.rem ∧
  ∀ i l, (i < 64 → b.rdS i = g.rdS i) ∧ (i < 16 → b.rdW i = g.rdW i) ∧ (i < 7 → b.rdP i = g.rdP i ∧ b.rdC i = g.rdC i) ∧ (l < 32 → i < 64 + 32 * g.n → b.rdV i l = g.rdV i l)) ∧
  (∀ (f : FS) (s : State) (g : Ctx) (bs : List Byte) (bad : List Nat) (x : Nat),
  let h := (s.g.rdS64 f.a.toNat).toNat
  let a := (s.g.rdS64 f.b.toNat).toNat
  let may := g.sched.escalated = false ∧ (g.wait.kind ≠ 0 ∨ g.sched.held = true ∨ g.sched.finalWait = true ∨ g.sched.ended = true)
  let answers := fun (x : Nat) (u : State) => u.modG fun g => g.wrS f.d.toNat (BitVec.ofNat 32 x)
  let one := f.var8.getLsbD 0 = false
  let force := f.var8.getLsbD 1
  let held := if force then s.modCtx g.ids.ref (fun g => { g with sched := { g.sched with forceHeld := !g.over } }) else s
  (Clear (.ctxsv f) s → a % 64 = 0 → one → s.resident h = none → Does (.ctxsv f) s (answers 2 s)) ∧
  (Clear (.ctxsv f) s → a % 64 = 0 → one → s.resident h = some g → force = false → ¬ may → Does (.ctxsv f) s (answers 1 s)) ∧
  (Clear (.ctxsv f) s → a % 64 = 0 → one → s.resident h = some g → (force = true ∨ may) → held.settledGroup force g = false →
    exec (.ctxsv f) s = .next (held.modG Ctx.holdAtIssue)) ∧
  (Clear (.ctxsv f) s → a % 64 = 0 → one → s.resident h = some g → (force = true ∨ may) → held.settledGroup force g = true →
    ∃ u x w, Does (.ctxsv f) s (answers x (if x = 0 then u.modG (·.wrW f.wf.toNat w) else u)) ∧ held.save [g] none a force = (u, x, w)) ∧
  (∀ i b, (i, b) ∈ [(Instr.ctxsv f, a), (.ctxld f, h)] → Clear i s → b % 64 ≠ 0 → exec i s = .next (s.raise 0x13 s.g.flow.pc (laneEval 0 b))) ∧
  (∀ v, Clear (.ctxld f) s → h % 64 = 0 → s.openImage h = (v, .error x) → Does (.ctxld f) s (answers x v)) ∧
  (∀ v t, let sh := v.shadow (field bs 8 8) (field bs 0x14 1) (field bs 0x16 2)
    let g := groupBack v.now sh bs bad v.nextId
    Clear (.ctxld f) s → h % 64 = 0 → s.openImage h = (v, .ok (bs, bad)) → field bs 6 1 = 0 → field bs 0x18 8 = Config.deviceId.toNat →
    v.team? sh = some t → v.freeSlots t.core ≠ [] → g.granules ≤ v.freeGranules t.core → field bs 0x154 4 = 0 →
    (slotAddr g.flow.pc = false → exec (.ctxld f) s = .next (s.raise 0x04 s.g.flow.pc (BitVec.ofNat 64 g.flow.pc))) ∧
    (slotAddr g.flow.pc = true → ∃ u c, Does (.ctxld f) s (answers 0 u) ∧ u.others = (v.markLoaded h bs bad).others ++ [c] ∧ c.ids.ref = g.ids.ref ∧ c.ids.core = t.core ∧ c.regs = g.regs ∧
      c.flow = { g.flow with lResume := true } ∧ c.wait = g.wait ∧ c.slot = g.slot)) ∧
  (∀ i p, (i, p) ∈ [(Instr.gkillGrp f, fun (g : Ctx) => g.ids.ref == refOf h),
      (.gkillTeam f, fun g => g.inTeam (h / 2 ^ 32) (((s.ctx? (refOf h)).map (·.ids.team)).getD (s.teamOf h)))] → Clear i s →
    (s.targets p = [] → Does i s (answers 2 s)) ∧ (s.targets p ≠ [] → Does i s (answers 0 (s.stopGroups (s.targets p))))) ∧
  (let b := (s.g.rdS f.b.toNat).toNat
   let gid := h / 2 ^ 32
   Clear (.gkillGrid f) s → b + 64 ≤ s.limit s.g .c → (∀ a ∈ s.accs, a.owner ≠ some s.g.ids.ref) → (∀ t ∈ s.tiles, t.owner ≠ some s.g.ids.ref) →
    s.rangeBad (s.place s.g .c b) 64 = false →
    Does (.gkillGrid f) s (answers (if s.targets (fun g => g.ids.grid == gid) = [] then 2 else 0)
      (s.killGrid gid (s.mem.readB (s.place s.g .c b) 64)))) ∧
  (∀ c, s.ctx? c = some g → c ≠ s.g.ids.ref → (∀ x ∈ s.cmds, x.c ≠ c) → (∀ o ∈ s.mxq, o.c ≠ c) → g.ids.ref = c →
    (s.stopGroups [g]).ctx? c = some g.stop ∧ (s.stopGroups [g]).mem = s.mem ∧ (s.stopGroups [g]).g = s.g ∧
    ∀ p, (s.stopGroups [g]).pref p = { s.pref p with trapq := (s.pref p).trapq.filter (·.handle != g.handle)
                                                     posted := (s.pref p).posted.filter (·.rcd.handle != g.handle) }))

/-- R200, R325, R354, R357: HALTG answers NOTRES, BADSTATE when its variant does not apply, or success with the group's debug state changed; a requested
halt takes effect and is recorded; a slice runs out, and FORCEDLY after it the group is held, neither between the attempts of a TLD.VER. R210, R211, R334, R358, R359, R360: PARK, WORLD, ICSYNC, TLBINV and TRQPOP; a waiting record enters its trap queue; a TLBINV's witness is formed once the commands and loads that used a removed
translation have finished. (When a HALTG variant applies, and that REL ends a forced hold, is DEDUCED, log 46; that an expiry acts on a parked group at once is DEDUCED, log 58; that ICSYNC.CLUSTER drops the issuer's own cached lines too is
DEDUCED, log 51; that TRQPOP's 1,088 bytes are stored at its issue is DEDUCED, log 52.) -/
def Obligations.SystemOperations : Prop :=
  (∀ (f : FS) (s : State) (g : Ctx),
  let h := (s.g.rdS64 f.a.toNat).toNat
  let answers := fun (x : Nat) (u : State) => u.modG fun g => g.wrS f.d.toNat (BitVec.ofNat 32 x)
  let d := g.sched
  let sched := fun (k : Sched → Sched) => s.modCtx g.ids.ref fun g => { g with sched := k g.sched }
  let variants : List (Instr × Bool × State) :=
    [(.haltgHalt f, !d.halted && !d.haltReq, sched fun d => { d with haltReq := true }),
     (.haltgGo f, d.halted, s.modCtx g.ids.ref (Ctx.unhalt s.clock)),
     (.haltgAtt f, !d.attached, sched fun d => { d with attached := true }),
     (.haltgDet f, d.attached, s.modCtx g.ids.ref fun g => let g := g.unhalt s.clock; { g with sched := { g.sched with attached := false } }),
     (.haltgRel f, d.held || d.forceHeld, s.modCtx g.ids.ref fun g =>
       ({ g with sched := { g.sched with held := false, forceHeld := false } } : Ctx).newSlice s)]
  (∀ i b u, (i, b, u) ∈ variants → Clear i s →
    (s.resident h = none → Does i s (answers 2 s)) ∧
    (s.resident h = some g → Does i s (if b then answers 0 u else answers 9 s))) ∧
  (let c := s.arg.c
   let still := !s.arrivals.any fun a => a.c == c && a.ready
   let post := fun (u : State) (typ : Nat) => u.post g.cluster g.ids.core g.ids.slot (s.record g typ)
   let mod := fun (k : Sched → Sched) => s.modCtx c fun g => { g with sched := k g.sched }
   s.ctx? c = some g →
   (d.haltReq = true → d.ended = false → d.tries = 0 → still = true → exec .haltTakesEffect s =
      .next (post (mod fun d => { d with halted := true, haltReq := false, haltedAt := s.clock }) 4)) ∧
   (g.isSys = false → g.over = false → d.expiry = false → d.held = false → d.forceHeld = false → d.sliceEnd ≤ s.clock → g.wait.kind = 0 →
      exec .sliceExpiry s = .next (mod fun d => { d with expiry := true, expiredAt := s.clock })) ∧
   (g.isSys = false → g.over = false → d.expiry = false → d.held = false → d.forceHeld = false → d.sliceEnd ≤ s.clock → g.wait.kind ≠ 0 → g.wait.sat = false →
      d.halted = false → d.haltReq = false → d.escalated = false → still = true →
      exec .sliceExpiry s = .next ((mod fun d => { d with expiry := true, expiredAt := s.clock }).via c blockPoint)) ∧
   (d.expiry = true → g.over = false → d.tries = 0 → d.halted = false → d.haltReq = false → d.escalated = false → still = true →
      d.expiredAt + d.delay ≤ s.clock → exec .forcedlyExpiry s = .next (post (mod fun d => { d with expiry := false, forceHeld := true }) 6)))) ∧
  (∀ (f : FS) (s : State),
  let q := s.pref s.g.own
  let e := q.evpend
  let x := (s.g.rdS f.a.toNat).toNat
  let w := s.g.rdW f.wf.toNat
  (Clear (.park f) s → e &&& f.imm.toNat ≠ 0 → Does (.park f) s (s.modG fun g => g.wrS f.d.toNat (BitVec.ofNat 32 e))) ∧
  (Clear (.park f) s → e &&& f.imm.toNat = 0 → exec (.park f) s = .next (s.modG Ctx.holdAtIssue)) ∧
  (Clear (.worldSet f) s → Does (.worldSet f) s (s.modG fun g => { g with ids := { g.ids with world := x % 2 ^ 8, asn := x / 2 ^ 8 % 2 ^ 12 } })) ∧
  (Clear (.worldGet f) s → Does (.worldGet f) s (s.modG fun g => g.wrS f.d.toNat (BitVec.ofNat 32 (g.ids.world + 2 ^ 8 * g.ids.asn)))) ∧
  (Clear (.icsync f) s → wValid w = true → s.satisfied w s.g.dom = true →
    ∃ u, Does (.icsync f) s u ∧ u.g = s.g.wrW f.d.toNat (mkWit { scope := 4, id := 0 } s.now) ∧ u.mem = s.mem ∧
      (f.var8 = 1 → u.icache = []) ∧
      (∀ p, s.g.ids.ref = .prefect p → f.var8 ≠ 1 → ∀ l, l ∈ u.icache ↔ l ∈ s.icache ∧ l.core / 16 ≠ p ∧ l.core ≠ s.g.engine)) ∧
  (∀ i, i ∈ [Instr.tlbinvPage f, .tlbinvAsn f, .tlbinvAll f] → Clear i s →
    let gone := fun (t : Tr) => f.var8 = 0 ∧ t.covers f.sel.toNat (s.g.rdS64 f.a.toNat).toNat = true ∨ f.var8 = 1 ∧ t.asn = f.sel.toNat ∨
      f.var8.toNat ≥ 2
    ∃ u p, Does i s u ∧ (∀ c t, (c, t) ∈ u.tlb ↔ (c, t) ∈ s.tlb ∧ ¬ gone t) ∧ u.g.pend = s.g.pend ++ [p] ∧ p.kind = .witness ∧ p.ready = false ∧
      p.wreg = f.wf.toNat ∧ u.g.regs = s.g.regs ∧ u.mem = s.mem ∧
      ∀ k, k ∈ p.waits ↔ (∃ c ∈ s.cmds, c.id = k ∧ ∃ e ∈ c.trs, gone e.2) ∨ (∃ c ∈ s.iocmds, c.id = k ∧ ∃ e ∈ c.pages, gone e.2) ∨ ∃ a ∈ s.accs, a.id = k ∧ a.isWrite = false ∧ ∃ t, a.via = some t ∧ gone t) ∧
  (∀ p, (s.ctx? s.arg.c).bind (fun g => g.pend.find? (fun p => p.id == s.arg.id && p.kind == .witness && !p.ready && !p.store)) = some p →
    s.arg.c.isSys = true → (∀ c ∈ s.cmds, c.id ≠ p.id) → (∀ k ∈ p.waits, (∀ c ∈ s.cmds, c.id ≠ k) ∧ (∀ c ∈ s.iocmds, c.id ≠ k) ∧ ∀ a ∈ s.accs, a.id ≠ k) → exec .tlbinvSweepDone s = .next (s.modCtx s.arg.c fun g =>
      { g.wrW p.wreg (mkWit { scope := 4, id := 0 } s.now) with pend := g.pend.filter (·.id != p.id) })) ∧
  (Clear (.trqpop f) s → x % 64 = 0 → x + 1088 ≤ s.limit s.g .c → q.trapq = [] →
    exec (.trqpop f) s = .next (if f.var8 = 1 then s.modG Ctx.holdAtIssue else completed (.trqpop f) s (s.modG (·.wrC f.d.toNat false)))) ∧
  (∀ r rest, Clear (.trqpop f) s → x % 64 = 0 → x + 1088 ≤ s.limit s.g .c → q.trapq = r :: rest → (∀ a ∈ s.accs, a.owner ≠ some s.g.ids.ref) →
    (∀ t ∈ s.tiles, t.owner ≠ some s.g.ids.ref) → s.g.own < s.prefs.length → ∃ u, Does (.trqpop f) s u ∧ u.g.regs = (s.g.wrC f.d.toNat true).regs ∧
      u.pref s.g.own = { q with trapq := rest } ∧ u.mem = (s.pokeAll {} (s.place s.g .c x) r.bytes).mem) ∧
  (∀ r, firstPosted (s.pref s.arg.id).posted = some r → (s.pref s.arg.id).trapq.length < 64 →
    exec .trapRecordAdmit s = .next (s.modPref s.arg.id fun p => { p with trapq := p.trapq ++ [r.rcd], posted := p.posted.erase r })))

/-! ### Witnesses -/

/-- R217, R224 to R231: the witness instructions on valid witnesses; WWAIT on one that is not satisfied parks; an invalid one raises WITNESS_BAD. R222, R226: the null witness and an expired one are satisfied; merging valid witnesses gives a valid one whose domain contains both and whose tick
is the later, a null or expired one aside. R219, R222, R234: a group wakes when the horizon has passed its witness; the link engines exchange horizons every 256 ticks, sending this device's value to every linked peer that is up, and what they
have seen never decreases. -/
def Obligations.Witnesses : Prop :=
  (∀ (f : F3) (s : State),
  let x := s.g.rdW f.a.toNat
  let y := s.g.rdW f.b.toNat
  let null := fun (w : DWord) => wScope w = 0 ∨ 2 ^ 49 + 2 ^ 20 < pos s.now (wTick w)
  (Clear (.wmrgMrg f) s → wValid x = true → wValid y = true →
    Does (.wmrgMrg f) s (s.modG fun g => g.wrW f.d.toNat (mergeWit s.now x y))) ∧
  (Clear (.wmrgGet f) s → Does (.wmrgGet f) s (s.modG fun g => g.wrS64 f.d.toNat x)) ∧
  (Clear (.wmrgPut f) s → Does (.wmrgPut f) s (s.modG fun g => g.wrW f.d.toNat (s.g.rdS64 f.a.toNat))) ∧
  (Clear (.wmark f) s → s.g.storesFormed = true → Does (.wmark f) s (s.modG fun g => g.wrW f.d.toNat g.mark)) ∧
  (Clear (.wmark f) s → s.g.storesFormed = false → exec (.wmark f) s = .next (s.modG Ctx.holdAtIssue)) ∧
  (Clear (.wwait f) s → wValid x = true → s.satisfied x s.g.dom = true → Does (.wwait f) s s) ∧
  (Clear (.wwait f) s → wValid x = true → s.satisfied x s.g.dom = false → s.g.sched.expiry = false → ∃ t, exec (.wwait f) s = .next t ∧
    t.g.wait = { kind := 3, witness := x } ∧ t.g.flow = s.g.flow ∧ t.g.regs = s.g.regs ∧ t.mem = s.mem) ∧
  (Clear (.wtest f) s → wValid x = true → ∃ b, Does (.wtest f) s (s.modG fun g => g.wrC f.d.toNat b) ∧
    (f.var = 0 → b = s.satisfied x s.g.dom) ∧ (f.var ≠ 0 → (b = true ↔ null x))) ∧
  (Clear (.wnow f) s → Does (.wnow f) s (s.modG fun g => g.wrW f.d.toNat (mkWit (g.dom.atScope f.var.toNat 5) s.now))) ∧
  (∀ i, i ∈ [Instr.wmrgMrg f, .wwait f, .wtest f] → Clear i s → wValid x = false → exec i s = .next (s.raise 0x18 s.g.flow.pc x)) ∧
  (Clear (.wmrgMrg f) s → wValid x = true → wValid y = false → exec (.wmrgMrg f) s = .next (s.raise 0x18 s.g.flow.pc y))) ∧
  (∀ (s : State) (now : Nat) (x y : DWord),
  let live := fun (w : DWord) => wScope w ≠ 0 ∧ expired now (wTick w) = false
  let m := mergeWit now x y
  (∀ o, wScope x = 0 ∨ expired s.now (wTick x) = true → s.satisfied x o = true) ∧
  (¬ live x → ¬ live y → m = if wScope y = 0 then y else 0) ∧ (¬ live x → live y → m = y) ∧ (live x → ¬ live y → m = x) ∧
  (wValid x = true → wValid y = true → live x → live y → wValid m = true ∧ (wDom m).contains (wDom x) = true ∧
    (wDom m).contains (wDom y) = true ∧ (wTick m = wTick x ∨ wTick m = wTick y) ∧
    pos now (wTick x) ≤ pos now (wTick m) ∧ pos now (wTick y) ≤ pos now (wTick m))) ∧
  (∀ (s : State) (g : Ctx),
  (s.ctx? s.arg.c = some g → g.wait.kind = 3 → g.wait.sat = false → s.satisfied g.wait.witness g.dom = true →
    exec .witnessSatisfiedWake s = .next (s.modCtx s.arg.c fun g => { g with wait := { g.wait with sat := true } })) ∧
  (s.lastExchange + 256 ≤ s.clock → ∃ t, exec .horizonExchange s = .next t ∧ t.lastExchange = s.clock ∧ t.sentHorizon = s.horizonValue ∧
    s.sysSeen ≤ t.sysSeen ∧ (t.sysSeen = s.sysSeen ∨ t.sysSeen ≤ s.horizonValue) ∧
    (∀ p v at_, (p, some (v, at_)) ∈ s.peerSeen → (t.sysSeen = s.sysSeen ∨ t.sysSeen ≤ v) ∧
      (s.peerUp p = true → { kind := 10, port := p, bytes := toBytes 8 s.horizonValue } ∈ t.out)) ∧ t.mem = s.mem) ∧
  (s.peerUp s.arg.id = true → ∃ t, exec .horizonValueReceive s = .next t ∧ t.peerSeen = SMap.set none s.peerSeen s.arg.id (some (s.arg.x, s.clock)) ∧
    s.sysSeen ≤ t.sysSeen ∧ (t.sysSeen = s.sysSeen ∨ t.sysSeen ≤ s.sentHorizon) ∧ t.mem = s.mem))

/-! ### Memory access -/

/-- R188 to R190, R198: a lane's access raises the fault of the lowest lane that fails: ALIGN off its width (a tile's is 16), a tile of G and its version
word that do not lie in one page, BOUNDS outside the space, a version word before it included, and in D what the region map says of each byte, bounds before
world; EVAL holds the lane and the address, one of C, K or D below 0 modulo 2^56 (DESIGN CHOICE, log 97); LDK raises none of them (R197). R188, R191, R194,
R199, R208, R214: what beginning an operation does: memory, registers and control are untouched, one result is pending, and one access is in flight for
each unit, at the location of its address: in a scratchpad where the space puts it, in G where a translation that grants the access puts it; an
all-at-once tile write waits with its version word. -/
def Obligations.AddressChecks : Prop :=
  (∀ (f : FM) (s : State) (l c : Nat) (k : AccKind) (tile : Bool),
  let a := fmAddr s.g f tile l
  let w := if tile then 16 else f.width.bytes
  let lo := if tile then a - 8 else a
  let n := if tile then f.tileBytes + 8 else f.width.bytes
  let check := s.laneCheck s.g f k tile l
  let entry := fun (b : Nat) => (s.rmap.get 0 (b / 2 ^ 16)).toNat
  let mine := s.g.ids.world
  let denied := fun b => (entry b).testBit 0 = false ∨ (k ≠ .store ∧ (entry b).testBit 1 = false) ∨ (k ≠ .load ∧ (entry b).testBit 2 = false)
  let foreign := fun b => let owner := entry b / 256 % 256
    (owner ≠ mine ∧ owner ≠ 0) ∨ (mine ≠ 0 ∧ k ≠ .load ∧ owner = 0 ∧ (entry b).testBit 3 = false)
  let some_ := fun (P : Nat → Prop) => ∃ b : Nat, lo ≤ b ∧ (b : Int) < lo + n ∧ P b
  (a % (w : Int) ≠ 0 → check = some 0x13) ∧
  (a % (w : Int) = 0 → f.space = .g → check =
    if tile = true ∧ (a - 8) / (2 ^ 16 : Nat) ≠ (a + f.tileBytes - 1) / (2 ^ 16 : Nat) then some 0x13 else if a < (2 ^ 56 : Nat) then none else some 0x12) ∧
  (a % (w : Int) = 0 → f.space = .c ∨ f.space = .k → check = if 0 ≤ lo ∧ lo + n ≤ (s.limit s.g f.space : Int) then none else some 0x12) ∧
  (a % (w : Int) = 0 → f.space = .d → ¬ (0 ≤ lo ∧ lo + n ≤ (2 ^ 28 : Nat)) ∨ some_ denied → check = some 0x12) ∧
  (a % (w : Int) = 0 → f.space = .d → 0 ≤ lo → lo + n ≤ (2 ^ 28 : Nat) → ¬ some_ denied → some_ foreign → check = some 0x14) ∧
  (a % (w : Int) = 0 → f.space = .d → 0 ≤ lo → lo + n ≤ (2 ^ 28 : Nat) → ¬ some_ denied → ¬ some_ foreign → check = none) ∧
  (f.space = .g → 0 ≤ a ∧ a < (2 ^ 64 : Nat)) ∧
  (∀ i, (i, k, tile) ∈ [(Instr.ld f, AccKind.load, false), (.st f, .store, false), (.ldlk f, .load, false), (.stul f, .store, false), (.atom f, .atomic, false),
        (.atomc f, .atomic, false), (.tst f, .store, true)] ∨
      (i, k, tile) ∈ [(.ldw f, .load, false), (.tld f, .load, true), (.mwait f, .load, false)] ∧ wValid (s.g.rdW f.wi.toNat) = true ∧ s.g.wait.seen = none →
    Clear i s → l ∈ actLanes s.g f.h → (∀ l' ∈ actLanes s.g f.h, l' < l → s.laneCheck s.g f k tile l' = none) →
    check = some c → exec i s = .next (s.raise c s.g.flow.pc (BitVec.ofNat 64 (l * 2 ^ 59 + wrapTo 56 a))))) ∧
  (∀ (s u : State) (op : MemOp) (p : Pend), Begins s op p u → (∀ q ∈ s.g.pend, q.id < s.nextId) →
  Untroubled s u ∧ u.nextId = s.nextId + 1 + op.reqs.length ∧ (op.aon = none → u.tiles = s.tiles) ∧
  (∀ v, op.aon = some v → op.reqs ≠ [] → (∀ t ∈ s.tiles, t.id ≠ s.nextId) → ∃ t, u.tiles = s.tiles ++ [t] ∧ t.id = s.nextId ∧ t.phase = 0 ∧
    t.owner = some s.g.ids.ref ∧ t.pend = s.nextId ∧ ∀ r a, op.reqs.head? = some r → u.accs[s.accs.length]? = some a → t.ver = a.loc - (r.addr - v)) ∧
  (∃ q, u.g.pend = s.g.pend ++ [q] ∧ q.id = s.nextId ∧ q.marks = p.marks ∧ q.wreg = p.wreg ∧
    (op.kind = .store → q.units = p.units) ∧
    (op.kind ≠ .store → q.units.map (fun e => (e.lane, e.addr, e.reg)) = p.units.map (fun e => (e.lane, e.addr, e.reg)) ++
      op.reqs.map fun r => (r.lane, r.addr, r.reg))) ∧
  ∃ new, u.accs = s.accs ++ new ∧ new.length = op.reqs.length ∧ ∀ (k : Nat) (a : Acc) (r : LaneReq), new[k]? = some a → op.reqs[k]? = some r →
    a.n = op.width.bytes ∧ a.owner = some s.g.ids.ref ∧ a.seq = s.nextId ∧ a.tick = s.clock ∧ a.org = s.g.dom ∧ a.dst = destDom a.loc ∧
    a.tile = (if op.aon.isSome then some s.nextId else none) ∧
    a.op = (match op.kind with
      | .load => .load s.nextId (p.units.length + k)
      | .store => .store (toBytes op.width.bytes r.data) false
      | .atomic => .atomic s.nextId (p.units.length + k) op.width.bytes op.sub r.data r.cmp) ∧
    (op.space ≠ .g → a.loc = s.place s.g op.space r.addr ∧ a.crypt = {} ∧ a.via = none) ∧
    (op.space = .g → ∃ t : Tr, a.loc = t.loc r.addr ∧ a.crypt = t.crypt ∧ a.via = some t ∧ t.covers s.g.ids.asn r.addr = true ∧
      s.grants s.g.ids.world t r.addr op.kind = none))

/-- R193, R195 to R198, R200, R201, R225: loads that pass their checks: each acting lane's access begins, the destination registers are marked, the
instruction completes (a load from a peer then parks); LDW and TLD do so once their witness is satisfied, LDLK once it holds its lock bits. R193, R194, R198, R202, R203, R204: stores and atomics that pass their checks: each acting lane's access begins with the values its registers hold,
a witness is owed, and the instruction completes; STUL's store performs at issue and then its lock bits are released (that it performs before they are is
DEDUCED and unsafe, log 83). R197, R200: LDK never faults: a lane that cannot load reads zero and a status; TLD.VER reads version word and tile at one
instant (one attempt is one step: DESIGN CHOICE, log 31), in G through a translation, tries again while the version is odd, and raises TILE_RETRY when the
64th attempt fails; for a tile of a peer the group parks first for the link's round trip (R196), and the attempt that this begins is made when it wakes
(DEDUCED, log 95). -/
def Obligations.LoadsAndStoresBegin : Prop :=
  (∀ (f : FM) (s u : State),
  let w := s.g.rdW f.wi.toNat
  let good := ∀ l ∈ actLanes s.g f.h, s.laneCheck s.g f .load false l = none
  let can := actLanes s.g f.h ≠ [] ∧ s.g.ld < 63 ∧ s.g.logHolds f.space .load = false
  let starts := fun (i : Instr) => StartsLoad i s u
  let pend := loadPend f f.width.regs
  let locked : State := { s with locks := (lockKeys f s).foldl (fun m k => SMap.set none m k (some (.attached s.g.ids.ref))) s.locks }
  (Clear (.ld f) s → good → can → Begins s (loadOp f s.g) pend u → starts (.ld f)) ∧
  (Clear (.ldw f) s → wValid w = true → good → can → (f.h.y = true → s.g.guardC f.h = true) → s.satisfied w s.g.dom = true → Begins s (loadOp f s.g) pend u → starts (.ldw f)) ∧
  (Clear (.ldlk f) s → good → can → (∀ k ∈ lockKeys f s, s.lockedFor (some s.g.ids.ref) k = false) → Begins locked (loadOp f s.g) pend u →
    starts (.ldlk f)) ∧
  (Clear (.tld f) s → wValid w = true → (∀ l ∈ actLanes s.g f.h, s.laneCheck s.g f .load true l = none) → can → s.g.exec f.h ≠ 0 →
    s.satisfied w s.g.dom = true → f.ver = false →
    Begins s { loadOp f s.g with reqs := tileReqs f s.g false } (loadPend f (f.rows * f.width.regs)) u → starts (.tld f)) ∧
  (∀ i, i ∈ [Instr.ld f, .ldlk f] ∨ i = .ldw f ∧ wValid w = true → Clear i s → actLanes s.g f.h = [] → Does i s s) ∧
  (Clear (.ldw f) s → wValid w = true → good → f.h.y = true → s.g.guardC f.h = false → Does (.ldw f) s s) ∧
  (∀ i, i ∈ [Instr.ld f, .ldlk f] → Clear i s → good → actLanes s.g f.h ≠ [] → 63 ≤ s.g.ld → exec i s = .next (s.modG Ctx.holdAtIssue)) ∧
  (Clear (.ldlk f) s → good → actLanes s.g f.h ≠ [] → s.g.ld < 63 → (∃ k ∈ lockKeys f s, s.lockedFor (some s.g.ids.ref) k = true) →
    exec (.ldlk f) s = .next (s.modG Ctx.holdAtIssue))) ∧
  (∀ (f : FM) (s u : State),
  let good := fun (k : AccKind) (tile : Bool) => ∀ l ∈ actLanes s.g f.h, s.laneCheck s.g f k tile l = none
  let can := fun (k : AccKind) => s.g.logHolds f.space k = false
  let aon := f.aon && s.g.exec f.h != 0
  (Clear (.st f) s → good .store false → can .store → Begins s (storeOp f s.g) (storePend f s) u → Does (.st f) s u) ∧
  (Clear (.tst f) s → good .store true → can .store →
    Begins s { storeOp f s.g with reqs := tileReqs f s.g true, aon := if aon then some ((fmAddr s.g f true 0).toNat - 8) else none }
      { storePend f s with ready := !aon } u → Does (.tst f) s u) ∧
  (∀ i, i = .atom f ∨ i = .atomc f → Clear i s → good .atomic false → can .atomic →
    Begins s (atomOp f s.g) { storePend f s with kind := .atomic, marks := (if actLanes s.g f.h = [] then [] else destRegs f.h.y f.data.toNat f.width.regs) ++ witReg f.wo } u →
    Does i s u) ∧
  (Clear (.stul f) s → good .store false → can .store → Begins s (storeOp f s.g) (storePend f s) u →
    ∃ t, Does (.stul f) s t ∧ (∀ k ∈ lockKeys f s, t.locks.get none k ≠ some (.attached s.g.ids.ref)) ∧
      (∀ k, k ∉ lockKeys f s → t.locks.get none k = s.locks.get none k) ∧
      t.mem = ((u.accs.filter fun a => s.nextId ≤ a.id).foldl (fun s a => s.tryPerform a.id) u).mem)) ∧
  (∀ (f : FM) (s u v : State) (loc : Nat),
  let ls := actLanes s.g f.h
  let codes := ldkCodes f ls s
  let code := fun l => ((codes.find? (·.1 == l)).map (·.2)).getD 0
  let st := (codes.map fun (l, c) => (if c = 0 then [] else (List.range f.width.regs).map fun i => (l, f.data.toNat + i, (0 : Word))) ++
    [(l, f.data.toNat + f.width.regs, BitVec.ofNat 32 c)]).flatten
  let w := s.g.rdW f.wi.toNat
  let base := (fmAddr s.g f true 0).toNat
  let lane := (lanes (s.g.exec f.h)).headD 0
  let begun := s.g.wait.kind = 4 ∧ s.g.sched.tries ≠ 0
  let n := if begun then s.g.sched.tries else s.g.sched.tries + 1
  let may := Clear (.tld f) s ∧ wValid w = true ∧ (∀ l ∈ ls, s.laneCheck s.g f .load true l = none) ∧ s.g.exec f.h ≠ 0 ∧ s.satisfied w s.g.dom = true ∧
    f.ver = true ∧ s.g.ld < 63 ∧ s.g.logHolds f.space .load = false ∧ (f.space = .g → s.g.behindLog s.nextId (base - 8) (f.tileBytes + 8) = false) ∧ Idle s
  let tile := may ∧ (f.space ≠ .g ∧ v = s ∧ loc = s.place s.g f.space base ∨
    f.space = .g ∧ ∃ tr, s.translate lane base .load = .ok (v, tr) ∧ tr.crypt.enc = false ∧ loc = tr.loc base ∧ (onPeer loc = true → begun))
  let odd := s.mem.readN (loc - 8) 8 % 2 = 1
  codes.map (·.1) = ls ∧
  (∀ l ∈ ls, (∀ c, s.laneCheck s.g f .load false l = some c → code l = c) ∧ (s.laneCheck s.g f .load false l = none →
    (f.space ≠ .g → code l = 0) ∧ code l ∈ [0, 0x10, 0x11, 0x14, 0x15] ∧
    (ls.head? = some l → f.space = .g → ∀ c, s.translate l (fmAddr s.g f false l).toNat .load = .error c → code l = c) ∧
    (f.space = .g → ∀ x, s.translate l (fmAddr s.g f false l).toNat .load = .ok x → ls.head? = some l → code l = 0))) ∧
  (Clear (.ldk f) s → ls = [] → Does (.ldk f) s s) ∧
  (Clear (.ldk f) s → ls ≠ [] → s.g.ld < 63 → s.g.logHolds f.space .load = false →
    Begins s { loadOp f s.g with reqs := (loadOp f s.g).reqs.filter fun r => codes.contains (r.lane, 0) }
      { loadPend f (f.width.regs + 1) with status := st } u → StartsLoad (.ldk f) s u) ∧
  (tile → odd → n < 64 → exec (.tld f) s = .next ((v.modG fun g => { g with sched := { g.sched with tries := n } }).modG Ctx.holdAtIssue)) ∧
  (may → f.space = .g → ¬ begun → ∀ tr, s.translate lane base .load = .ok (v, tr) → onPeer (tr.loc base) = true → ∃ t, exec (.tld f) s = .next t ∧
    t.g.wait = { kind := 4, addr := s.nextId } ∧ t.g.sched.tries = n ∧ t.g.flow = s.g.flow ∧ t.g.regs = s.g.regs ∧ t.mem = s.mem) ∧
  (tile → odd → 64 ≤ n → exec (.tld f) s = .next (s.raise 0x17 s.g.flow.pc (BitVec.ofNat 64 base))) ∧
  (∀ c, may → f.space = .g → s.translate lane base .load = .error c → exec (.tld f) s = .next (s.raise c s.g.flow.pc (BitVec.ofNat 64 base))) ∧
  (tile → ¬ odd → s.poison = [] → s.g.flow.dead = 0 → ∃ t, Does (.tld f) s t ∧ t.mem = s.mem ∧
    (∀ r l, r < f.rows → bit (s.g.exec f.h) l = true → l < 32 →
      Holds t.g false (f.data.toNat + r * f.width.regs) l f.width.regs (extend f.width (s.mem.readN (loc + (32 * r + l) * f.width.bytes) f.width.bytes))) ∧
    ∀ r l, l < 32 → bit (s.g.exec f.h) l = false → t.g.rdV r l = s.g.rdV r l))

/-- R203, R214, R215, R247: an access that nothing holds back performs: a store's bytes are written, an atomic's old value is returned and its new one
written, watchers of the sector are told; in local HBM outside protected buffers the line's MAC slot becomes zero (R414). R418, R445: one whose key is not
resident, or whose peer is not up, waits; R418: one whose key id has no key writes nothing and is counted. R429: a store narrower than a poisoned unit
writes nothing, an aligned store of 8 bytes clears the poison, and poisoned data poisons what it is written to. R203: the new value of every atomic operation, modulo its width; the reals of FADD aside. -/
def Obligations.AccessesPerform : Prop :=
  (∀ (s : State) (a : Acc),
  let free := s.accs.find? (·.id == a.id) = some a ∧ s.blocked a = false ∧ a.crypt.enc = false ∧
    (∀ b ∈ s.accs.takeWhile (·.id != a.id), b.owner = a.owner → a.overlaps b.loc b.n = false) ∧ s.poison = [] ∧ s.tiles.all (·.id != a.id)
  let writes := fun (t : State) (bs : List Byte) => ∀ b,
    t.mem.get 0 b = if a.loc ≤ b ∧ b < a.loc + bs.length ∧ ¬ (a.loc < Config.reservedBase ∧ macSlot a.loc ≤ b ∧ b < macSlot a.loc + 8) then bs.getD (b - a.loc) 0
      else if a.loc < Config.reservedBase ∧ macSlot a.loc ≤ b ∧ b < macSlot a.loc + 8 then 0 else s.mem.get 0 b
  let gone := fun (t : State) => t.accs = s.accs.filter (·.id != a.id)
  s.arg.id = a.id → free →
  (∀ bs, a.op = .store bs false → ∃ t, exec .storePerform s = .next t ∧ gone t ∧ writes t bs ∧ t.g.regs = s.g.regs ∧ t.poison = [] ∧
    (∀ w, s.g.sched.watch = some w → w / 32 = a.loc / 32 → t.g.sched.recheck = true)) ∧
  (∀ p e w sub x cmp, a.op = .atomic p e w sub x cmp → a.owner = some s.g.ids.ref → 
    let old := s.mem.readN a.loc a.n
    ∃ t, exec .storePerform s = .next t ∧ gone t ∧ writes t (toBytes w (atomNew w sub old x cmp)) ∧ t.g.regs = s.g.regs ∧
      ∀ q ∈ s.g.pend, q.id = p → ∀ m, q.units[e]? = some m → ∃ q' ∈ t.g.pend, q'.id = p ∧
        q'.units[e]? = some { m with got := some (old, false), src := 0 })) ∧
  (∀ (s : State) (a : Acc) (bs : List Byte) (bad : Bool), s.arg.id = a.id → s.accs.find? (·.id == a.id) = some a → s.tiles.all (·.id != a.id) = true →
  a.op = .store bs bad →
  let gone := fun (t : State) => t.accs = s.accs.filter (·.id != a.id)
  let free := s.blocked a = false ∧ s.keyAway a.crypt = false ∧ ∀ b ∈ s.accs.takeWhile (·.id != a.id), b.owner = a.owner → a.overlaps b.loc b.n = false
  (onPeer a.loc = true → s.peerUp (peerOf a.loc) = false → exec .storePerform s = .next s) ∧
  (s.keyAway a.crypt = true → exec .storePerform s = .next s) ∧
  (free → a.crypt.enc = true → s.lineKey a.crypt a.loc = none → ∃ t, exec .storePerform s = .next t ∧ gone t ∧ t.mem = s.mem ∧ t.poison = s.poison ∧
    t.errUE.get 0 11 = min (s.errUE.get 0 11 + 1) 0xFFFFFFFF) ∧
  (free → a.crypt.enc = false → s.poisoned a.loc = true → bs.length ≠ 8 → bad = false → ∃ t, exec .storePerform s = .next t ∧ gone t ∧ t.mem = s.mem ∧
    t.poison = s.poison) ∧
  (free → a.crypt.enc = false → bs.length = 8 → bad = false → ∃ t, exec .storePerform s = .next t ∧ gone t ∧ ∀ l, t.poisoned l = (s.poisoned l && l / 8 != a.loc / 8)) ∧
  (free → a.crypt.enc = false → bad = true → ∃ t, exec .storePerform s = .next t ∧ gone t ∧
    ∀ l, a.loc ≤ l → l < a.loc + bs.length → t.poisoned l = true)) ∧
  (∀ (w old x cmp : Nat), (w = 4 ∨ w = 8) → old < 2 ^ (8 * w) → x < 2 ^ (8 * w) →
  let b := 8 * w
  let sgn := fun (v : Nat) => if v < 2 ^ (b - 1) then (v : Int) else v - (2 ^ b : Nat)
  (∀ sub, sub ≤ 9 → atomNew w sub old x cmp < 2 ^ b) ∧
  atomNew w 0 old x cmp = (old + x) % 2 ^ b ∧
  sgn (atomNew w 1 old x cmp) = min (sgn old) (sgn x) ∧ sgn (atomNew w 2 old x cmp) = max (sgn old) (sgn x) ∧
  atomNew w 3 old x cmp = min old x ∧ atomNew w 4 old x cmp = max old x ∧
  (∀ k, (atomNew w 5 old x cmp).testBit k = (old.testBit k && x.testBit k)) ∧
  (∀ k, (atomNew w 6 old x cmp).testBit k = (old.testBit k || x.testBit k)) ∧
  (∀ k, (atomNew w 7 old x cmp).testBit k = (old.testBit k ^^ x.testBit k)) ∧
  atomNew w 8 old x cmp = x ∧ atomNew w 9 old x cmp = if old = cmp then x else old)

/-- R103, R193 to R196, R201, R206: results come back: when every unit has its data, its registers are written in the lanes that live and nowhere else,
its witness is written and joins the store mark; a group parked at a peer load wakes; a blocked lock set is tried again. R212, R213: a lane of a group whose address does not translate does not stop the instruction: it completes, an operand-log entry keeps the lanes that
failed, and the Prefect is told; a system core takes the fault at the instruction (R362). Once the Prefect has resolved it, the entry is
replayed and leaves the log. (That one entry holds all the failing lanes of an instruction is DEDUCED, log 32; that its cause is that of the lowest of
them is a DESIGN CHOICE, log 103.) -/
def Obligations.ResultsReturn : Prop :=
  (∀ (s : State) (p : Pend),
  let live := fun l => p.uni = true ∨ bit s.g.flow.dead l = false
  let touched := fun r l => ∃ e ∈ p.units, e.lane = l ∧ e.reg ≤ r ∧ r < e.reg + e.width.regs
  let due := s.arg.c = s.g.ids.ref ∧ s.g.pend.find? (fun q => q.id == s.arg.id && q.kind == p.kind) = some p ∧ s.g.pend.find? (·.id == p.id) = some p ∧
    p.complete = true ∧ s.accs = [] ∧ p.status = [] ∧ (∀ e ∈ p.units, e.lane < 32 ∧ ∃ v, e.got = some (v, false)) ∧
    p.units.Pairwise fun e e' => ¬ (e.lane = e'.lane) ∨ e.reg + e.width.regs ≤ e'.reg ∨ e'.reg + e'.width.regs ≤ e.reg
  let landed := fun (t : State) => 
    (∀ e v, e ∈ p.units → live e.lane → e.got = some (v, false) → Holds t.g p.uni e.reg e.lane e.width.regs (extend e.width v)) ∧
    (∀ r l, l < 32 → p.uni = true ∨ ¬ (touched r l ∧ live l) → t.g.rdV r l = s.g.rdV r l) ∧
    (p.uni = false → ∀ r, t.g.rdS r = s.g.rdS r) ∧
    (p.store = false → t.g.mark = s.g.mark ∧ ∀ r, t.g.rdW r = s.g.rdW r) ∧
    (p.store = true → p.plus = 0 → t.g.mark = mergeWit s.now s.g.mark p.wit ∧ 
      ∀ r, t.g.rdW r = if r = p.wreg ∧ r ≠ 15 then p.wit else s.g.rdW r) ∧
    t.g.pend = s.g.pend.filter (fun q => q.id != p.id) ∧ t.mem = s.mem ∧ t.g.flow = s.g.flow
  let uniOk := p.uni = true → ∀ e ∈ p.units, e.lane = 0
  (due → uniOk → p.kind = .load → ∃ t, exec .loadDataReturn s = .next t ∧ landed t) ∧
  (due → uniOk → p.kind = .peer → ∃ t, exec .peerLoadReturn s = .next t ∧ landed t ∧ (s.g.wait.kind = 4 → s.g.wait.addr = p.id → t.g.wait.sat = true)) ∧
  (due → uniOk → p.kind = .atomic ∨ p.kind = .witness → p.ready = true → (s.g.pend.find? fun q => q.id == s.arg.id && (q.kind == .witness || q.kind == .atomic)) = some p →
    ∃ t, exec .pendingWriteComplete s = .next t ∧ landed t) ∧
  (∀ g, s.ctx? s.arg.c = some g → g.sched.stalled = true → exec .ldlkRetry s = .next (s.modCtx s.arg.c (·.setStalled false)))) ∧
  (∀ (f : FM) (s u : State) (r : LaneReq) (c : Nat) (fs : List (LaneReq × Nat)),
  let q := s.pref s.g.cluster
  let begun := State.admitAll { loadOp f s.g with pend := s.nextId } (loadOp f s.g).reqs ({ s with nextId := s.nextId + 1 }.modG fun g =>
    { g with pend := g.pend ++ [{ loadPend f f.width.regs with id := s.nextId, level := g.traps.level }] }) = (u, (r, c) :: fs)
  let can := Clear (.ld f) s ∧ (∀ l ∈ actLanes s.g f.h, s.laneCheck s.g f .load false l = none) ∧ actLanes s.g f.h ≠ [] ∧ s.g.ld < 63 ∧
    s.g.logHolds f.space .load = false ∧ (u.g.pend.all fun q => q.kind != .peer) = true ∧ begun
  (can → s.g.isSys = true → exec (.ld f) s = .next (s.raise c s.g.flow.pc (BitVec.ofNat 64 r.addr))) ∧
  (can → s.g.isSys = false → s.g.log.length < 4 → c = 0x10 ∨ c = 0x11 → s.g.cluster < s.prefs.length → q.trapq.length < 64 → q.posted = [] →
    ∃ t e rcd, Does (.ld f) s t ∧ t.g.log = s.g.log ++ [e] ∧ e.pc = s.g.flow.pc ∧ e.state = 1 ∧ e.cause = c ∧ e.va = r.addr ∧
      e.op.reqs = r :: fs.map (·.1) ∧ e.fmask = maskOf (r.lane :: fs.map (·.1.lane)) ∧ e.level = s.g.traps.level ∧
      (t.pref s.g.cluster).trapq = q.trapq ++ [rcd] ∧ rcd.typ = 1 ∧ rcd.handle = s.g.handle ∧ rcd.tag = e.ix ∧ rcd.cause = c ∧
      rcd.value = BitVec.ofNat 64 r.addr ∧ t.g.regs = s.g.regs ∧ t.mem = s.mem) ∧
  (∀ e, s.arg.c = s.g.ids.ref → (∀ x ∈ s.others, x.ids.ref ≠ s.g.ids.ref) → s.g.log.find? (·.state == 2) = some e → e.op.pend ≠ 0 → e.op.tail = none →
    State.admitAll e.op e.op.reqs s = (u, []) → ∃ t, exec .operandLogReplay s = .next t ∧
      t.g.log = u.g.log.filter (fun x => x.ix != e.ix) ∧ t.accs = u.accs ∧ t.mem = s.mem ∧
      ∀ p ∈ t.g.pend, p.id = e.op.pend → p.logged = false))

/-! ### Synchronisation -/

/-- R235 to R243, R254: bells: BINIT sets the expected count, at once or for the next phase; an arrival joins its witness and its place, and the one that
fills the phase completes it: the phase witness, the next phase number and count; a waiter whose phase is over receives the phase
witness, another parks; BARRM also checks the members' masks. R239, R240: of the instructions that issue in one clock at one team's bells, BWAIT comes
first, so that it sees no completion of its clock, then BINIT, then the arrivals by ascending position; none may issue before one it comes after. -/
def Obligations.Bells : Prop := ∀ (f : FS) (s : State) (t : Team),
  let n := f.sel.toNat
  let b := s.bell n
  let w := s.g.rdW f.wf.toNat
  let m := s.g.rdS f.a.toNat
  let tok := (s.g.rdS f.a.toNat).toNat
  let past := s.g.wait.kind = 1 ∧ s.g.wait.sat = true
  let near := fun (tok : Nat) => 1 ≤ (b.phase + 2 ^ 32 - tok % 2 ^ 32) % 2 ^ 32 ∧ (b.phase + 2 ^ 32 - tok % 2 ^ 32) % 2 ^ 32 < 2 ^ 31
  let came : Bell := { b with acc := mergeWit s.now b.acc (mergeWit s.now s.g.mark w), amask := b.amask ||| maskOf [s.g.ids.gpos],
                              arrived := b.arrived + 1 }
  let closed := fun (b : Bell) => ({ pwit := mergeWit s.now b.pwit b.acc, phase := (b.phase + 1) % 2 ^ 32,
                                     expect := if b.next = 0 then b.expect else b.next } : Bell)
  let last := b.expect ≤ b.arrived + 1
  let sets := fun (i : Instr) (b : Bell) (k : Ctx → Ctx) => ∃ u, Does i s u ∧ u.bell n = b ∧ u.g = k s.g ∧ u.mem = s.mem
  let parks := fun (i : Instr) (b : Bell) (tok : Nat) => s.g.sched.expiry = false → ∃ u, exec i s = .next u ∧ u.bell n = b ∧
    u.g.wait = { kind := 1, addr := n, comparand := tok } ∧ u.g.flow = s.g.flow ∧ u.g.regs = s.g.regs ∧ u.mem = s.mem
  let can := fun (i : Instr) => Clear i s ∧ wValid w = true ∧ s.g.storesFormed = true ∧ ¬ past
  s.team? s.g = some t → n < t.bells.length →
  (Clear (.binit f) s → b.arrived = 0 → sets (.binit f) { b with expect := f.imm.toNat, next := 0 } id) ∧
  (Clear (.binit f) s → b.arrived ≠ 0 → sets (.binit f) { b with next := f.imm.toNat } id) ∧
  (Clear (.binitNow f) s → b.arrived = 0 ∨ b.arrived < f.imm.toNat → sets (.binitNow f) { b with expect := f.imm.toNat, next := 0 } id) ∧
  (Clear (.binitNow f) s → b.arrived ≠ 0 → f.imm.toNat ≤ b.arrived → b.ranked = [] →
    sets (.binitNow f) (closed { b with expect := f.imm.toNat, next := 0 }) id) ∧
  (Clear (.barr f) s → wValid w = true → s.g.storesFormed = true → b.ranked = [] →
    sets (.barr f) (if last then closed came else came) fun g => g.wrS f.d.toNat (BitVec.ofNat 32 b.phase)) ∧
  (Clear (.bwait f) s → near tok → sets (.bwait f) b fun g => g.wrW f.d.toNat b.pwit) ∧
  (Clear (.bwait f) s → ¬ near tok → parks (.bwait f) b tok) ∧
  (can (.bsync f) → last → b.ranked = [] → sets (.bsync f) (closed came) fun g => g.wrW f.d.toNat (closed came).pwit) ∧
  (can (.bsync f) → ¬ last → parks (.bsync f) came b.phase) ∧
  (can (.barrm f) → bit b.amask s.g.ids.gpos = true → exec (.barrm f) s = .next (s.raise 0x41 s.g.flow.pc (m ++ b.amask))) ∧
  (can (.barrm f) → bit b.amask s.g.ids.gpos = false → last → b.ranked = [] → m = came.amask →
    sets (.barrm f) (closed came) fun g => g.wrW f.d.toNat (closed came).pwit) ∧
  (can (.barrm f) → bit b.amask s.g.ids.gpos = false → last → b.ranked = [] → m ≠ came.amask → s.g.sched.killed = false → s.g.sched.finalWait = false →
    sets (.barrm f) (closed came) fun g => { g.wrW f.d.toNat (closed came).pwit with traps := { g.traps with delivered := g.traps.delivered ++
      [{ cause := 0x41, value := m.toNat * 2 ^ 32 + came.amask.toNat, level := g.traps.level }] } }) ∧
  (can (.barrm f) → bit b.amask s.g.ids.gpos = false → ¬ last →
    parks (.barrm f) { came with ranked := b.ranked ++ [{ c := s.g.ids.ref, mask := m, level := s.g.traps.level }] } b.phase) ∧
  (∀ i, i = .barr f ∨ (i = .bsync f ∨ i = .barrm f) ∧ ¬ past → Clear i s → wValid w = true → s.g.storesFormed = false → exec i s = .next (s.modG Ctx.holdAtIssue)) ∧
  (∀ i, i = .bsync f ∨ i = .barrm f → Clear i s → past → near s.g.wait.comparand → sets i b fun g => g.wrW f.d.toNat b.pwit) ∧
  (s.arg.c = s.g.ids.ref → s.g.wait.kind = 1 → s.g.wait.sat = false → s.g.wait.addr = n → near s.g.wait.comparand →
    exec .bellWake s = .next (s.modG fun g => { g with wait := { g.wait with sat := true } })) ∧
  (∀ (g h : Ctx) (x y : Chosen) (i j : Instr), g.ids.grid = h.ids.grid → g.ids.team = h.ids.team → x.turn = turnOf g i → y.turn = turnOf h j →
    let arrives := [Instr.barr f, .bsync f, .barrm f]
    let sets := [Instr.binit f, .binitNow f]
    (i = .bwait f ∧ j ∈ sets ++ arrives ∨ i ∈ sets ∧ j ∈ arrives ∨ i ∈ arrives ∧ j ∈ arrives ∧ g.ids.gpos < h.ids.gpos) → x.precedes y = true) ∧
  (∀ x ∈ s.chosen, ∀ y ∈ s.chosen, x.todo = true → y.todo = true → x.precedes y = true → (∀ h ∈ s.chosen, h.c = y.c → h = y) → y.mate = none →
    y.c ∉ s.mayIssue)

/-- R245 to R254: MWAIT reads its word, in G through a translation, and completes with a value that differs, else it parks and watches; a write to the sector,
or the interval, makes it read again: a word that differs there ends the wait, and MWAIT completes with it when the group runs on; a first read that does not
translate enters the operand log and the group stays at MWAIT (R248), a system core takes the fault (R362); WAIT completes when the counters are within its limits; SLEEP parks until its tick. -/
def Obligations.WaitsAndSleeps : Prop := ∀ (f : FM) (fs : FS) (s r : State) (d : BitVec 512) (l at_ : Nat),
  let w := s.g.rdW f.wi.toNat
  let a := (fmAddr s.g f false 0).toNat
  let x := s.g.rd true f.data.toNat 0 f.width.regs
  let v := s.mem.readN at_ f.width.bytes
  let sound := Idle s ∧ s.poison = [] ∧ s.g.log = [] ∧ (f.space ≠ .g ∧ r = s ∧ at_ = s.place s.g f.space a ∨
    f.space = .g ∧ ∃ tr, s.translate 0 a .load = .ok (r, tr) ∧ tr.crypt.enc = false ∧ at_ = tr.loc a)
  let can := Clear (.mwait f) s ∧ wValid w = true ∧ (∀ l ∈ actLanes s.g f.h, s.laneCheck s.g f .load false l = none) ∧ s.g.wait.seen = none
  let wait : Wait := { kind := 5, addr := a, comparand := x, witness := w }
  let lim := fs.imm.toNat
  let imm := (s.now + fs.imm.toNat) % 2 ^ 50
  let reg := (s.g.rdS64 fs.a.toNat).toNat % 2 ^ 50
  let tick := if fs.var8 = 0 then imm else reg
  let reached := fun (t : Nat) => (s.now + 2 ^ 50 - t % 2 ^ 50) % 2 ^ 50 < 2 ^ 49
  let slept := s.g.wait.kind = 10 ∧ s.g.wait.sat = true
  let parked := s.arg.c = s.g.ids.ref ∧ (∀ o ∈ s.others, o.ids.ref ≠ s.g.ids.ref) ∧ s.g.flow.line = some (l, d) ∧
    decode (lineSlot d (slotIx s.g.flow.pc)) = .ok (.mwait f) ∧ s.g.wait.kind = 5 ∧ s.g.wait.sat = false ∧ s.g.wait.addr = a ∧ s.g.wait.comparand = x ∧
    s.g.sched.watch ≠ none ∧ s.g.sched.escalated = false
  (can → sound → s.satisfied w s.g.dom = true → v ≠ x → Does (.mwait f) s (r.modG fun g => g.wr true f.data.toNat 0 f.width.regs v)) ∧
  (can → sound → s.satisfied w s.g.dom = true → v = x → s.g.sched.expiry = false → ∃ t, exec (.mwait f) s = .next t ∧ t.g.wait = wait ∧
    t.g.sched.watch = some at_ ∧ t.g.sched.recheckAt = s.clock + recheckInterval at_ ∧ t.g.flow = s.g.flow ∧ t.g.regs = s.g.regs ∧ t.mem = s.mem) ∧
  (can → s.satisfied w s.g.dom = false → s.g.sched.expiry = false → ∃ t, exec (.mwait f) s = .next t ∧ t.g.wait = wait ∧ t.g.flow = s.g.flow ∧
    t.g.regs = s.g.regs ∧ t.mem = s.mem) ∧
  (∀ c, can → s.satisfied w s.g.dom = true → f.space = .g → s.g.log = [] → s.translate 0 a .load = .error c →
    (s.g.isSys = true → exec (.mwait f) s = .next (s.raise c s.g.flow.pc (BitVec.ofNat 64 a))) ∧
    (s.g.isSys = false → c = 0x10 ∨ c = 0x11 → ∃ t e, exec (.mwait f) s = .next t ∧ t.g.log = [e] ∧ e.cause = c ∧ e.va = a ∧ e.pc = s.g.flow.pc ∧ e.state = 1 ∧
      t.g.flow = s.g.flow ∧ t.g.regs = s.g.regs ∧ t.mem = s.mem)) ∧
  (∀ v, Clear (.mwait f) s → s.g.wait.seen = some v → Does (.mwait f) s (s.modG fun g => g.wr true f.data.toNat 0 f.width.regs v)) ∧
  (∀ e, e = .mwaitRecheck ∧ s.g.sched.recheck = true ∨ e = .mwaitIntervalExpiry ∧ s.g.sched.recheckAt ≤ s.clock → parked → sound →
    (v ≠ x → ∃ t, exec e s = .next t ∧ t.g.flow = s.g.flow ∧ t.g.wait = { s.g.wait with sat := true, seen := some v } ∧ t.g.sched.watch = none ∧
      t.g.sched.recheck = false ∧ t.g.regs = s.g.regs ∧ t.mem = s.mem) ∧
    (v = x → ∃ t, exec e s = .next t ∧ t.g.flow = s.g.flow ∧ t.g.wait = s.g.wait ∧ t.g.regs = s.g.regs ∧ t.g.sched.recheck = false ∧
      t.g.sched.recheckAt = s.clock + recheckInterval at_ ∧ t.mem = s.mem)) ∧
  (let within := s.g.ld ≤ lim % 64 ∧ s.g.cmds.cp ≤ lim / 2 ^ 8 % 32 ∧ s.g.cmds.mx ≤ lim / 2 ^ 16 % 32 ∧ s.g.cmds.sc ≤ lim / 2 ^ 24 % 16
   Clear (.wait fs) s → (within → Does (.wait fs) s s) ∧ (¬ within → exec (.wait fs) s = .next (s.modG Ctx.holdAtIssue))) ∧
  (Clear (.sleep fs) s → slept ∨ reached tick ∧ s.g.sched.expiry = false → Does (.sleep fs) s s) ∧
  (Clear (.sleep fs) s → ¬ slept → ¬ reached tick → s.g.sched.expiry = false → ∃ t, exec (.sleep fs) s = .next t ∧
    t.g.wait = { kind := 10, comparand := tick } ∧ t.g.flow = s.g.flow ∧ t.g.regs = s.g.regs ∧ t.mem = s.mem) ∧
  (s.arg.c = s.g.ids.ref → s.g.wait.kind = 10 → s.g.wait.sat = false → reached s.g.wait.comparand →
    exec .sleepWake s = .next (s.modG fun g => { g with wait := { g.wait with sat := true } }))

/-! ### The matrix engine -/

/-- R249, R256, R262 to R275, R281, R289 to R297: matrix and affine instructions that name a tile check their operands, wait while the MX counter is full, and
enter the engine order with the operands they read; registers and memory are untouched. (Which of several failed checks is reported where the spec gives
no order, and the addresses that a drain reports, and what MCRY does with no lane: DESIGN CHOICE, log 102; that A's scale words come before B's: DEDUCED,
log 29.) -/
def Obligations.MatrixIssue : Prop := ∀ (f : FX) (s : State),
  let g := s.g
  let x := (g.rdS f.bbase.toNat).toNat
  let opx := f.opx.toNat
  let within := fun (al n : Nat) => x % al = 0 ∧ x + n ≤ s.limit g .c
  let room := g.cmds.mx < 31
  let live := g.exec f.h ≠ 0
  let enters := fun (i : Instr) (what : MxWhat) (counted : Bool) (wreg : Nat) => ∃ u o, Does i s u ∧ u.mxq = s.mxq ++ [o] ∧ o.what = what ∧
    o.tile = f.tile.toNat ∧ o.c = g.ids.ref ∧ o.grid = g.ids.grid ∧ o.team = g.ids.team ∧ o.core = g.ids.core ∧ o.cls = g.mclass ∧
    o.counted = counted ∧ o.phase = 0 ∧ o.wreg = wreg ∧ u.g.cmds.mx = (if counted then g.cmds.mx + 1 else g.cmds.mx) ∧
    (wreg ≠ 15 → ∃ p ∈ u.g.pend, p.marks = [.w wreg] ∧ p.ready = false) ∧ u.g.regs = g.regs ∧ u.mem = s.mem
  let image := imageBytes (f.opx.getLsbD 0)
  let d := drainOf f g
  let m := mmaOf f g
  let affine := modeAt s f.tile.toNat = true
  let bf := f.fmta == .bf16
  let setG := if f.opx.getLsbD 0 then some (g.rdS64 f.abase.toNat) else none
  let setC := if f.opx.getLsbD 1 then some (g.rdS64 (f.abase.toNat + 2)) else none
  (Clear (.mzero f) s → room → enters (.mzero f) .zero true 15) ∧
  (Clear (.mlda f) s → within 64 image → room → enters (.mlda f) (.load x (f.opx.getLsbD 0)) true 15) ∧
  (Clear (.msta f) s → within 64 image → room → enters (.msta f) (.store x (f.opx.getLsbD 0)) true f.kst.toNat) ∧
  (Clear (.mdrn f) s → drainFault f s d = none → room → enters (.mdrn f) (.drain d) true f.kst.toNat) ∧
  (Clear (.mma f) s → ¬ live → Does (.mma f) s s) ∧
  (Clear (.mma f) s → live → mxFormat m = none → mmaFault s m (mmaRows f g) = none → room → Idle s → ∃ rows,
    enters (.mma f) (.mma { m with rows }) true 15 ∧ rows.length = m.rows.length ∧
    ∀ (k : Nat) (r : MmaRow), m.rows[k]? = some r → rows[k]? = some { r with
      first := s.mem.readN (s.place g .c (m.a0 + r.idx * m.stride)) m.stepA, bad := s.rangeBad (s.place g .c (m.a0 + r.idx * m.stride)) m.stepA }) ∧
  (∀ w, Clear (.mma f) s → live → mxFormat m = some w → exec (.mma f) s = .next (s.raise 0x21 g.flow.pc (BitVec.ofNat 64 w))) ∧
  (∀ c v, Clear (.mma f) s → live → mxFormat m = none → mmaFault s m (mmaRows f g) = some (c, v) → exec (.mma f) s = .next (s.raise c g.flow.pc v)) ∧
  (∀ c v, Clear (.mdrn f) s → drainFault f s d = some (c, v) → exec (.mdrn f) s = .next (s.raise c g.flow.pc v)) ∧
  (∀ i, i ∈ [Instr.mlda f, .msta f] → Clear i s → x % 64 ≠ 0 → exec i s = .next (s.raise 0x13 g.flow.pc (laneEval 0 x))) ∧
  (∀ i, i ∈ [Instr.mlda f, .msta f] → Clear i s → x % 64 = 0 → s.limit g .c < x + image → exec i s = .next (s.raise 0x12 g.flow.pc (laneEval 0 x))) ∧
  (∀ i, i ∈ [Instr.mzero f] ∨ i ∈ [Instr.mlda f, .msta f] ∧ within 64 image ∨ i = .mdrn f ∧ drainFault f s d = none ∨
      i = .mma f ∧ live ∧ mxFormat m = none ∧ mmaFault s m (mmaRows f g) = none ∨ i = .mgain f ∧ affine ∧ within 16 (gainBytes (f.opx.getLsbD 0) bf) ∨
      i = .mset f ∧ (f.opx.getLsbD 0 = true → affine) ∨ i = .mscan f ∧ affine → Clear i s → ¬ room → exec i s = .next (s.modG Ctx.holdAtIssue)) ∧
  (Clear (.mafm f) s → enters (.mafm f) (.mode (f.opx.getLsbD 0)) false 15) ∧
  (Clear (.mgain f) s → affine → within 16 (gainBytes (f.opx.getLsbD 0) bf) → room → enters (.mgain f) (.gain x (f.opx.getLsbD 0) bf) true 15) ∧
  (Clear (.mset f) s → (f.opx.getLsbD 0 = true → affine) → room → enters (.mset f) (.set setG setC (opx / 4 % 64) (opx / 256 % 64)) true 15) ∧
  (Clear (.mscan f) s → affine → room → enters (.mscan f) (.scan (f.opx.getLsbD 0) (f.opx.getLsbD 1) (gainFloor g)) true 15) ∧
  (Clear (.mcryPut f) s → affine → live → enters (.mcryPut f)
    (.putH ((lanes (g.exec f.h)).map fun l => (l, BitVec.ofNat 64 (g.rd false f.idx.toNat l 2)))) false 15) ∧
  (Clear (.mcryUfc f) s → affine → live → enters (.mcryUfc f) (.clearU (g.exec f.h)) false 15) ∧
  (∀ i w what, (i, w, what) ∈ [(Instr.mcryGet f, Width.b64, MxWhat.getH), (.mcryUfg f, .b32, .getU)] → Clear i s → affine → live →
    enters i (what s.nextId) false 15 ∧ ∃ u p, Does i s u ∧ u.g.pend = g.pend ++ [p] ∧ p.id = s.nextId ∧
      p.marks = destRegs false f.idx.toNat w.regs ∧ p.units.map (·.lane) = lanes (g.exec f.h)) ∧
  (∀ i, i ∈ [Instr.mcryGet f, .mcryPut f, .mcryUfg f, .mcryUfc f] → Clear i s → affine → ¬ live → Does i s s) ∧
  (∀ i, i ∈ [Instr.mgain f, .mscan f, .mcryGet f, .mcryPut f, .mcryUfg f, .mcryUfc f] ∨ i = .mset f ∧ f.opx.getLsbD 0 = true → Clear i s → ¬ affine →
    exec i s = .next (s.raise 0x23 g.flow.pc (BitVec.ofNat 64 f.tile.toNat)))

/-- R258 to R261, R273, R280, R281, R381: MACQ and MREL change how many tiles the team holds, or wait; MTAB loads a table; MCLS and MCHK; the oldest
waiter is granted when enough tiles are free; MACQ.TRY succeeds only while no MACQ waits on the core; a blocked core is reported as it arises, and again every 1,250,000 ticks while it lasts.
(When a team counts as blocked is DEDUCED: log 40.) -/
def Obligations.TilesAndTables : Prop := ∀ (f : FX) (s : State) (tm : Team),
  let g := s.g
  let held := tm.tiles.length
  let t := f.opx.toNat
  let tt := t % 64
  let free := fun t => s.waiters g.ids.core 1 = [] ∧ t - held ≤ s.freeTiles g.ids.core
  let woken := g.wait.kind = 7 ∧ g.wait.sat = true
  let has := fun (u : State) (ts : List Tile) => (u.team? u.g).map (·.tiles) = some ts
  let rises := fun (t : Nat) => tm.tiles ++ List.replicate (t - held) ({} : Tile)
  let x := (g.rdS f.bbase.toNat).toNat
  let l := s.place g .c x
  let h := f.tile.toNat
  let quiet := fun (p : Nat → Bool) => (s.mxq.any fun o => o.grid == g.ids.grid && o.team == g.ids.team && p o.tile) = false
  let hd := s.mem.readN (l + 1024) 16
  let exp := signedOf 32 (hd / 2 ^ 32 % 2 ^ 32)
  let legal := hd / 2 ^ 66 % 4 ≠ 3 ∧ hd / 2 ^ 64 % 4 ≠ 3 ∧ -126 ≤ exp ∧ exp ≤ 126 ∧ (FV.read .f32 (hd % 2 ^ 32)).special = false ∧ hd / 2 ^ 68 % 2 ^ 60 = 0
  let tabOk := Clear (.mtab f) s ∧ x % 16 = 0 ∧ x + 1040 ≤ s.limit g .c ∧ Idle s ∧ s.rangeBad l 1040 = false ∧
    ∀ o ∈ s.mxq, o.grid = g.ids.grid → o.team = g.ids.team → ∀ d, o.what = .drain d → d.tab ≠ some t
  s.team? g = some tm →
  (Clear (.macq f) s → t ≤ held ∨ woken → Does (.macq f) s s) ∧
  (Clear (.macq f) s → held < t → ¬ woken → free t → ∃ u, Does (.macq f) s u ∧ has u (rises t) ∧ u.g = g ∧ u.mem = s.mem) ∧
  (Clear (.macq f) s → held < t → ¬ woken → ¬ free t → g.sched.expiry = false → ∃ u, exec (.macq f) s = .next u ∧
    u.g.wait = { kind := 7, addr := 1, comparand := t * 2 ^ 58 + s.now } ∧ u.g.flow = g.flow ∧ u.g.regs = g.regs ∧ u.teams = s.teams ∧ u.mem = s.mem) ∧
  (Clear (.macqTry f) s → ∃ u, Does (.macqTry f) s u ∧ u.mem = s.mem ∧
    (free tt → u.g = g.wrC (t / 128) true ∧ has u (rises tt)) ∧
    (¬ free tt → u.g = g.wrC (t / 128) false ∧ u.teams = s.teams)) ∧
  (Clear (.mrel f) s → held ≤ t → Does (.mrel f) s s) ∧
  (Clear (.mrel f) s → t < held → quiet (t ≤ ·) → ∃ u, Does (.mrel f) s u ∧ has u (tm.tiles.take t) ∧ u.g = g ∧ u.mem = s.mem) ∧
  (Clear (.mrel f) s → t < held → ¬ quiet (t ≤ ·) → exec (.mrel f) s = .next (s.modG Ctx.holdAtIssue)) ∧
  (tabOk → legal → ∃ u, Does (.mtab f) s u ∧ u.g = g ∧ u.mem = s.mem ∧ ∀ i, ((u.team? u.g).map fun t => t.tabs.get 0 i) =
    some (if 1040 * t ≤ i ∧ i < 1040 * t + 1040 then s.mem.get 0 (l + (i - 1040 * t)) else tm.tabs.get 0 i)) ∧
  (tabOk → ¬ legal → exec (.mtab f) s = .next (s.raise 0x21 g.flow.pc (BitVec.ofNat 64 x))) ∧
  (Clear (.mcls f) s → Does (.mcls f) s (s.modG fun g => { g with mclass := min t g.climit })) ∧
  (let v := (s.tile g.ids.grid g.ids.team h).check h
   (Clear (.mchk f) s → quiet (· == h) → v = none ∨ f.opx.getLsbD 0 = true → ∃ u, Does (.mchk f) s u ∧ u.teams = s.teams ∧ u.mem = s.mem ∧
      u.g = if f.opx.getLsbD 0 then g.wrC (t / 2) v.isNone else g) ∧
   (∀ e, Clear (.mchk f) s → quiet (· == h) → v = some e → f.opx.getLsbD 0 = false → exec (.mchk f) s = .next (s.raise 0x22 g.flow.pc e)) ∧
   (Clear (.mchk f) s → ¬ quiet (· == h) → exec (.mchk f) s = .next (s.modG Ctx.holdAtIssue))) ∧
  (let k := s.arg.id
   oldest s.now (s.waiters k 1) = some g → g.wait.kind = 7 → g.wait.count - held ≤ s.freeTiles k → held ≤ g.wait.count →
    ∃ u, exec .macqGrant s = .next u ∧ u.g.wait.sat = true ∧ has u (rises g.wait.count) ∧ u.mem = s.mem) ∧
  (let k := s.arg.id
   let holders := s.teams.filter fun t => t.core == k && s.teamHolds t
   ∀ w, s.deadlockOf k = some w → holders ≠ [] → (∀ t ∈ holders, s.teamBlocked t = true) → s.starved k = true → s.deadAt.get 0 k ≤ s.clock →
    k / 16 < s.prefs.length → (s.pref (k / 16)).trapq.length < 64 → (s.pref (k / 16)).posted = [] →
    ∃ u r, exec .deadlockReport s = .next u ∧ (u.pref (k / 16)).trapq = (s.pref (k / 16)).trapq ++ [r] ∧ r.typ = 7 ∧ r.handle = w.handle ∧
      u.deadAt = SMap.set 0 s.deadAt k (s.clock + 1250000) ∧ u.g = g ∧ u.mem = s.mem) ∧
  (let k := s.arg.id
   s.deadlocked k = false → s.deadAt.get 0 k ≠ 0 → exec .deadlockReport s = .next { s with deadAt := SMap.set 0 s.deadAt k 0 })

/-- R92, R94: the dot group of two runs of small integers is their exact inner product, rounded once. R268, R278, R428: one K-step of an MMA adds a dot group to each element of its rows, once each, starting from zero at step 0 of a .Z form; poison of a
row or of a column reaches the elements it meets; no other row, no gain and no mode changes; EXACT stays only for integer formats. -/
def Obligations.MatrixSums : Prop :=
  (∀ (xs ys : List Int), xs.length = ys.length → xs.length ≤ 64 → (∀ x ∈ xs, x.natAbs ≤ 128) → (∀ y ∈ ys, y.natAbs ≤ 128) →
  let one := fun (x : Int) => [FV.fin (x < 0) x.natAbs 0]
  let z : Int := ((xs.zip ys).map fun (x, y) => x * y).sum
  dotGroup (xs.map one) (ys.map one) = rn64 (if z = 0 then .fin false 0 0 else .fin (z < 0) z.natAbs 0)) ∧
  (∀ (t : Tile) (id : Nat) (m : Mma) (step : Nat) (rows : List (Nat × Nat × Bool)) (cols : List (Nat × Bool)),
  let u := (t.mmaStep id m step rows cols).1
  let elems := fun (f : MFmt) (run sc : Nat) => (List.range m.k).map (elemXF f run sc)
  let scaleA := fun r => ((m.rows.find? (·.row == r)).map (·.scale)).getD 0
  let fresh := step = 0 ∧ m.z = true
  cols.length = 32 → (rows.map (·.1)).Nodup → (∀ r ∈ rows, r.1 < 64) →
  (∀ r run bad c col cbad, (r, run, bad) ∈ rows → cols[c]? = some (col, cbad) →
    u.cAt r c = add64 (if fresh then 0 else t.cAt r c) (dotGroup (elems m.fa run (scaleA r)) (elems m.fb col (m.colScale c))) % 2 ^ 64 ∧
    u.bad r c = (bad || cbad || (!(decide fresh && !t.aff) && t.bad r c))) ∧
  (∀ r c, r ∉ rows.map (·.1) → c < 32 → u.cAt r c = t.cAt r c ∧ u.bad r c = t.bad r c) ∧
  u.g = t.g ∧ u.aff = t.aff ∧ u.rev = t.rev ∧ u.h = t.h ∧ u.hp = t.hp ∧ u.uf = t.uf ∧
  u.exact = (t.exact && (m.fa == .i8 || m.fa == .i4) && (m.fb == .i8 || m.fb == .i4)))

/-- R255, R256, R268, R269, R278: a candidate closes when its bands are taken or its fourth clock has passed; a core without a pass starts the one that is next, with the rows of
all its members; a pass that retires changes the tiles of its members by one K-step each, in engine order, and after the last step the members leave the engine, MX falls, and what each owes the column
checksums of its tile is settled. -/
def Obligations.Passes : Prop := ∀ (s : State) (c : Cand) (p : Pass),
  let k := s.arg.id
  let ms := s.members c
  let cols := fun (o : MxOp) (m : Mma) => (List.range 32).map fun i =>
    let l := s.padAt o.grid o.team (m.b0 + c.step * 32 * m.stepB + i * m.stepB)
    (s.mem.readN l m.stepB, s.rangeBad l m.stepB)
  let rows := fun (o : MxOp) (m : Mma) => m.rows.map fun r =>
    let l := s.padAt o.grid o.team (m.a0 + r.idx * m.stride + c.step * m.stepA)
    (o.id, r.row, if c.step = 0 then r.first else s.mem.readN l m.stepA, if c.step = 0 then r.bad else s.rangeBad l m.stepA)
  let stepped := fun (x : Tile) (o : MxOp) (m : Mma) =>
    x.mmaStep o.id m c.step ((p.rows.filter (·.1 == o.id)).map fun (_, r, x, bad) => (r, x, bad)) (cols o m)
  let more := c.step + 1 < (ms.head?.map (·.2.steps)).getD 1
  let held := ∀ e ∈ ms, ∃ tm, s.teams.find? (fun t => t.grid == e.1.grid && t.team == e.1.team) = some tm ∧ e.1.tile < tm.tiles.length
  (∀ c ∈ s.cands, c.id = k → c.closed = false → c.bands.length = 4 ∨ c.opened + 4 ≤ s.clock → exec .candidatePassClose s =
    .next { s with cands := s.cands.map fun c => if c.id = k then { c with closed := true } else c }) ∧
  (s.accs = [] → s.tiles = [] → (∀ q ∈ s.passes, q.core ≠ k) → s.nextPass k = some c → exec .passStart s =
    .next { s with passes := s.passes ++ [{ core := k, cand := c.id, rows := (ms.map fun e => rows e.1 e.2).flatten }] }) ∧
  (s.accs = [] → s.tiles = [] → s.passes.find? (·.core == k) = some p → s.cands.find? (·.id == p.cand) = some c → held →
    ∃ t, exec .passRetire s = .next t ∧ t.passes = s.passes.filter (fun q => q.core != p.core) ∧ t.mem = s.mem ∧
      (more → t.mxq = s.mxq ∧ (t.cands.map fun x => { x with owed := [] }) = (s.cands.map fun x => { x with step := if x.id = c.id then c.step + 1 else x.step, owed := [] }) ∧
        ∀ grid team h, t.tile grid team h = (ms.filter fun e => e.1.on grid team h).foldl (fun x e => (stepped x e.1 e.2).1) (s.tile grid team h)) ∧
      (¬ more → t.mxq = s.mxq.filter (fun x => ms.all fun e => e.1.id != x.id) ∧ t.cands = s.cands.filter (fun x => x.id != c.id) ∧
        ∀ o m, ms = [(o, m)] → let new := stepped (s.tile o.grid o.team o.tile) o m
          t.tile o.grid o.team o.tile = ((c.owed ++ new.2).filter (·.id == o.id)).foldl Tile.settleCols new.1 ∧
          ∀ h, h ≠ o.tile → t.tile o.grid o.team h = s.tile o.grid o.team h))

/-- R256, R262, R272, R276, R290 to R297: the operations of the tile port act in their turn: MZERO clears, MLDA loads an image, MSTA's writes begin and its witness is
formed after the last of them has performed (R214), MGAIN, MSET, MSCAN, MAFM and MCRY change or read the tile as they say; each then leaves the engine. A drain's reply, too, is formed after its last write.
R274 to R277, R279: a drain in its turn tests the checksums, then begins the writes of its rows, in G through its pages' translations, one access for each aligned unit, and waits for them; a failed test ends it with an engine
fault, which is delivered with the null witness once no earlier drain of the group may still fault. -/
def Obligations.TilePortTurns : Prop :=
  (∀ (s : State) (o : MxOp) (tm : Team),
  let t := s.tile o.grid o.team o.tile
  let l := fun x => s.padAt o.grid o.team x
  let becomes := fun (ok : Tile → Prop) => ∃ u, exec .tilePortOpComplete s = .next u ∧ ok (u.tile o.grid o.team o.tile) ∧
    (∀ h, h ≠ o.tile → u.tile o.grid o.team h = s.tile o.grid o.team h) ∧ u.mxq = s.mxq.filter (fun x => x.id != o.id) ∧ u.mem = s.mem
  let drops := fun (g : Ctx) => if o.counted then g.cmds.mx - 1 else g.cmds.mx
  s.mxq.find? (·.id == s.arg.id) = some o → s.teams.find? (fun t => t.grid == o.grid && t.team == o.team) = some tm → o.tile < tm.tiles.length →
  (s.turn o = true → s.accs = [] → s.tiles = [] → o.c = s.g.ids.ref →
    (o.what = .zero → becomes fun u => (∀ r c, r < 64 → c < 32 → u.cAt r c = 0 ∧ u.g.get 0 (32 * r + c) = 0x3FF0000000000000 ∧ u.bad r c = false) ∧
      u.pr = [] ∧ u.mr = [] ∧ u.pc = [] ∧ u.mc = [] ∧ u.exact = true ∧ u.aff = t.aff ∧ u.h = t.h) ∧
    (∀ x ck, o.what = .load x ck → becomes fun u => (∀ i, i < 2048 → u.c.get 0 i = BitVec.ofNat 64 (s.mem.readN (l x + 16 * i) 8) ∧
        u.g.get 0 i = BitVec.ofNat 64 (s.mem.readN (l x + 16 * i + 8) 8) ∧
        u.pois.get false i = (s.poisoned (l x + 16 * i) || s.poisoned (l x + 16 * i + 8))) ∧
      (ck = true → (∀ r, r < 64 → u.pr.get 0 r = BitVec.ofNat 64 (s.mem.readN (l x + 32768 + 16 * r) 8)) ∧
        u.exact = (s.mem.readN (l x + 34304) 8 % 2 == 1)) ∧ u.aff = t.aff ∧ u.h = t.h) ∧
    (∀ x ck, o.what = .store x ck → o.phase = 0 → ∃ u new, exec .tilePortOpComplete s = .next u ∧ u.accs = new ∧ u.mem = s.mem ∧
      new.map (fun a => (a.loc, a.op, a.job)) = (t.image ck).map (fun (off, v, bad) => (l x + off, AccOp.store (toBytes 8 v) bad, some o.id)) ∧
      u.g.regs = s.g.regs ∧ u.mxq = s.mxq.map fun y => if y.id = o.id then { y with phase := 3, wit := mkWit { scope := 1, id := o.core } s.now } else y) ∧
    (∀ x ck, o.what = .store x ck → o.phase = 3 → ∃ u, exec .tilePortOpComplete s = .next u ∧ u.g.rdW o.wreg = (if o.wreg = 15 then 0 else o.wit) ∧
      u.g.cmds.mx = drops s.g ∧ u.mxq = s.mxq.filter (fun x => x.id != o.id) ∧ u.mem = s.mem) ∧
    (∀ x bc bf, o.what = .gain x bc bf → becomes fun u => u.c = t.c ∧ ∀ i, i < 2048 →
      let at_ := l x + (if bf then 2 else 4) * (if bc then i % 32 else i)
      u.g.get 0 i = BitVec.ofNat 64 (rn64 (FV.read (if bf then .bf16 else .f32) (s.mem.readN at_ (if bf then 2 else 4)))) ∧
      u.pois.get false i = (t.pois.get false i || s.poisoned at_)) ∧
    (∀ g c a b, o.what = .set g c a b → becomes fun u => ∀ i, i < 2048 →
      let inside := a ≤ i / 32 ∧ i / 32 ≤ b
      u.g.get 0 i = (if inside then g.getD (t.g.get 0 i) else t.g.get 0 i) ∧ u.c.get 0 i = (if inside then c.getD (t.c.get 0 i) else t.c.get 0 i) ∧
      u.pois.get false i = (!decide inside && t.pois.get false i)) ∧
    (∀ r a k, o.what = .scan r a k → becomes fun u => u.rev = r ∧ u.aff = t.aff ∧ ∀ c, c < 32 →
      let out := t.scanColumn r a k c
      (∀ i e, out.1[i]? = some e → (u.g.get 0 (32 * i + c)).toNat = e.g % 2 ^ 64 ∧ u.cAt i c = e.c % 2 ^ 64 ∧ u.bad i c = e.bad) ∧
      u.hAt c = out.2.1 % 2 ^ 64 ∧ u.hBad c = out.2.2.1 ∧ u.uf.getLsbD c = (t.uf.getLsbD c || out.2.2.2)) ∧
    (∀ b, o.what = .mode b → becomes fun u => u.aff = b ∧ (∀ i, i < 2048 → u.g.get 0 i = 0x3FF0000000000000) ∧ u.c = t.c ∧ u.h = t.h) ∧
    (∀ vs, o.what = .putH vs → (vs.map (·.1)).Nodup → becomes fun u => (∀ l x, (l, x) ∈ vs → l < 32 → u.h.get 0 l = x ∧ u.hBad l = false) ∧
      (∀ l, l < 32 → l ∉ vs.map (·.1) → u.h.get 0 l = t.h.get 0 l ∧ u.hBad l = t.hBad l) ∧ u.c = t.c ∧ u.g = t.g) ∧
    (∀ w, o.what = .clearU w → becomes fun u => u = { t with uf := t.uf &&& ~~~w }) ∧
    (∀ id p val n, o.what = .getH id ∧ val = (fun l => t.hAt l) ∧ n = Width.b64 ∨ o.what = .getU id ∧ val = (fun l => (t.uf.getLsbD l).toNat) ∧ n = .b32 →
      s.g.pend.find? (·.id == id) = some p → p.uni = false → p.store = false → p.status = [] → t.hp = 0 → s.g.flow.dead = 0 →
      (∃ r, ∀ e ∈ p.units, e.lane < 32 ∧ e.reg = r ∧ e.width = n) → (p.units.map (·.lane)).Nodup →
      ∃ u, exec .tilePortOpComplete s = .next u ∧ (∀ e ∈ p.units, Holds u.g false e.reg e.lane n.regs (val e.lane)) ∧
        (∀ r l, l ∉ p.units.map (·.lane) → l < 32 → u.g.rdV r l = s.g.rdV r l) ∧ u.teams = s.teams ∧ u.mem = s.mem)) ∧
  (∀ d, o.what = .drain d → o.c = s.g.ids.ref →
    (o.phase = 3 → (∀ a ∈ s.accs, a.job ≠ some o.id) → ∃ u, exec .drainComplete s = .next u ∧
      u.g.rdW o.wreg = (if o.wreg = 15 then 0 else o.wit) ∧ u.mxq = s.mxq.filter (fun x => x.id != o.id) ∧ u.g.cmds.mx = drops s.g ∧ u.mem = s.mem) ∧
    (o.phase = 3 → (∃ a ∈ s.accs, a.job = some o.id) → exec .drainComplete s = .next s) ∧
    (o.phase = 4 → s.faultNext o = true → s.g.sched.killed = false → s.g.sched.finalWait = false → ∃ u, exec .drainComplete s = .next u ∧
      u.g.traps.delivered = s.g.traps.delivered ++ [{ cause := o.cause, value := o.va, level := o.level }] ∧ u.g.rdW o.wreg = 0 ∧
      u.mxq = s.mxq.filter (fun x => x.id != o.id) ∧ u.g.cmds.mx = drops s.g ∧ u.mem = s.mem))) ∧
  (∀ (s r : State) (o : MxOp) (d : Drain) (tm : Team) (v : DWord),
  let t := s.tile o.grid o.team o.tile
  let out := drainOut d t (d.tab.map (actTable tm)) (fun c => FV.read .f32 (s.mem.readN (s.padAt o.grid o.team (d.bias.getD 0) + 4 * c) 4))
    (fun c => (d.bias.isSome && s.poisoned (s.padAt o.grid o.team (d.bias.getD 0) + 4 * c)) || d.tab.any fun n => tm.tabBad.raised.any fun k => k / 130 == n)
  let us := unitsOut d.dest out
  let pages := pagesOf ((if d.aon then [(d.dest - 8, 8)] else []) ++ d.regions.map fun (r, n) => (d.dest + r, n))
  let lands := d.space ≠ .g ∧ r = s ∨ d.space = .g ∧ s.engPages s.g.cluster s.g.ids.asn s.g.ids.world .store pages = .ok r
  let loc := fun (a : Nat) => if d.space = .g then
      (match r.engTranslate s.g.cluster s.g.ids.asn s.g.ids.world a .store with | .ok (_, tr) => tr.loc a | .error _ => 0)
    else s.place s.g d.space a
  s.mxq.find? (·.id == s.arg.id) = some o → s.teams.find? (fun t => t.grid == o.grid && t.team == o.team) = some tm → s.turn o = true →
  o.what = .drain d → o.phase = 0 → o.c = s.g.ids.ref → s.accs = [] → s.tiles = [] → s.g.log = [] →
  (d.nck = false → t.check o.tile = some v → exec .tilePortOpComplete s = .next
    { s with mxq := s.mxq.map fun x => if x.id = o.id then { x with phase := 4, cause := 0x22, va := v.toNat } else x }) ∧
  (d.nck = true ∨ t.check o.tile = none → lands → ∃ u, exec .tilePortOpComplete s = .next u ∧
    u.accs.map (fun a => (a.loc, a.op, a.job)) = us.map (fun (a, bs, bad) => (loc a, AccOp.store bs bad, some o.id)) ∧
    (d.aon = false → u.tiles = [] ∧ u.mxq.find? (·.id == o.id) = some { o with phase := 3, wit := (u.mxq.find? (·.id == o.id)).elim 0 (·.wit) }) ∧
    (d.aon = true → u.tiles.map (fun w => (w.ver, w.phase, w.job)) = [(loc (d.dest - 8), 0, some o.id)]) ∧ u.mem = s.mem ∧ u.g.regs = s.g.regs))

/-! ### Copy and scan engines -/

/-- R299 to R303, R309, R311, R313: a CPY or SCN whose parameters pass the checks becomes a queued command: its number, its counter, the reply it owes; a copy of
nothing replies at once; .YC parks at the continuation, with the reply in hand where there was nothing to copy; a full counter waits at issue; a failed check raises
its fault; CPQ asks about and cancels the group's live commands, and one of which only the reply is due is live no more (R307, R313). (A queued scan that is
cancelled writes nothing: DESIGN CHOICE, log 104.) -/
def Obligations.CommandsIssue : Prop := ∀ (f : FC) (s : State),
  let g := s.g
  let copies := [Instr.cpyMove f, .cpyGath f, .cpyScat f, .cpyFill f]
  let c := cpyCmd f s
  let k := scnCmd f s
  let made := fun (u : State) (c : EngCmd) => u.cmds = s.cmds ++ [c] ∧ u.g.cmds.seq = (g.cmds.seq + 1) % 0x7FFFFFFF ∧ u.g.cmds.last = c.cid ∧
    u.g.cmds.cp = g.cmds.cp + (if c.scn then 0 else 1) ∧ u.g.cmds.sc = g.cmds.sc + (if c.scn then 1 else 0) ∧ u.g.regs = g.regs ∧
    (c.wreg ≠ 15 → ∃ p ∈ u.g.pend, p.id = c.id ∧ p.marks = [.w c.wreg] ∧ p.ready = false) ∧ u.mem = s.mem
  let cid := (g.rdS f.sa.toNat).toNat
  let answers := fun (i : Instr) (u : State) (x : Nat) => Does i s (if f.re then u.modG fun g => g.wrS f.reply.toNat (BitVec.ofNat 32 x) else u)
  let code := fun (c : EngCmd) => if c.phase = 0 then 1 else if c.phase = 2 then 3 else 2
  (∀ i ∈ copies, Clear i s → f.yc = false → cpyFault f s c = none → g.cmds.cp < 31 → c.empty = false → ∃ u, Does i s u ∧ made u c) ∧
  (∀ i ∈ copies, Clear i s → f.yc = false → cpyFault f s c = none → g.cmds.cp < 31 → c.empty = true → ∃ u, Does i s u ∧ u.cmds = s.cmds.filter (fun x => x.id != c.id) ∧
    u.g.rdW c.wreg = (if c.wreg = 15 then 0 else mkWit g.dom s.now) ∧ u.g.cmds.cp = g.cmds.cp ∧ u.mem = s.mem) ∧
  (∀ i ∈ copies, Clear i s → Reaches i s → f.yc = true → cpyFault f s c = none → g.cmds.cp < 31 → c.empty = false → g.sched.expiry = false →
    ∃ u, exec i s = .next u ∧ u.cmds = s.cmds ++ [c] ∧ u.g.wait.kind = 8 ∧ u.g.wait.addr = contTarget g.flow.pc f ∧ u.g.wait.comparand = c.cid ∧
      u.g.flow.pc = nextPc g.flow.pc ∧ u.g.regs = g.regs ∧ u.mem = s.mem) ∧
  (∀ i ∈ copies, Clear i s → Reaches i s → f.yc = true → cpyFault f s c = none → g.cmds.cp < 31 → c.empty = true → g.sched.expiry = false →
    ∃ u, exec i s = .next u ∧ u.cmds = s.cmds.filter (fun x => x.id != c.id) ∧ u.g.wait.kind = 8 ∧ u.g.wait.addr = contTarget g.flow.pc f ∧
      u.g.wait.witness = mkWit g.dom s.now ∧ u.g.rdW c.wreg = (if c.wreg = 15 then 0 else mkWit g.dom s.now) ∧ u.g.flow.pc = nextPc g.flow.pc ∧ u.mem = s.mem) ∧
  (∀ i ∈ copies, ∀ t x v, Clear i s → targetsCheck s (targetsOf i g) = .ok t → cpyFault f t (cpyCmd f t) = some (x, v) → exec i s = .next (t.raise x g.flow.pc v)) ∧
  (∀ i ∈ copies, ∀ t, Clear i s → targetsCheck s (targetsOf i g) = .ok t → cpyFault f t (cpyCmd f t) = none → 31 ≤ g.cmds.cp →
    exec i s = .next (t.modG Ctx.holdAtIssue)) ∧
  (Clear (.scn f) s → f.yc = false → scnFault f s k = none → g.cmds.sc < 15 → ∃ u, Does (.scn f) s u ∧ made u k) ∧
  (∀ x v, Clear (.scn f) s → f.yc = false → scnFault f s k = some (x, v) → exec (.scn f) s = .next (s.raise x g.flow.pc v)) ∧
  (Clear (.scn f) s → f.yc = false → scnFault f s k = none → 15 ≤ g.cmds.sc → exec (.scn f) s = .next (s.modG Ctx.holdAtIssue)) ∧
  (∀ c, c ∈ s.myCmds ↔ c ∈ s.cmds ∧ c.c = g.ids.ref ∧ ¬ (c.phase = 4 ∨ c.phase = 3 ∧ c.scn = false ∧ (c.aon = false ∨ c.done = true ∨ c.lost = true))) ∧
  (∀ c, s.myCmd cid = some c → c ∈ s.myCmds ∧ c.cid = cid) ∧ (s.myCmd cid = none → ∀ c ∈ s.myCmds, c.cid ≠ cid) ∧
  (f.yc = false →
    (Clear (.cpqLast f) s → answers (.cpqLast f) s g.cmds.last) ∧
    (Clear (.cpqQry f) s → s.myCmd cid = none → answers (.cpqQry f) s 0) ∧
    (∀ c, Clear (.cpqQry f) s → s.myCmd cid = some c → answers (.cpqQry f) s (code c)) ∧
    (Clear (.cpqCan f) s → s.myCmd cid = none → answers (.cpqCan f) s 0) ∧
    (∀ c, Clear (.cpqCan f) s → s.myCmd cid = some c → c.phase = 0 → ∃ u, answers (.cpqCan f) u 1 ∧ u.cmds = s.cmds.filter (fun x => x.id != c.id) ∧
      u.g.rdW c.wreg = 0 ∧ u.mem = s.mem) ∧
    (∀ c, Clear (.cpqCan f) s → s.myCmd cid = some c → c.phase ≠ 0 → answers (.cpqCan f) { s with cmds := s.cmds.map fun x =>
      if x.id = c.id then { x with cancelled := true, phase := if x.phase = 2 ∧ !x.aon then 1 else x.phase } else x } (code c)) ∧
    (Clear (.cpqCanall f) s → answers (.cpqCanall f) (s.myCmds.foldl State.cancel s) s.myCmds.length))

/-- R299, R304 to R309, R311 to R313: an engine starts its earliest queued command while fewer than eight run: it reads the index list, checks the indexed rows, and
translates every page of a G side before any byte moves; an absent or denied page goes to the Prefect and the command waits, a failed row, a world or a roster
ends it with an engine fault and the null witness. A copy's row, of any spaces, contiguous, strided or indexed, writes the bytes of its source row or its
pattern; an all-at-once destination is taken by its version word first; after the last row, once every write has performed, the reply is formed; a peer that goes
down ends the command, and the fault is delivered after what was written has performed. A scan writes its pairs, then its header, and replies when that has
performed; a cancelled copy stops at the row boundary and a cancelled scan writes its header alone; a group parked on .YC goes on. (Commands that wait count
among the eight, translation is made at the start, and one row is one step: DEDUCED, log 36; the cancelled scan's header and what its reply covers: DEDUCED,
log 38; which fault of several indexed rows is reported: DEDUCED, log 35.) -/
def Obligations.CommandsRun : Prop := ∀ (s : State) (c : EngCmd) (g : Ctx),
  let mine := s.cmds.filter fun x => x.core == s.arg.id
  let sets := fun (t : State) (k : EngCmd → EngCmd) => { t with cmds := t.cmds.map fun x => if x.id = c.id then k x else x }
  let alive := ∀ x ∈ s.grids, x.gid = c.grid → x.killed = false
  let still := s.accs = [] ∧ (∀ w ∈ s.tiles, w.owner ≠ some c.c) ∧ s.poison = [] ∧ s.g.log = [] ∧ c.c = s.g.ids.ref
  let at_ := fun (sp : Space) (base a : Nat) => if sp = .g then ((c.trs.find? (·.1 == a / 2 ^ 16)).map (·.2.loc a)).getD 0 else base + a
  let held := fun (sp : Space) (a n : Nat) => sp = .g → ∀ x, a ≤ x → x < a + n → ∃ e, c.trs.find? (·.1 == x / 2 ^ 16) = some e ∧ e.2.crypt.enc = false ∧
    leafTgt e.2.entry.toNat ≠ 2
  let reads := c.src + (if c.fn = 1 then c.idx.getD c.row 0 else c.row) * c.sstride
  let goes := c.dst + (if c.fn = 2 then c.idx.getD c.row 0 else c.row) * c.dstride
  let byte := fun i => if c.fn = 3 then BitVec.ofNat 8 (c.pattern / 2 ^ (8 * (i % (if c.wide then 8 else 4)))) else s.mem.get 0 (at_ c.ssp c.sloc (reads + i))
  let writes := fun (u : State) (a n : Nat) (b : Nat → Byte) => u.accs.map (fun x => (x.loc, x.op, x.job, x.tile)) =
    (pieces a n).map fun (p, k) => (at_ c.dsp c.dloc p, AccOp.store ((List.range k).map fun i => b (p - a + i)) false, some c.id, if c.aon then some c.id else none)
  let running := s.cmds.find? (fun x => x.id == s.arg.id && !x.scn) = some c ∧ c.scn = false ∧ c.phase = 1 ∧ (c.cancelled = false ∨ c.aon = true) ∧ alive ∧ still
  let row := running ∧ 0 < c.n ∧ (c.fn ≠ 3 → held c.ssp reads c.n) ∧ held c.dsp goes c.n ∧ (c.aon = true → c.row = 0 → held c.dsp (c.dst - 8) 8)
  let takes := fun (u : State) => if c.aon = true ∧ c.row = 0 then
      ∃ w, u.tiles = s.tiles ++ [w] ∧ w.id = c.id ∧ w.ver = at_ c.dsp c.dloc (c.dst - 8) ∧ w.phase = 0 ∧ w.owner = none ∧ w.job = some c.id
    else u.tiles = s.tiles
  let copy := s.cmds.find? (fun x => x.id == s.arg.id && !x.scn) = some c ∧ c.scn = false ∧ alive ∧ c.c = s.g.ids.ref
  let unwritten := ∀ a ∈ s.accs, a.job ≠ some c.id
  let falls := fun (u : State) => u.cmds = s.cmds.filter (fun x => x.id != c.id) ∧ u.g.pend = s.g.pend.filter (fun p => p.id != c.id) ∧
    u.g.cmds.cp = s.g.cmds.cp - (if c.scn then 0 else 1) ∧ u.g.cmds.sc = s.g.cmds.sc - (if c.scn then 1 else 0) ∧ u.mem = s.mem
  let replied := fun (u : State) => falls u ∧ u.g.rdW c.wreg = (if c.wreg = 15 then 0 else c.wit)
  let faults := fun (u : State) (w : DWord) (cause va : Nat) => falls u ∧ u.g.rdW c.wreg = (if c.wreg = 15 then 0 else w) ∧
    u.g.traps.delivered = s.g.traps.delivered ++ [{ cause, value := va, level := c.level }]
  let hears := s.g.sched.killed = false ∧ s.g.sched.finalWait = false
  let header := fun (m pairs status i : Nat) => (toBytes 8 m ++ toBytes 4 pairs ++ toBytes 4 status).getD i 0
  let scan := s.cmds.find? (fun x => x.id == s.arg.id && x.scn) = some c ∧ c.scn = true ∧ c.dsp ≠ .g ∧ c.c = s.g.ids.ref ∧ c.aon = false ∧ alive
  let indexed := c.fn = 1 ∨ c.fn = 2
  let l := s.padAt c.grid c.team 0 + c.list
  let c' := { c with idx := if indexed then (List.range c.rows).map fun r => s.mem.readN (l + r * c.iw) c.iw else [] }
  let srcs := if c.ssp = .g then c'.reads else []
  let dsts := if c.dsp = .g then c'.writes.map fun (a, n) => (a.toNat, n) else []
  let starts := mine.find? (·.phase == 0) = some c ∧ c.scn = false ∧ (mine.filter (·.phase != 0)).length < 8 ∧ still ∧ s.tiles = [] ∧ s.g.isSys = false
  let asks := fun (u : State) (e va : Nat) => u.cmds = (sets s fun x => { x with phase := 2, cause := e, va }).cmds ∧ u.mem = s.mem ∧ u.g.regs = s.g.regs
  (starts → indexFault s c' = none → ∀ t u ts us, cmdPages s c' .load srcs (pagesOf srcs) = .ok (t, ts) → cmdPages t c' .store dsts (pagesOf dsts) = .ok (u, us) →
    exec .copyCommandStart s = .next (sets u fun _ => { c' with trs := ts ++ us, phase := 1 }) ∧ u.mem = s.mem ∧
    (∀ p ∈ pagesOf srcs, ∃ e ∈ ts, e.1 = p ∧ e.2.covers c.asn (p * 2 ^ 16) = true ∧ ∃ va, va / 2 ^ 16 = p ∧ s.grants c.world e.2 va .load = none) ∧
    ∀ p ∈ pagesOf dsts, ∃ e ∈ us, e.1 = p ∧ e.2.covers c.asn (p * 2 ^ 16) = true ∧ ∃ va, va / 2 ^ 16 = p ∧ s.grants c.world e.2 va .store = none) ∧
  (∀ e va, starts → indexFault s c' = none → cmdPages s c' .load srcs (pagesOf srcs) = .error (e, va) ∨
      (∃ t ts, cmdPages s c' .load srcs (pagesOf srcs) = .ok (t, ts) ∧ cmdPages t c' .store dsts (pagesOf dsts) = .error (e, va)) →
    (e = 0x10 ∨ e = 0x11 → ∃ u, exec .copyCommandStart s = .next u ∧ asks u e va) ∧
    (e = 0x14 ∨ e = 0x15 → hears → ∃ u, exec .copyCommandStart s = .next u ∧ faults u 0 e va)) ∧
  (∀ e va, starts → indexFault s c' = some (e, va) → hears → ∃ u, exec .copyCommandStart s = .next u ∧ faults u 0 e va) ∧
  (starts → indexed → c.aon = false → (∃ r, r < c.rows ∧ 0 < c.n ∧ (c.fn = 1 ∧ c.ssp = .c ∧ s.limit s.g .c < c.src + c'.idx.getD r 0 * c.sstride + c.n ∨
    c.fn = 2 ∧ c.dsp = .c ∧ s.limit s.g .c < c.dst + c'.idx.getD r 0 * c.dstride + c.n)) → ∃ va, indexFault s c' = some (0x12, va)) ∧
  (row → c.row + 1 < c.rows → ∃ u, exec .copyCommandComplete s = .next u ∧ writes u goes c.n byte ∧ takes u ∧
    (∃ x ∈ u.cmds, x.id = c.id ∧ x.row = c.row + 1 ∧ x.phase = 1) ∧ u.mem = s.mem ∧ u.g = s.g) ∧
  (row → c.row + 1 = c.rows → ∃ u, exec .copyCommandComplete s = .next u ∧ writes u goes c.n byte ∧ takes u ∧
    (∃ x ∈ u.cmds, x.id = c.id ∧ x.row = c.rows ∧ x.phase = 3 ∧ wTick x.wit = s.now) ∧ u.mem = s.mem ∧ u.g = s.g) ∧
  (running → c.fn ≠ 3 → c.ssp = .g → 0 < c.n → (∃ e, c.trs.find? (·.1 == reads / 2 ^ 16) = some e ∧ leafTgt e.2.entry.toNat = 2 ∧
      s.peerUp (bitsAt e.2.entry.toNat 24 8) = false) →
    ∃ u, exec .copyCommandComplete s = .next u ∧ (∃ x ∈ u.cmds, x.id = c.id ∧ x.phase = 3 ∧ x.lost = true ∧ x.va = reads) ∧ u.accs = [] ∧ u.mem = s.mem ∧ u.g = s.g) ∧
  (copy → c.phase = 3 → c.lost = false → (if c.aon then c.done = true else unwritten) → ∃ u, exec .copyCommandComplete s = .next u ∧ replied u ∧ u.g.traps = s.g.traps) ∧
  (copy → c.phase = 3 → c.lost = true → unwritten → hears → ∃ u, exec .copyCommandComplete s = .next u ∧ faults u c.wit 0x10 c.va) ∧
  (copy → c.phase = 3 → (if c.aon ∧ c.lost = false then c.done = false else ¬ unwritten) → exec .copyCommandComplete s = .next s) ∧
  (copy → c.phase = 1 → c.cancelled = true → c.aon = false → exec .copyCommandComplete s = .next (sets s fun x => { x with phase := 3, wit := mkWit x.dom s.now })) ∧
  (scan → c.phase = 3 → s.accs = [] → c.cancelled = false → ∃ u, exec .scnComplete s = .next u ∧
    writes u c.dst 16 (header c.row (min c.row c.dstride) (if c.dstride < c.row then 1 else 0)) ∧
    (∃ x ∈ u.cmds, x.id = c.id ∧ x.phase = 4 ∧ wTick x.wit = s.now) ∧ u.mem = s.mem) ∧
  (scan → c.phase = 4 → unwritten → c.lost = false → ∃ u, exec .scnComplete s = .next u ∧ replied u) ∧
  (scan → c.phase = 1 ∨ c.phase = 3 → c.cancelled = true → s.accs = [] → ∃ u, exec .scnComplete s = .next u ∧ writes u c.dst 16 (header 0 0 2) ∧
    ∃ x ∈ u.cmds, x.id = c.id ∧ x.phase = 4) ∧
  (∀ t ms, scan → c.dst % 16 = 0 → c.phase = 1 → c.cancelled = false → scanRows s c = some (t, ms) → t.accs = [] → t.cmds = s.cmds → t.grids = s.grids →
    ∃ u, exec .scnComplete s = .next u ∧
    writes u (c.dst + 16) (16 * min ms.length c.dstride) (fun i => (((ms.take c.dstride).map fun (r, v) => toBytes 8 r ++ toBytes 8 v).flatten).getD i 0) ∧
    ∃ x ∈ u.cmds, x.id = c.id ∧ x.phase = 3 ∧ x.row = ms.length) ∧
  (∀ v, c.ty = .i32 ∨ c.ty = .n32 ∨ c.ty = .i64 ∨ c.ty = .n64 →
    let w := c.ty.bits
    let val := fun x => if c.ty.signed then signedOf w (x % 2 ^ w) else ((x % 2 ^ w : Nat) : Int)
    (scnMatch c v = true ↔ if c.fn = 0 then val c.pattern ≤ val v else val v ≤ val c.pattern)) ∧
  (s.ctx? s.arg.c = some g → g.wait.kind = 8 → g.wait.sat = false → (∀ x ∈ s.cmds, ¬ (x.c = s.arg.c ∧ x.cid = g.wait.comparand)) →
    s.satisfied g.wait.witness g.dom = true → exec .ycContinue s =
      .next (s.modCtx s.arg.c fun g => { g with wait := { g.wait with sat := true }, flow := { g.flow with pc := g.wait.addr, line := none } }))

/-! ### Populations -/

/-- R317 to R319, R324: RSMP arrives and parks, without the lanes that consume poison; it waits at issue until the group is quiet; a stack that is not empty raises RSMP_BAD; outside a
population RSMP, LINRD and POPQ raise POP_NONE. R320, R321, R322: a resample of n makes n lanes in all, from live lanes only; no two copies take one place, and none takes a
dead lane's. R325: saved members are asked for once all have arrived. R318, R319, R323, R324: the root checks a full collective of any number of groups: a failure raises RSMP_BAD in its members; else it is
ready, and its completion gives each member its lanes, the registers of what they are copies of with their poison (R429), their lineage, the record and the merged witness, and lets it go on. -/
def Obligations.Populations : Prop :=
  (∀ (f : F3) (s : State),
  let g := s.g
  let pop := g.isSys = false ∧ s.isPop g.ids.grid = true
  let live := ~~~(g.flow.dead ||| g.flow.exited)
  let dies := maskWhere fun l => bit (g.exec f.h) l && (readsBad (.rsmp f) g || g.vpois f.a.toNat l)
  (Clear (.rsmp f) s → pop → g.flow.stack = [] → g.quiet = true → g.sched.expiry = false → g.sched.killed = false → (∀ p ∈ g.pend, p.id < s.nextId) →
    ∃ t a, exec (.rsmp f) s = .next t ∧
    t.arrivals = s.arrivals.filter (fun x => x.c != g.ids.ref) ++ [a] ∧ a.c = g.ids.ref ∧ a.gid = g.ids.grid ∧ a.n = g.bWord f 0 ∧ a.mark = g.mark ∧
    a.weights = (lanes (g.exec f.h &&& live &&& ~~~dies)).map (fun l => (l, g.rdV f.a.toNat l)) ∧ a.ready = false ∧
    t.g.wait = { kind := 9, addr := g.ids.grid, comparand := g.pop.gen } ∧ t.g.flow = { g.flow with dead := g.flow.dead ||| dies } ∧
    (dies = 0 → t.g.regs = g.regs ∧ t.g.traps = g.traps) ∧ t.g.regs.v = g.regs.v ∧
    (dies ≠ 0 → t.g.traps.delivered = g.traps.delivered ++ [{ cause := 0x40, value := dies.toNat, level := g.traps.level }]) ∧ t.mem = s.mem) ∧
  (Clear (.rsmp f) s → pop → g.flow.stack = [] → g.quiet = false → exec (.rsmp f) s = .next (s.modG Ctx.holdAtIssue)) ∧
  (Clear (.rsmp f) s → pop → g.flow.stack ≠ [] → exec (.rsmp f) s =
    .next (s.raise 0x30 g.flow.pc (BitVec.ofNat 64 (3 * 2 ^ 56 + g.flow.stack.length)))) ∧
  (∀ i, i ∈ [Instr.rsmp f, .linrd f, .popq f] → Clear i s → ¬ pop → exec i s = .next (s.raise 0x31 g.flow.pc 0))) ∧
  (∀ (ps : List Particle) (n off : Nat),
  let cs := copyCounts n off ps
  off < 2 ^ 53 → (∃ p ∈ ps, p.live = true) → (∀ p ∈ ps, 0 < p.w → p.live = true) → (ps.map Particle.ix).Nodup →
  cs.length = ps.length ∧ cs.sum = n ∧ (∀ p c, (p, c) ∈ ps.zip cs → p.live = false → c = 0) ∧
  ((assign (ps.zip cs)).map fun a => a.1.ix).Nodup ∧ (∀ a ∈ assign (ps.zip cs), a.1.dead = false ∧ a.1 ∈ ps ∧ a.2.1 ∈ ps)) ∧
  (∀ (m : Ctx × Arrival) (ms : List (Ctx × Arrival)),
  let capacity := ((m :: ms).map fun x => (lanes (~~~x.1.flow.dead)).length).sum
  (rsmpVerdict (m :: ms) = some 2 ↔ ∃ x ∈ ms, x.2.n ≠ m.2.n) ∧
  (rsmpVerdict (m :: ms) = some 1 ↔ (∀ x ∈ ms, x.2.n = m.2.n) ∧
    (capacity < m.2.n ∨ 0 < m.2.n ∧ ∀ x ∈ m :: ms, lanes (~~~(x.1.flow.dead ||| x.1.flow.exited)) = []))) ∧
  (∀ (s : State) (ms : List (Ctx × Arrival)) (code : Nat),
  let gid := s.arg.id
  let n := (ms.head?.map (·.2.n)).getD 0
  let ps := particles ms
  let pairs := ps.zip (copyCounts n ((gen (s.seedOf gid) (BitVec.ofNat 64 ((ms.head?.map (·.1.pop.gen)).getD 0))).toNat / 2 ^ 11) ps)
  let rest := s.arrivals.filter fun a => a.gid != gid
  let fails := fun (u : State) (g : Ctx) (a : Arrival) => u.raise 0x30 g.flow.pc (BitVec.ofNat 64 (code * 2 ^ 56 + a.n))
  let into := fun (g : Ctx) => ((assign pairs).filter fun (v, _, _) => v.g == g.pop.index).map fun (v, p, k) => (v.l, p, k)
  let keep := fun (g : Ctx) => (pairs.filter fun (p, c) => p.g == g.pop.index && 0 < c).map (·.1.l)
  let lanes' := fun (g : Ctx) => maskOf (keep g ++ (into g).map (·.1))
  let line := fun (g : Ctx) (parent k : Nat) => BitVec.ofNat 64 ((g.pop.gen + 1) % 2 ^ 20 * 2 ^ 44 + parent % 2 ^ 28 * 2 ^ 16 + min k 0xFFFF)
  let after := fun (g : Ctx) (a : Arrival) (h : Ctx) =>
    h.flow.pc = nextPc g.flow.pc ∧ h.wait = {} ∧ h.flow.dead = g.flow.dead ∧ (g.flow.stack = [] → h.flow.stack = []) ∧ h.flow.active = ~~~h.flow.exited ∧
    h.flow.exited = (~~~(lanes' g ||| g.flow.dead) ||| (g.flow.exited &&& g.flow.dead)) ∧ h.pop.size = n ∧ h.pop.gen = (g.pop.gen + 1) % 2 ^ 32 ∧
    h.pop.total = BitVec.ofNat 64 (rn64 (.fin false (round53 ((ps.map (·.w)).sum)) (-149))) ∧
    (a.wx ≠ 15 → h.rdW a.wx = ms.foldl (fun w m => mergeWit s.now w m.2.mark) 0) ∧ (a.pd ≠ 7 → h.rdP a.pd = lanes' g) ∧
    h.regs.s = g.regs.s ∧ h.regs.c = g.regs.c ∧ h.ks = g.ks ∧ h.ns = g.ns ∧ h.traps = g.traps ∧
    (∀ r l, l ∉ (into g).map (·.1) → l < 32 → h.rdV r l = g.rdV r l ∧ h.vpois r l = g.vpois r l)
  let copied := fun (g : Ctx) (a : Arrival) (h : Ctx) => (∀ l ∈ keep g, h.pop.lineage.get 0 l = line g (32 * g.pop.index + l) 0) ∧ ∀ l p k, (l, p, k) ∈ into g → ∀ m ∈ ms, m.1.pop.index = p.g →
    (∀ r, r < 64 → h.rdV r l = m.1.rdV r p.l ∧ h.vpois r l = m.1.vpois r p.l) ∧ (∀ r, 64 ≤ r → r < g.bound → h.rdV r l = 0) ∧
    (∀ i, i < 7 → i ≠ a.pd → bit (h.rdP i) l = bit (m.1.rdP i) p.l ∧ (m.1.upois (.p i) = true → h.upois (.p i) = true)) ∧ h.pop.lineage.get 0 l = line g p.ix k
  (s.collective gid = none → (∀ g ∈ s.membersOf gid ++ s.savedMembers gid, ∃ a ∈ s.arrivals, a.c = g.ids.ref) → exec .rsmpCollectiveReady s =
    .next { s with saved := s.saved.map fun v =>
      if !v.asked && v.ctxs.any (fun e => e.1.member gid) then { v with asked := true } else v }) ∧
  (s.collective gid = some ms → (s.ctxs.map (·.ids.ref)).Nodup → (∃ m ∈ ms, m.2.ready = false) →
    (rsmpVerdict ms = none → exec .rsmpCollectiveReady s =
      .next { s with arrivals := s.arrivals.map fun a => if a.gid = gid then { a with ready := true } else a }) ∧
    (rsmpVerdict ms = some code → ∃ t, exec .rsmpCollectiveReady s = .next t ∧ t.arrivals = rest ∧ t.mem = s.mem ∧
      ∀ m ∈ ms, ∃ u : State, u.g = m.1 ∧ u.mem = s.mem ∧ t.ctx? m.1.ids.ref = some (fails u m.1 m.2).g) ∧
    (∀ g a, rsmpVerdict ms = some code → ms = [(g, a)] → g = s.g → exec .rsmpCollectiveReady s = .next (fails { s with arrivals := rest } g a))) ∧
  (s.collective gid = some ms → (s.ctxs.map (·.ids.ref)).Nodup → (∀ m ∈ ms, m.2.ready = true) →
    ∃ t, exec .rsmpComplete s = .next t ∧ t.arrivals = rest ∧ t.mem = s.mem ∧
      (∀ m ∈ ms, ∃ h, t.ctx? m.1.ids.ref = some h ∧ after m.1 m.2 h ∧ ((ms.map (·.1.pop.index)).Nodup → copied m.1 m.2 h)) ∧
      ∀ g ∈ s.ctxs, g.ids.ref ∉ ms.map (·.1.ids.ref) → t.ctx? g.ids.ref = some g))

/-! ### Launch and feed queues -/

/-- R394, R404, R405, R407, R408: LAUNCH accepts a grid and gives its GRIDID; WPUSH appends a record with its witness, WPOP takes the oldest; each answers or waits when it cannot;
WDONE forms the witness or writes the block; DLCHK compares with the clock. A bad witness is judged before any address (R217), and S[a] of WPUSH and
WPOP by its alignment and then its bounds before the queue. R405: a pass of WPOP first retires the expired records at the head, each with its completion
block, or counted where that cannot be written. R406: an instruction that was waiting when its queue was disabled is turned away. R431: a poisoned record
escalates with the address read. (A status word of WDONE at 2^56 raises SPACE_BOUNDS with nothing stored: DESIGN CHOICE, log 97.) -/
def Obligations.LaunchInstructions : Prop := ∀ (f : FS) (s u : State) (q : Feed),
  let g := s.g
  let w := g.rdW f.wf.toNat
  let joined := mergeWit s.now g.mark w
  let a64 := (g.rdS64 f.a.toNat).toNat
  let a := (g.rdS f.a.toNat).toNat
  let l := s.place g .c a
  let gid := (s.gridCtr + 1) % 2 ^ 32
  let ready := wValid w = true ∧ g.storesFormed = true
  let block := a % 64 = 0 ∧ a + 64 ≤ s.limit g .c ∧ Idle s ∧ s.poison = []
  let sel := f.sel.toNat
  let queue := s.feed sel = some q ∧ q.enabled = true ∧ q.world = g.ids.world ∧ g.sched.shut = false
  let offDie := ∀ k, k < 64 → 2 ^ 60 ≤ l + k ∧ (l + k < 2 ^ 62 ∨ 2 ^ 63 ≤ l + k)
  let setC := fun (b : Bool) => s.modG fun g => g.wrC f.d.toNat b
  let stalls := fun (i : Instr) => exec i s = .next (s.modG Ctx.holdAtIssue)
  let raises := fun (i : Instr) (c : Nat) (v : DWord) => exec i s = .next (s.raise c g.flow.pc v)
  let late := fun (deadline tick : Nat) => deadline ≠ 0 ∧ (tick + 2 ^ 50 - deadline % 2 ^ 50) % 2 ^ 50 < 2 ^ 49
  (Clear (.launch f) s → a64 % 128 = 0 → a64 < 2 ^ 56 → ready → s.launchFull = false → ∃ x, Does (.launch f) s
      { s with gridCtr := gid, grids := s.grids ++ [x], g := g.wrS f.d.toNat (BitVec.ofNat 32 gid) } ∧ x.gid = gid ∧ x.addr = a64 ∧ x.asn = g.ids.asn ∧
      x.world = g.ids.world ∧ x.cap = g.ids.prio ∧ x.lwit = joined ∧ x.after = none ∧ x.phase = 0) ∧
  (Clear (.launch f) s → wValid w = true → a64 % 128 ≠ 0 → raises (.launch f) 0x13 (laneEval 0 a64)) ∧
  (Clear (.launch f) s → wValid w = true → a64 % 128 = 0 → 2 ^ 56 ≤ a64 → raises (.launch f) 0x12 (laneEval 0 a64)) ∧
  (∀ i, i = .launch f ∧ a64 % 128 = 0 ∧ a64 < 2 ^ 56 ∨ i = .wpush f ∧ block ∨ i = .wdone f → Clear i s → wValid w = true → g.storesFormed = false → stalls i) ∧
  (Clear (.launch f) s → a64 % 128 = 0 → a64 < 2 ^ 56 → ready → s.launchFull = true → stalls (.launch f)) ∧
  (Clear (.wpush f) s → block → ready → queue → q.count < q.cap → offDie → ∃ t, Does (.wpush f) s t ∧ t.g.regs = (g.wrC f.d.toNat true).regs ∧
    t.mem.readB (q.slot q.tail) 64 = (s.mem.readB l 64).take 56 ++ toBytes 8 joined.toNat ∧ t.feed sel = some { q with tail := (q.tail + 1) % 2 ^ 64 } ∧
    ∀ b, b < q.slot q.tail ∨ q.slot q.tail + 64 ≤ b → b < feedAt sel + 0x18 ∨ feedAt sel + 0x20 ≤ b → t.mem.get 0 b = s.mem.get 0 b) ∧
  (Clear (.wpush f) s → block → ready → queue → q.cap ≤ q.count → if f.var8 = 1 then
      exec (.wpush f) s = .next ((s.modG fun g => { g with sched := { g.sched with pushes := some sel } }).modG Ctx.holdAtIssue)
    else Does (.wpush f) s (setC false)) ∧
  (let u := State.retireExpired q.cap sel s
   ∀ q', Clear (.wpop f) s → block → queue → u.feed sel = some q' → u.poison = [] →
    (q'.count ≠ 0 → offDie → ∃ t, Does (.wpop f) s t ∧
      t.mem.readB l 64 = u.mem.readB (q'.slot q'.head) 64 ∧ t.feed sel = some { q' with head := (q'.head + 1) % 2 ^ 64 } ∧
      t.g.rdW f.wf.toNat = (if f.wf = 15 then 0 else BitVec.ofNat 64 (u.mem.readN (q'.slot q'.head + 0x38) 8)) ∧
      (f.var8 = 1 → t.g.rdC f.d.toNat = true) ∧ (f.var8 ≠ 1 → ∀ c, t.g.rdC c = g.rdC c) ∧
      ∀ b, b < l ∨ l + 64 ≤ b → b < feedAt sel + 0x10 ∨ feedAt sel + 0x18 ≤ b → t.mem.get 0 b = u.mem.get 0 b) ∧
    (q'.count = 0 → f.var8 = 1 → ∃ t, Does (.wpop f) s t ∧ t.g.regs = (g.wrC f.d.toNat false).regs ∧ t.mem = u.mem)) ∧
  (Clear (.wpop f) s → a % 64 = 0 → a + 64 ≤ s.limit g .c → Idle s → queue → q.count ≠ 0 → ¬ late (s.mem.readN (q.slot q.head) 8) s.now →
    s.rangeBad (q.slot q.head) 64 = true → exec (.wpop f) s =
      .next ((s.logError 4 2 (q.slot q.head) g.handle).escalate g.ids.ref 0x40 g.flow.pc (BitVec.ofNat 64 (q.slot q.head - 2 ^ 62)))) ∧
  (∀ n, s.feed sel = some q → s.poison = [] →
    let done := s.mem.readN (q.slot q.head + 0x30) 8
    let gone := fun (v e : State) (fails : Nat) => State.retireExpired (n + 1) sel s = State.retireExpired n sel v ∧
      v.feed sel = some { q with head := (q.head + 1) % 2 ^ 64, expired := (q.expired + 1) % 2 ^ 64, fails } ∧
      (∀ b, b < feedAt sel + 0x10 ∨ feedAt sel + 0x38 ≤ b → v.mem.get 0 b = e.mem.get 0 b) ∧ v.g.regs = g.regs
    (q.count = 0 ∨ ¬ late (s.mem.readN (q.slot q.head) 8) s.now → State.retireExpired n sel s = s) ∧
    (q.count ≠ 0 → late (s.mem.readN (q.slot q.head) 8) s.now →
      (done = 0 → ∃ v, gone v s q.fails) ∧
      (s.expireBlock q done = none → done ≠ 0 → ∃ v, gone v s ((q.fails + 1) % 2 ^ 64)) ∧
      (∀ e, s.expireBlock q done = some e → done ≠ 0 → e.poison = [] → e.feed sel = some q → ∃ v, gone v e q.fails)) ∧
    (done % 16 ≠ 0 → s.expireBlock q done = none) ∧
    (∀ c, s.engTranslate (100 + sel / 256 % 8) q.asn q.world done .store = .error c → s.expireBlock q done = none) ∧
    (∀ e' tr, done % 16 = 0 → done < 2 ^ 56 → s.engTranslate (100 + sel / 256 % 8) q.asn q.world done .store = .ok (e', tr) → tr.crypt.enc = false →
      ∃ e, s.expireBlock q done = some e ∧ e.mem.readN (tr.loc done) 8 = 0 ∧ e.mem.readN (tr.loc done + 8) 8 = 0xFFFFFFFF)) ∧
  (∀ i, i = .wpop f ∨ i = .wpush f ∧ wValid w = true → Clear i s → (a % 64 ≠ 0 → raises i 0x13 (laneEval 0 a)) ∧
    (a % 64 = 0 → s.limit g .c < a + 64 → raises i 0x12 (laneEval 0 a))) ∧
  (∀ i, i = .wpop f ∨ i = .wpush f ∧ ready → Clear i s → block → g.sched.shut = true → raises i 0x12 (BitVec.ofNat 64 sel)) ∧
  (Clear (.wpop f) s → block → queue → q.count = 0 → f.var8 ≠ 1 → ∃ t, exec (.wpop f) s = .next t ∧
    t.g.wait = { kind := 2, addr := f.sel.toNat } ∧ t.g.flow = g.flow ∧ t.g.regs = g.regs ∧ t.mem = s.mem) ∧
  (∀ i, i = .wpop f ∨ i = .wpush f ∧ ready → Clear i s → block → (∀ q, s.feed f.sel.toNat = some q → q.enabled = false) → raises i 0x12 (BitVec.ofNat 64 f.sel.toNat)) ∧
  (∀ i, i = .wpop f ∨ i = .wpush f ∧ ready → Clear i s → block → s.feed f.sel.toNat = some q → q.enabled = true → g.sched.shut = false → q.world ≠ g.ids.world →
    raises i 0x14 (BitVec.ofNat 64 f.sel.toNat)) ∧
  (Clear (.wdone f) s → ready → a64 = 0 → Does (.wdone f) s (s.modG fun g => g.wrW f.d.toNat joined)) ∧
  (let op : MemOp := { kind := .store, space := .g, width := .b64, uni := true, wo := f.d.toNat, pend := s.nextId,
                       tail := some (2 ^ 31 + (g.rdS f.b.toNat).toNat % 2 ^ 31), reqs := [{ lane := 0, addr := a64, reg := 0, data := joined.toNat }] }
   let p : Pend := { id := s.nextId, kind := .witness, marks := if f.d = 15 then [] else [.w f.d.toNat], uni := true, wreg := f.d.toNat,
                     wit := mkWit g.dom s.clock, store := true, plus := joined, level := g.traps.level }
   ∀ op', Clear (.wdone f) s → ready → a64 ≠ 0 → a64 % 8 = 0 → a64 + 16 ≤ 2 ^ 56 → g.log = [] →
    State.admitOp op ({ s with nextId := s.nextId + 1 }.modG fun g => { g with pend := g.pend ++ [p] }) = some (u, op', []) →
    (u.g.pend.all fun q => q.kind != .peer) = true → Does (.wdone f) s u) ∧
  (Clear (.wdone f) s → ready → a64 % 8 ≠ 0 → raises (.wdone f) 0x13 (laneEval 0 a64)) ∧
  (Clear (.wdone f) s → ready → a64 % 8 = 0 → 2 ^ 56 ≤ a64 → raises (.wdone f) 0x12 (laneEval 0 a64)) ∧
  (Clear (.wdone f) s → ready → a64 + 8 = 2 ^ 56 → raises (.wdone f) 0x12 (laneEval 0 (a64 + 8 : Nat))) ∧
  (Clear (.dlchk f) s → ∃ b, Does (.dlchk f) s (setC b) ∧ (b = true ↔ late (g.rdS64 f.a.toNat).toNat (s.now + f.imm.toNat))) ∧
  (∀ i, i ∈ [Instr.wdone f, .wpush f, .launch f] → Clear i s → wValid w = false → raises i 0x18 w)

/-- R391, R394, R395, R402 to R406: the distributor reads a descriptor, waits for its dependencies, places gangs, and after a hold places others around a gang that
fits nowhere, if it still fits nowhere then; for a gang that fits nowhere the teams saved are those of the cluster that needs the fewest, the lowest of such
clusters, and in it the first that make room, in the order of priority, lowest first, and then of age, youngest first, among teams of lower priority at their
blocking points, populations only whole (R396); a popper wakes when a record is there, and every popper when its queue is disabled. (The verdict of a
descriptor that is malformed and of another world is BADDESC: DEDUCED, log 49.) -/
def Obligations.LaunchEvents : Prop := ∀ (s t : State) (x : Grid) (q : Feed) (g : Ctx),
  let n := if x.desc.flags.testBit 0 then x.desc.gangs else 1
  let first := x.waiting = true ∧ (∀ y ∈ s.grids, y.waiting = true → s.before y x = true → y.around = true ∧
      State.placeGangs y [] (if y.desc.flags.testBit 0 then y.desc.gangs else 1) y.nextGang s = none) ∧
    ∀ v ∈ s.saved, v.awaits = true → x.priority ≤ v.prio → v.around s.clock = true ∧ (s.kernelRestore v.cluster v).2 = false
  let key := fun (u : List Team) => (((u.head?.map (·.prio)).getD 0, (u.map (·.placed)).foldl max 0) : Nat × Nat)
  let may := fun (p : Nat) (tm : Team) => tm.prio < p ∧ s.savedAlone tm.grid tm.team = false ∧
    ∀ y ∈ s.ctxs, y.inTeam tm.grid tm.team = true → y.atPoint = true ∨ y.over = true ∧ y.sched.escalated = false
  let fits := fun (gang c : Nat) (ts : List Team) => ((s.without ts).fitIn x gang c).isSome = true
  let firstOf := fun (gang c : Nat) => s.enough x gang c [] (s.victims x.priority c)
  let mod := fun (k : Grid → Grid) => { s with grids := s.grids.map fun y => if y.gid = x.gid then k y else y }
  (s.grid? s.arg.id = some x → x.phase = 0 → s.satisfied x.lwit { scope := 4, id := 0 } = true → exec .descriptorRead s = .next (s.loadDesc x)) ∧
  (∀ bs, x.addr + 128 ≤ 2 ^ 56 → s.readVa hubCluster x.asn x.world x.addr 128 = some (t, bs, false) → t.grids = s.grids →
    (s.loadDesc x).grids = s.grids.map fun y => if y.gid = x.gid then { y with phase := 1, desc := Desc.ofBytes bs, verdict := if (Desc.ofBytes bs).valid bs = true ∧ x.addr % 128 = 0 then (if (Desc.ofBytes bs).world = x.world then 0 else 4) else 3 } else y) ∧
  (s.grid? s.arg.id = some x → x.phase = 1 → s.depMet x.desc.dep0 = true → s.depMet x.desc.dep1 = true → (∀ a, x.after = some a → s.live a = false) →
    (x.verdict = 0 ∧ x.desc.teams ≠ 0 → exec .gridDependenciesSatisfied s = .next (mod fun y => { y with phase := 2 })) ∧
    (x.verdict ≠ 0 ∨ x.desc.teams = 0 → exec .gridDependenciesSatisfied s = .next (s.completeGrid x.gid))) ∧
  (s.grid? s.arg.id = some x → first →
    (State.placeGangs x s.arg.nums n x.nextGang s = some t → exec .gangPlacement s = .next t) ∧
    (State.placeGangs x [] n x.nextGang s = none → s.arg.nums = [] →
      let blocked := mod fun y => { y with blockedAt := some (y.blockedAt.getD s.clock) }
      exec .gangPlacement s = .next (if s.arg.units = 0 ∨ s.arg.units.toNat % 64 ≠ 0 then blocked else blocked.preempt x n s.arg.units.toNat))) ∧
  (∀ p c u, u ∈ s.victims p c ↔ (∃ tm ∈ s.teams, tm.core / 16 = c ∧ s.isPop tm.grid = false ∧ may p tm ∧ u = [tm]) ∨
    ∃ tm ∈ s.teams, tm.core / 16 = c ∧ s.isPop tm.grid = true ∧ u = s.teams.filter (·.grid == tm.grid) ∧ ∀ y ∈ u, may p y) ∧
  (∀ p c, (s.victims p c).Pairwise fun u v => (key u).1 < (key v).1 ∨ (key u).1 = (key v).1 ∧ (key v).2 ≤ (key u).2) ∧
  (∀ gang c vs ts, s.enough x gang c [] vs = some ts ↔ ∃ k, k < vs.length ∧ ts = (vs.take (k + 1)).flatten ∧ fits gang c ts ∧
    ∀ j, j < k → ¬ fits gang c (vs.take (j + 1)).flatten) ∧
  (∀ gang ts, s.victimsFor x gang = some ts ↔ ∃ c, c < Config.nClusters ∧ firstOf gang c = some ts ∧ ∀ c' us, c' < Config.nClusters → firstOf gang c' = some us →
    ts.length ≤ us.length ∧ (c' < c → ts.length < us.length)) ∧
  (∀ at_, s.grid? s.arg.id = some x → x.blockedAt = some at_ → at_ + 12500 ≤ s.clock →
    exec .placementHoldExpiry s = .next (mod fun y => { y with around := true })) ∧
  (s.feed s.arg.id = some q → firstParked ((s.poppers s.arg.id).filter (!·.wait.sat)) = some g → ((s.poppers s.arg.id).filter (·.wait.sat)).length < q.count →
    exec .wpopWake s = .next (s.modCtx g.ids.ref fun g => { g with wait := { g.wait with sat := true } })) ∧
  (s.feed s.arg.id = none ∨ s.feed s.arg.id = some q ∧ q.enabled = false → ∃ u, exec .feedQueueDisable s = .next u ∧ u.mem = s.mem ∧
    (s.g.wait.kind = 2 → s.g.wait.addr = s.arg.id → u.g.wait.sat = true)) ∧
  (s.feed s.arg.id = some q → q.enabled = true → s.arg.x = 1 → s.arg.id < 2048 → s.poison = [] → ∃ u, exec .feedQueueDisable s = .next u ∧
    u.feed s.arg.id = some { q with ctrl := q.ctrl - 1 } ∧ (s.g.wait.kind = 2 → s.g.wait.addr = s.arg.id → u.g.wait.sat = true ∧ u.g.sched.shut = true) ∧
    (s.g.sched.pushes = some s.arg.id → u.g.sched.shut = true)) ∧
  (s.feed s.arg.id = some q → q.enabled = false → s.poison = [] → ∃ u, exec .feedQueueEnable s = .next u ∧ u.feed s.arg.id = some { q with ctrl := q.ctrl + 1 })

/-- R14, R17, R101, R316, R389: a placed team holds its allocations, bells and clear tiles, and its groups are as a launch makes them: at the entry, with their starting lanes, every
register zero but S0 and S1, which hold the argument, and their own generator key. R27, R191, R392: a group whose last lane has exited ends once nothing of it is outstanding: its locks are released, its store mark joins its grid's witness; the
last group of a team frees the team's scratchpad, which reads zero after, once no command of a group of the team runs any more (R356). The contiguous place of a
team's scratchpad (log 48) and the entry taken modulo 2^56 (log 97) are the model's choices. -/
def Obligations.GroupsStartAndEnd : Prop :=
  (∀ (s : State) (x : Grid) (team core slot pos cls : Nat),
  let d := x.desc
  let g := startGroup s x team core slot pos cls
  let idx := team * d.ngrp + pos
  let m := d.startMask pos
  g.flow.pc = d.entry % 2 ^ 56 ∧ g.flow.active = m ∧ g.flow.exited = ~~~m ∧ g.flow.dead = 0 ∧ g.flow.stack = [] ∧ g.flow.sig = 0xFFFFFFFF ∧
  g.ids.ref = .group x.gid idx ∧ g.ids.team = team ∧ g.ids.gpos = pos ∧ g.ids.world = x.world ∧ g.ids.asn = x.asn ∧ g.ids.core = core ∧
  g.ids.prio = min (d.prio % 8) x.cap ∧ g.n = Desc.rho cls ∧ g.rho = Desc.rho cls ∧
  (∀ r l, g.rdV r l = 0 ∧ g.vpois r l = false) ∧ g.rdS 0 = d.arg.setWidth 32 ∧ g.rdS 1 = d.arg.extractLsb' 32 32 ∧ (∀ r, 1 < r → g.rdS r = 0) ∧
  (∀ r, r ≠ 7 → g.rdP r = 0 ∧ g.rdC r = false) ∧ (∀ r, g.rdW r = 0) ∧ g.traps.level = 0 ∧ g.traps.tvec1 = 0 ∧ g.traps.tvec2 = 0 ∧ g.slot.mode = .idle ∧
  g.gmode = 0x0C020000 ∧ g.gstat = 0 ∧ g.ks = mix (d.seed ^^^ BitVec.ofNat 64 idx) ∧ g.ns = 0 ∧ g.mark = 0 ∧ g.pend = [] ∧ g.log = [] ∧ g.able = true ∧
  (∀ t, s.placeTeam x team core = some t → ∃ tm, t.teams = s.teams ++ [tm] ∧ tm.core = core ∧ tm.size = d.ngrp ∧ tm.csize = d.cspad ∧
    tm.cbase + d.cbytes ≤ Config.coreSpad ∧ tm.bells = List.replicate 24 { expect := d.ngrp } ∧ tm.tiles = List.replicate d.tiles ({} : Tile) ∧
    (∀ y ∈ s.teams, y.core = core → 0 < roundUp y.csize 4096 → tm.cbase + d.cbytes ≤ y.cbase ∨ y.cbase + roundUp y.csize 4096 ≤ tm.cbase) ∧
    t.g = s.g ∧ t.mem = s.mem)) ∧
  (∀ (s : State) (t : Team),
  let g := s.g
  let due := s.arg.c = g.ids.ref ∧ g.isSys = false ∧ g.sched.finalWait = true ∧ g.sched.ended = false ∧ g.sched.escalated = false ∧ s.drained g = true ∧
    s.team? g = some t
  let alone := (∀ o ∈ s.others, o.inTeam t.grid t.team = true → o.sched.ended = true) ∧ s.savedAlone t.grid t.team = false ∧
    ∀ c ∈ s.cmds, c.c.isSys = true ∨ ¬ (c.grid = t.grid ∧ c.team = t.team)
  (due → (∃ o ∈ s.others, o.inTeam t.grid t.team = true ∧ o.sched.ended = false) → ∃ u, exec .groupEnd s = .next u ∧ u.g.sched.ended = true ∧ u.teams = s.teams ∧
    (∀ k, u.locks.get none k ≠ some (.attached g.ids.ref)) ∧
    u.grids = s.grids.map (fun x => if x.gid = g.ids.grid then { x with wit := mergeWit s.now x.wit g.mark } else x) ∧ u.g.regs = g.regs ∧ u.mem = s.mem) ∧
  (due → alone →
    (∀ x ∈ s.grids, x.gid = t.grid → x.killed = false ∧ x.teamsOver + 1 ≠ x.desc.teams) → s.gangs = [] →
    ∃ u, exec .groupEnd s = .next u ∧ (∀ x ∈ u.teams, ¬ (x.grid = t.grid ∧ x.team = t.team)) ∧
      (∀ o, o < roundUp t.csize 4096 → u.mem.get 0 (Loc.core t.core t.cbase + o) = 0) ∧ ∀ x ∈ u.others, x.inTeam t.grid t.team = false))

/-! ### Messages and direct I/O -/

/-- R369 to R374, R386: MSGSND sends 64 bytes with SRC and WIT stamped, MSGRCV takes the oldest message of its mailbox or management queue; each waits or answers
when it cannot; a message reaches its queue in order of tick, then of sender, and a BOOT message starts a held Prefect. That a core of the hub sends as SRC 0xFF
(log 53) and that MSGRCV's bytes are stored as it issues (log 52) are the model's readings (DEDUCED). -/
def Obligations.Messages : Prop := ∀ (f : FS) (s : State) (w : Wire),
  let g := s.g
  let wit := g.rdW f.wf.toNat
  let a := (g.rdS f.a.toNat).toNat
  let l := s.place g .c a
  let own := s.pref g.own
  let p := if f.var8.getLsbD 0 then (g.rdS f.b.toNat).toNat else f.sel.toNat
  let src := match g.ids.ref with | .prefect p => p | _ => 0xFF
  let block := a % 64 = 0 ∧ a + 64 ≤ s.limit g .c ∧ Idle s ∧ s.poison = []
  let ready := wValid wit = true ∧ g.storesFormed = true
  let bs := s.mem.readB l 64
  let room := if p = 254 then s.hub.inbound.length + s.underWay 254 false < 16 else (s.pref p).mailbox.length + s.underWay p false < 128
  let setC := fun (b : Bool) => s.modG fun g => g.wrC f.d.toNat b
  let stalls := fun (i : Instr) => exec i s = .next (s.modG Ctx.holdAtIssue)
  let raises := fun (i : Instr) (c : Nat) (v : DWord) => exec i s = .next (s.raise c g.flow.pc v)
  let q := if f.var8.getLsbD 1 then own.mgmtq else own.mailbox
  let put := fun (ms : List (List Byte)) => if f.var8.getLsbD 1 then { own with mgmtq := ms } else { own with mailbox := ms }
  let first := ∀ x ∈ s.wires, x.dst = w.dst → x.mgmt = w.mgmt → x.id = w.id ∨ w.due < x.due ∨ w.due = x.due ∧ (w.src < x.src ∨ w.src = x.src ∧ w.id < x.id)
  let due := s.wires.find? (fun x => x.id == s.arg.id) = some w ∧ first ∧ w.due ≤ s.clock
  let rest := s.wires.filter fun x => x.id != w.id
  (Clear (.msgsnd f) s → block → ready → p < 80 ∨ p = 254 → room → Does (.msgsnd f) s { s with
    nextId := s.nextId + 1, g := g.wrC f.d.toNat true
    wires := s.wires ++ [{ id := s.nextId, src := src, dst := p, due := s.clock + if src / 10 = p / 10 ∧ p < 80 then 60 else 180,
                           bytes := bs.take 2 ++ [BitVec.ofNat 8 src] ++ (bs.drop 3).take 5 ++ toBytes 8 (mergeWit s.now g.mark wit).toNat ++ bs.drop 16 }] }) ∧
  (Clear (.msgsnd f) s → block → ready → p < 80 ∨ p = 254 → ¬ room →
    if f.var8.getLsbD 1 then stalls (.msgsnd f) else Does (.msgsnd f) s (setC false)) ∧
  (Clear (.msgsnd f) s → block → wValid wit = true → 79 < p ∧ p ≠ 254 → raises (.msgsnd f) 0x12 (BitVec.ofNat 64 p)) ∧
  (Clear (.msgsnd f) s → wValid wit = false → raises (.msgsnd f) 0x18 wit) ∧
  (Clear (.msgsnd f) s → block → wValid wit = true → p < 80 ∨ p = 254 → g.storesFormed = false → stalls (.msgsnd f)) ∧
  (Clear (.msgrcv f) s → block → q = [] → if f.var8.getLsbD 0 then stalls (.msgrcv f) else Does (.msgrcv f) s (setC false)) ∧
  (∀ m ms, Clear (.msgrcv f) s → block → q = m :: ms → m.length = 64 → ∃ t, Does (.msgrcv f) s t ∧ t.mem.readB l 64 = m ∧
    (∀ b, b < l ∨ l + 64 ≤ b → t.mem.get 0 b = s.mem.get 0 b) ∧ t.pref g.own = put ms ∧ t.g.regs = (g.wrC f.d.toNat true).regs) ∧
  (∀ i, i = .msgsnd f ∧ wValid wit = true ∨ i = .msgrcv f → Clear i s → a % 64 ≠ 0 → raises i 0x13 (laneEval 0 a)) ∧
  (∀ i, i = .msgsnd f ∧ wValid wit = true ∨ i = .msgrcv f → Clear i s → a % 64 = 0 → s.limit g .c < a + 64 → raises i 0x12 (laneEval 0 a)) ∧
  (due → w.dst = 254 → exec .messageArrive s = .next { s with wires := rest, hub := { s.hub with inbound := s.hub.inbound ++ [(w.src, w.bytes)] } }) ∧
  (due → w.dst < s.prefs.length → s.prefs.length ≤ 254 → w.mgmt = true → (s.pref w.dst).mgmtq.length < 16 → ∃ t, exec .messageArrive s = .next t ∧ t.wires = rest ∧ t.mem = s.mem ∧
    t.pref w.dst = { s.pref w.dst with mgmtq := (s.pref w.dst).mgmtq ++ [w.bytes] }) ∧
  (due → w.dst < s.prefs.length → s.prefs.length ≤ 254 → w.mgmt = false → (s.pref w.dst).mailbox.length < 128 → ∃ t, exec .messageArrive s = .next t ∧ t.wires = rest ∧
    t.mem = s.mem ∧ t.pref w.dst = { s.pref w.dst with mailbox := (s.pref w.dst).mailbox ++ [w.bytes] } ∧
    (g.ids.ref = .prefect w.dst → g.sched.held = true → field w.bytes 0 2 = 1 → t.g.sched.held = false ∧ t.g.flow.pc = field w.bytes 16 8 % 2 ^ 56 ∧
      t.g.ids.asn = 0 ∧ t.g.ids.world = 0) ∧ (g.ids.ref ≠ .prefect w.dst ∨ g.sched.held = false ∨ field w.bytes 0 2 ≠ 1 → t.g = g))

/-- R382 to R385: IOSUB puts a descriptor, its witness and its translated pages into its ring; a full ring makes it wait or answer; IOPOLL takes the oldest completion. That a core of the hub has no ring (log 53) and IOPOLL's bytes are stored as it issues
(log 52) is the model's reading (DEDUCED); 0x002 for a PRP1 that is no multiple of 4 is taken from NVMe (log 57, PRESUMED). -/
def Obligations.DirectIo : Prop := ∀ (f : FS) (s : State),
  let g := s.g
  let w := g.rdW f.wf.toNat
  let a := (g.rdS f.a.toNat).toNat
  let l := s.place g .c a
  let port := f.sel.toNat
  let bs := s.mem.readB l 64
  let own := s.pref g.own
  let block := fun n => a % n = 0 ∧ a + n ≤ s.limit g .c ∧ Idle s ∧ s.poison = []
  let ready := wValid w = true ∧ g.storesFormed = true
  let room := fun cls => g.own < 80 ∧ (s.iocmds.filter fun c => c.pref == g.own && c.port == port && c.cls == cls && !c.sent).length < 64
  let setC := fun (b : Bool) => s.modG fun g => g.wrC f.d.toNat b
  let stalls := fun (i : Instr) => exec i s = .next (s.modG Ctx.holdAtIssue)
  let subs : List (Instr × Nat) := [(.iosubNvme f, 0), (.iosubTx f, 1), (.iosubRx f, 2)]
  (∀ i cls, (i, cls) ∈ subs → Clear i s → block 64 → ready → room cls → ∃ t c, Does i s t ∧ t.iocmds = s.iocmds ++ [c] ∧ t.mem = s.mem ∧
    t.g.regs = (g.wrC f.d.toNat true).regs ∧ c.pref = g.own ∧ c.port = port ∧ c.cls = cls ∧ c.desc = bs ∧ c.wit = mergeWit s.now g.mark w ∧ c.sent = false ∧
    let number := if cls = 0 then port else port + 8
    let op := field bs 0 1
    (¬ number ∈ s.hub.up → c.fail = some (if cls = 0 then 0x006 else 3)) ∧
    (number ∈ s.hub.up → cls = 0 → op ∉ [0, 1, 2, 9] → c.fail = some 0x001) ∧
    (number ∈ s.hub.up → cls = 0 → op ∈ [0, 1, 2, 9] → field bs 24 8 % 4 ≠ 0 ∨ field bs 1 1 % 4 ≠ 0 ∨ 2 ^ 21 < c.len ∨ field bs 32 8 ≠ 0 ∨ field bs 16 8 ≠ 0 → c.fail = some 0x002) ∧
    (number ∈ s.hub.up → c.refused = none → c.len = 0 → c.fail = none ∧ c.pages = []) ∧
    (∀ u ps, number ∈ s.hub.up → c.refused = none → 0 < c.len → c.va + c.len ≤ 2 ^ 56 →
      State.ioPages { s with nextId := s.nextId + 1 } g.cluster g.ids.asn g.ids.world (if c.writes then .store else .load) (pagesOf [(c.va, c.len)]) = some (u, ps) → c.fail = none ∧ c.pages = ps) ∧
    (number ∈ s.hub.up → c.refused = none → 0 < c.len →
      2 ^ 56 < c.va + c.len ∨ State.ioPages { s with nextId := s.nextId + 1 } g.cluster g.ids.asn g.ids.world (if c.writes then .store else .load)
        (pagesOf [(c.va, c.len)]) = none →
      c.fail = some (if cls = 0 then 0x701 else 2))) ∧
  (∀ i cls, (i, cls) ∈ subs → Clear i s → block 64 → ready → ¬ room cls → if f.var8.getLsbD 2 then stalls i else Does i s (setC false)) ∧
  (∀ i cls, (i, cls) ∈ subs → Clear i s → wValid w = false → exec i s = .next (s.raise 0x18 g.flow.pc w)) ∧
  (∀ i cls, (i, cls) ∈ subs → Clear i s → block 64 → wValid w = true → g.storesFormed = false → stalls i) ∧
  (∀ i n, i = .iopoll f ∧ n = 32 ∨ (∃ cls, (i, cls) ∈ subs) ∧ wValid w = true ∧ n = 64 → Clear i s →
    (a % n ≠ 0 → exec i s = .next (s.raise 0x13 g.flow.pc (laneEval 0 a))) ∧
    (a % n = 0 → s.limit g .c < a + n → exec i s = .next (s.raise 0x12 g.flow.pc (laneEval 0 a)))) ∧
  (Clear (.iopoll f) s → block 32 → own.completions = [] → if f.var8.getLsbD 0 then stalls (.iopoll f) else Does (.iopoll f) s (setC false)) ∧
  (∀ m ms, Clear (.iopoll f) s → block 32 → own.completions = m :: ms → m.length = 32 → ∃ t, Does (.iopoll f) s t ∧ t.mem.readB l 32 = m ∧
    (∀ b, b < l ∨ l + 32 ≤ b → t.mem.get 0 b = s.mem.get 0 b) ∧ t.pref g.own = { own with completions := ms } ∧ t.g.regs = (g.wrC f.d.toNat true).regs)

/-- R367, R383 to R385, R445: a command whose witness is satisfied is sent with its buffer's bytes to its ring's queue pair when that has room; one that fails, and one that the
drive or MAC answers, is completed with its status, and what a READ of a file delivers is the file's blocks; a frame is steered by its UDP port to a Prefect, fills its oldest posted buffer, waits in the
port, or is dropped and counted. A pair's room of its depth less one and the steering of VLAN tags, IPv6 extension headers and first fragments come from the
NVMe and Internet standards (log 98, PRESUMED). -/
def Obligations.IoEvents : Prop := ∀ (s : State) (c : IoCmd) (t : Tr),
  let same := fun (x : IoCmd) => x.pref = c.pref ∧ x.port = c.port ∧ x.cls = c.cls
  let before := s.iocmds.takeWhile fun x => x.id != c.id
  let oldest := ∀ x ∈ before, ¬ same x
  let pair := fun (x : IoCmd) => x.pref % max 1 (s.hub.pairs.get 0 x.port)
  let free := if c.cls = 0 then
      (s.iocmds.filter fun x => x.sent && x.cls == 0 && x.port == c.port && pair x == pair c).length < max 1 (s.hub.depth.get 0 c.port - 1)
    else ∀ x ∈ before, ¬ (same x ∧ x.sent = false ∧ x.fail = none)
  let entry := fun (st dw : Nat) => [BitVec.ofNat 8 c.cls, BitVec.ofNat 8 c.port] ++ toBytes 2 st ++ toBytes 4 dw ++
    toBytes 8 (if c.cls = 0 then field c.desc 2 2 else field c.desc 16 8) ++ toBytes 8 (mkWit { scope := 4, id := 0 } s.now).toNat ++ toBytes 8 0
  let completes := fun (i : Instr) (st dw : Nat) (mem : State → Prop) => ∃ u, exec i s = .next u ∧ u.iocmds = s.iocmds.filter (fun x => x.id != c.id) ∧
    u.pref c.pref = { s.pref c.pref with completions := (s.pref c.pref).completions ++ [entry st dw] } ∧ mem u
  let waiting := s.iocmds.find? (fun x => x.id == s.arg.id && !x.sent) = some c
  let sent := s.iocmds.find? (fun x => x.id == s.arg.id && x.sent) = some c
  let at_ := t.phys c.va
  let onePage := 0 < c.len ∧ c.va / 2 ^ 16 = (c.va + c.len - 1) / 2 ^ 16 ∧ c.pages = [(c.va / 2 ^ 16, t)] ∧ leafTgt t.entry.toNat = 0 ∧ t.crypt.enc = false ∧
    at_ + c.len ≤ Config.reservedBase ∧ s.poison = []
  let port := s.arg.id
  let bs := s.arg.bytes
  let counted := fun (u : State) (k : Nat) => u.hub.counters.get 0 (4 * port + k) = min (s.hub.counters.get 0 (4 * port + k) + 1) (2 ^ 64 - 1)
  let up := port < 8 ∧ port + 8 ∈ s.hub.up ∧ bs ≠ [] ∧ s.hub.frames = []
  let posted := s.iocmds.find? (fun x => x.cls == 2 && x.port == port && x.pref == steer bs) = some c
  let be := fun (o : Nat) => (bs.getD o 0).toNat * 256 + (bs.getD (o + 1) 0).toNat
  (∀ x, c.pref < s.prefs.length → waiting → c.fail = some x → c.cls = 0 ∨ oldest → completes .ioBufferDispatch x 0 fun u => u.mem = s.mem) ∧
  (waiting → c.fail = none → c.cls = 0 → c.writes = true ∨ c.len = 0 ∧ c.pages = [] → free → s.satisfied c.wit { scope := 4, id := 0 } = true →
    exec .ioBufferDispatch s = .next { s with
      iocmds := s.iocmds.map (fun x => if x.id = c.id then { x with sent := true, data := [] } else x)
      out := s.out ++ [{ kind := 5, port := c.port + 256 * pair c, bytes := c.desc }] }) ∧
  (waiting → c.fail = none → onePage → c.cls = 0 ∧ c.writes = false ∨ c.cls = 1 → free →
    s.satisfied c.wit { scope := 4, id := 0 } = true → ∃ u, exec .ioBufferDispatch s = .next u ∧ u.mem = s.mem ∧
    u.iocmds = s.iocmds.map (fun x => if x.id = c.id then { x with sent := true, data := s.mem.readB at_ c.len } else x) ∧ u.out = s.out ++ [if c.cls = 0 then
      { kind := 5, port := c.port + 256 * pair c, bytes := c.desc ++ s.mem.readB at_ c.len } else { kind := 4, port := c.port, bytes := s.mem.readB at_ c.len }]) ∧
  (c.pref < s.prefs.length → sent → c.cls = 0 → c.writes = true → c.job = none → onePage → s.arg.bytes.length = c.len →
    completes .ioCommandComplete (s.arg.x % 2 ^ 15) (s.arg.units.toNat % 2 ^ 32) fun u => u.mem.readB at_ c.len = s.arg.bytes) ∧
  (∀ j, c.pref < s.prefs.length → sent → c.cls = 0 → c.writes = true → s.jobOf c = some j → onePage → s.arg.x % 2 ^ 15 = 0 →
    completes .ioCommandComplete 0 (s.arg.units.toNat % 2 ^ 32) fun u => u.mem.readB at_ c.len = s.fileBlocks j c.len) ∧
  (c.pref < s.prefs.length → sent → c.cls = 0 → c.writes = false → completes .ioCommandComplete (s.arg.x % 2 ^ 15) (s.arg.units.toNat % 2 ^ 32) fun u => u.mem = s.mem) ∧
  (c.pref < s.prefs.length → sent → c.cls = 1 → oldest → completes .ioCommandComplete 0 c.len fun u => u.mem = s.mem) ∧
  (be 12 = 0x0800 → bs.getD 23 0 = 17 → bs.getD 14 0 = 0x45 → be 20 % 2 ^ 13 = 0 → steer bs = be 36 % 80) ∧
  (be 12 = 0x8100 → be 16 = 0x0800 → bs.getD 27 0 = 17 → bs.getD 18 0 = 0x45 → be 24 % 2 ^ 13 = 0 → steer bs = be 40 % 80) ∧
  (be 12 = 0x86DD → (bs.getD 14 0).toNat / 16 = 6 → bs.getD 20 0 = 17 → steer bs = be 56 % 80) ∧
  (be 12 = 0x86DD → (bs.getD 14 0).toNat / 16 = 6 → bs.getD 20 0 = 0 → bs.getD 54 0 = 17 → steer bs = be (54 + 8 * ((bs.getD 55 0).toNat + 1) + 2) % 80) ∧
  (be 12 ∉ [0x0800, 0x86DD, 0x8100, 0x88A8] → steer bs = 0) ∧
  (up → s.arg.ok = false → ∃ u, exec .rxFrame s = .next u ∧ counted u 2 ∧ u.iocmds = s.iocmds ∧ u.hub.frames = []) ∧
  (c.pref < s.prefs.length → up → s.arg.ok = true → posted → c.fail = none → onePage → bs.length ≤ c.len →
    completes .rxFrame 0 bs.length fun u => counted u 0 ∧ u.mem.readB at_ bs.length = bs) ∧
  (c.pref < s.prefs.length → up → s.arg.ok = true → posted → c.fail = none → onePage → c.len < bs.length →
    completes .rxFrame 1 c.len fun u => counted u 0 ∧ u.mem.readB at_ c.len = bs.take c.len) ∧
  (up → s.arg.ok = true → (∀ x ∈ s.iocmds, ¬ (x.cls = 2 ∧ x.port = port ∧ x.pref = steer bs)) → ∃ u, exec .rxFrame s = .next u ∧ counted u 0 ∧ u.mem = s.mem ∧
    if bs.length ≤ 2 ^ 18 then u.hub.frames = [(port, bs)] else u.hub.frames = [] ∧ counted u 3)

/-! ### Worlds, keys, measurements, the SPDM responder -/

/-- R410, R416, R418 to R420, R422: the operations on worlds, keys, buffers, sweeps and measurements: what each changes and the status it answers; a key that is not resident is kept
wrapped. An entry with reserved
bytes set is refused (the model's choice, log 76); BSET with VALID 0 looks at no other field and DIRTY outlives a BSET (log 67), and what SWEEP answers for an invalid
buffer or a rekey without buffers, and SQRY for a bad index, is read from the rules (log 68), DEDUCED. -/
def Obligations.KeyOperations : Prop := ∀ (f : FS) (s : State),
  let g := s.g
  let a := (g.rdS f.a.toNat).toNat
  let x := (g.rdS f.b.toNat).toNat
  let l := s.place g .c a
  let block := fun n => a % 32 = 0 ∧ a + n ≤ s.limit g .c ∧ Idle s ∧ s.poison = []
  let op := fun n => s.mem.readB l n
  let gives := fun (i : Instr) (r : Nat) (k : State → State) => Does i s ((k s).modG fun g => g.wrS f.d.toNat (BitVec.ofNat 32 r))
  let stalls := fun (i : Instr) => exec i s = .next (s.modG Ctx.holdAtIssue)
  let keyId := x < 2 ^ 15 ∧ x % 256 ≠ 0
  let no := fun (x : Nat) => x % 256 * 128 + x / 256 % 128
  let swept := fun k => ∃ w ∈ s.sweeps, (s.bufs.get {} w.buf).world * 128 + (s.bufs.get {} w.buf).key = k
  let kept := fun (k : Nat) (b : List Byte) => SMap.set [] s.wrapped k (if s.keyCache.contains k then [] else Crypto.keyWrap Config.kek b)
  let mat := fun (b : List Byte) => ({ k1 := b.take 32, k2 := (b.drop 32).take 32, km := (b.drop 64).take 32 } : KeyMat)
  let e := op 64
  let worldOk := field e 0 1 ≤ 1 ∧ field e 24 1 ≤ 3 ∧ ∀ i, i < 64 → i = 0 ∨ 8 ≤ i ∧ i < 25 ∨ 32 ≤ i ∨ e.getD i 0 = 0
  let world : World := { active := field e 0 1 = 1, swBase := field e 8 8, swLen := field e 16 8, hostOk := (field e 24 1).testBit 0
                         peerOk := (field e 24 1).testBit 1, roster := BitVec.ofNat 256 (field e 32 32) }
  let o := op 32
  let base := field o 0 8
  let n := field o 8 4
  let flags := field o 14 1
  let index := 0 < x ∧ x < 2 ^ 16
  let old := s.bufs.get {} x
  let valid := flags.testBit 0 = true
  let sound := n ≠ 0 ∧ field o 12 1 ≠ 0 ∧ field o 13 1 ≤ 127 ∧ flags ≤ 3 ∧ base + n ≤ 0xE00000
  let clash := ∃ y ∈ s.tags, y.2 ≠ x ∧ (s.bufs.get {} y.2).valid = true ∧ base ≤ y.1 ∧ y.1 < base + n
  let units := s.sweepUnits.length
  let mine := s.bufs.filter fun b => b.2.valid && b.2.world * 128 + b.2.key == no x
  (Clear (.keyopWset f) s → block 64 → s.worldBusy x = false → worldOk → x ≤ 255 → gives (.keyopWset f) 0 fun s => { s with worlds := SMap.set {} s.worlds x world }) ∧
  (Clear (.keyopWset f) s → block 64 → s.worldBusy x = false → ¬ worldOk ∨ 255 < x → gives (.keyopWset f) 1 id) ∧
  (Clear (.keyopWset f) s → block 64 → s.worldBusy x = true → stalls (.keyopWset f)) ∧
  (Clear (.keyopKset f) s → block 96 → keyId → ¬ swept (no x) → gives (.keyopKset f) 0 fun s =>
    { s with keys := SMap.set none s.keys (no x) (some (mat (op 96))), wrapped := kept (no x) (op 96) }) ∧
  (Clear (.keyopKdel f) s → keyId → ¬ swept (no x) → gives (.keyopKdel f) 0 fun s =>
    { s with keys := SMap.set none s.keys (no x) none, keyCache := s.keyCache.filter (· != no x), wrapped := SMap.set [] s.wrapped (no x) [] }) ∧
  (∀ i, i = .keyopKset f ∧ block 96 ∨ i = .keyopKdel f → Clear i s → (¬ keyId → gives i 1 id) ∧ (keyId → swept (no x) → gives i 2 id)) ∧
  (Clear (.keyopBset f) s → block 32 → s.bsetBusy x o = true → stalls (.keyopBset f)) ∧
  (Clear (.keyopBset f) s → block 32 → s.bsetBusy x o = false → index → valid → sound → ¬ clash → ∃ u, Does (.keyopBset f) s u ∧
    u.g.regs = (g.wrS f.d.toNat 0).regs ∧ u.mem = s.mem ∧ u.sweeps = s.sweeps ∧
    u.bufs = SMap.set {} s.bufs x { base := base, frames := n, world := field o 12 1, key := field o 13 1, valid := true, dirty := old.valid && old.dirty, ver := field o 16 8 } ∧
    (∀ k, base ≤ k → k < base + n → u.tags.get 0 k = x) ∧
    ∀ k, k < base ∨ base + n ≤ k → u.tags.get 0 k = s.tags.get 0 k ∨ s.tags.get 0 k = x) ∧
  (Clear (.keyopBset f) s → block 32 → s.bsetBusy x o = false → index → ¬ valid → s.tags = [] → gives (.keyopBset f) 0 fun s =>
    { s with bufs := SMap.set {} s.bufs x {}, sweeps := s.sweeps.filter fun w => w.buf != x }) ∧
  (Clear (.keyopBset f) s → block 32 → s.bsetBusy x o = false → ¬ index ∨ valid ∧ ¬ sound → gives (.keyopBset f) 1 id) ∧
  (Clear (.keyopBset f) s → block 32 → s.bsetBusy x o = false → index → valid → sound → clash → gives (.keyopBset f) 3 id) ∧
  (Clear (.keyopSweep f) s → x < 2 ^ 31 → index → old.valid = true → units < 16 → gives (.keyopSweep f) 0 fun s => { s with
    nextId := s.nextId + 1, sweeps := s.sweeps ++ [{ id := s.nextId, buf := x, line := old.base * 2 ^ 16 }]
    bufs := SMap.set {} s.bufs x { old with dirty := false } }) ∧
  (Clear (.keyopSweep f) s → x < 2 ^ 31 → (¬ index ∨ old.valid = false → gives (.keyopSweep f) 1 id) ∧
    (index → old.valid = true → 16 ≤ units → gives (.keyopSweep f) 2 id)) ∧
  (Clear (.keyopSweep f) s → 2 ^ 31 ≤ x → block 96 → x % 2 ^ 31 < 2 ^ 15 → x % 256 ≠ 0 →
    (swept (no x) ∨ 16 ≤ units → gives (.keyopSweep f) 2 id) ∧
    (¬ swept (no x) → units < 16 → mine = [] → gives (.keyopSweep f) 0 fun s =>
      { s with keys := SMap.set none s.keys (no x) (some (mat (op 96))), wrapped := kept (no x) (op 96) }) ∧
    (¬ swept (no x) → units < 16 → mine ≠ [] → ∃ u, Does (.keyopSweep f) s u ∧ u.g.regs = (g.wrS f.d.toNat 0).regs ∧ u.keys = s.keys ∧ u.bufs = s.bufs ∧ u.mem = s.mem ∧
      u.sweeps.take s.sweeps.length = s.sweeps ∧ ((u.sweeps.drop s.sweeps.length).map fun w => (w.buf, w.line, w.rekey)) =
        mine.map fun b => (b.1, b.2.base * 2 ^ 16, some (mat (op 96))))) ∧
  (Clear (.keyopSqry f) s → (∀ w, s.sweeps.find? (fun w => w.buf == x) = some w → gives (.keyopSqry f) (((old.base + old.frames) * 2 ^ 16 - w.line) / 64) id) ∧
    ((∀ w ∈ s.sweeps, w.buf ≠ x) → gives (.keyopSqry f) 0 id)) ∧
  (Clear (.keyopMext f) s → block 32 → gives (.keyopMext f) 0 fun s => { s with meas := s.meas.modify f.sel.toNat fun m => Crypto.sha256 (m ++ o) }) ∧
  (Clear (.keyopMrd f) s → block 32 → (s.measOf f.sel.toNat).length = 32 → ∃ t, Does (.keyopMrd f) s t ∧ t.mem.readB l 32 = s.measOf f.sel.toNat ∧
    (∀ b, b < l ∨ l + 32 ≤ b → t.mem.get 0 b = s.mem.get 0 b) ∧ t.g.regs = (g.wrS f.d.toNat 0).regs) ∧
  (∀ i, i ∈ [Instr.keyopWset f, .keyopKset f, .keyopBset f, .keyopMext f, .keyopMrd f] ∨ i = .keyopSweep f ∧ 2 ^ 31 ≤ x → Clear i s → a % 32 ≠ 0 → exec i s = .next (s.raise 0x13 g.flow.pc (laneEval 0 a)))

/-- R415, R418, R419, R436: a sweep rewrites its next line under its new key and VER + 1 with the line's MAC, and poisons a line whose MAC fails, an uncorrectable event of its row; after the last line VER advances and a rekey
installs its material; a missing key enters the key cache, which the least recently used key leaves, wrapped. R421, R422: the security core serves the entry at HEAD once its witness is satisfied: an operation on a world whose owner did not create it is refused, the programs extend
MEAS5 to MEAS15 alone; the result, the status with bit 31 and HEAD are written. Who created a world is the outside's to say, and an entry is taken when it holds another witness than when it was last
served (the model's choices, log 77). -/
def Obligations.SweepsAndSecurityRing : Prop :=
  (∀ (s : State) (w : Sweep) (k : KeyMat),
  let b := s.bufs.get {} w.buf
  let l := w.line
  let key := b.world * 128 + b.key
  let found := s.sweeps.find? (fun x => x.id == s.arg.id) = some w
  let new := match w.rekey with | some m => some m | none => s.keys.get none key
  let plain := s.openLine { enc := true, world := b.world, key := b.key } l
  let seals := fun (u : State) (pt : List Byte) =>
    let ct := Crypto.xtsEnc k.k1 k.k2 (l / 64) pt
    u.mem = (s.mem.writeB (l / 64 * 64) ct).writeB (Config.reservedBase + l / 64 * 8) ((Crypto.cmac k.km (ct ++ toBytes 8 (l / 64 * 64) ++ toBytes 8 (b.ver + 1))).take 8)
  let due := found ∧ s.sweepRuns w = true ∧ l < (b.base + b.frames) * 2 ^ 16 ∧ s.keyAway { enc := true, world := b.world, key := b.key } = false
  let n := s.arg.id
  let wrap := fun (m : KeyMat) => Crypto.keyWrap Config.kek (m.k1 ++ m.k2 ++ m.km)
  let moved := s.sweeps.map fun x => if x.id = w.id then { x with line := l + 64 } else x
  (∀ pt, due → new = some k → plain = some pt → ∃ u, exec .sweepLine s = .next u ∧ u.sweeps = moved ∧ u.poison = s.poison ∧ u.bufs = s.bufs ∧ seals u pt) ∧
  (due → new = some k → plain = none → ∃ u, exec .sweepLine s = .next u ∧ u.sweeps = moved ∧ u.errSeq = (s.errSeq + 1) % 2 ^ 32 ∧ u.errUE.get 0 12 = min (s.errUE.get 0 12 + 1) (2 ^ 32 - 1) ∧ seals u (s.mem.readB l 64) ∧
    (l < Config.hbmBytes → u.rowErr = SMap.set 0 s.rowErr (2 * Config.hbmRow l) (s.rowErr.get 0 (2 * Config.hbmRow l) + 1)) ∧ ∀ i, i < 8 → u.poison.get false (l / 8 + i) = true) ∧
  (found → s.sweeps.filter (fun x => s.sweepUnit x == s.sweepUnit w) = [w] → (b.base + b.frames) * 2 ^ 16 ≤ l → exec .sweepComplete s = .next { s with
    bufs := SMap.set {} s.bufs w.buf { b with ver := (b.ver + 1) % 2 ^ 64 }, sweeps := s.sweeps.filter (fun x => x.id != w.id)
    keys := match w.rekey with | some m => SMap.set none s.keys key (some m) | none => s.keys
    wrapped := match w.rekey with | some m => SMap.set [] s.wrapped key (if s.keyCache.contains key then [] else wrap m) | none => s.wrapped }) ∧
  ((s.keys.get none n).isSome = true → n ∉ s.keyCache → s.keyCache.length < 128 → exec .keyMissLoad s = .next { s with
    keyCache := s.keyCache ++ [n], wrapped := SMap.set [] s.wrapped n [] }) ∧
  (∀ x, (s.keys.get none n).isSome = true → n ∉ s.keyCache → 128 ≤ s.keyCache.length → s.keyCache.find? (fun x => !s.keySwept x) = some x →
    exec .keyMissLoad s = .next { s with
      keyCache := s.keyCache.filter (· != x) ++ [n]
      wrapped := SMap.set [] (SMap.set [] s.wrapped n []) x (((s.keys.get none x).map wrap).getD []) })) ∧
  (∀ (s t u : State) (h e : List Byte),
  let base := s.hub.secring.toNat
  let head := field h 8 8
  let at_ := base + 64 + head % 256 * 128
  let code := field e 0 1
  let sel := field e 1 1
  let x := field e 4 4
  let op := e.drop 32
  let wit := BitVec.ofNat 64 (field e 16 8)
  let isBuf := code = 4 ∧ x.testBit 31 = false ∨ code = 5
  let world := if code < 3 ∨ code = 4 ∧ x.testBit 31 = true then x % 256 else if isBuf then (u.bufs.get {} x).world
    else if code = 3 then (if (field op 14 1).testBit 0 then field op 12 1 else (u.bufs.get {} x).world) else 0
  let v := { u with ringWit := SMap.set 0 u.ringWit (head % 256) wit }
  let run : State × Nat × List Byte :=
    if world ≠ 0 ∧ s.arg.ok = false then (v, 1, [])
    else if code = 0 then ((v.keyWset x op).1, (v.keyWset x op).2, [])
    else if code = 1 then ((v.keyKset x op).1, (v.keyKset x op).2, [])
    else if code = 2 then ((v.keyKdel x).1, (v.keyKdel x).2, [])
    else if code = 3 then ((v.keyBset x op).1, (v.keyBset x op).2, [])
    else if code = 4 then ((v.keySweep x op).1, (v.keySweep x op).2, [])
    else if code = 5 then (v, 0, toBytes 4 (v.keySqry x))
    else if code = 6 ∧ 5 ≤ sel ∧ sel ≤ 15 then ({ v with meas := v.meas.modify sel fun m => Crypto.sha256 (m ++ op.take 32) }, 0, [])
    else if code = 7 ∧ sel ≤ 15 then (v, 0, v.measOf sel)
    else (v, 1, [])
  let waits := code = 0 ∧ u.worldBusy x = true ∨ code = 3 ∧ u.bsetBusy x op = true
  let due := head ≠ field h 0 8 ∧ (field e 8 4).testBit 31 = false ∧ wValid wit = true ∧ wScope wit ≠ 0 ∧ wit ≠ s.ringWit.get 0 (head % 256) ∧
    u.satisfied wit { scope := 4, id := 0 } = true ∧ ¬ waits
  let put := fun (s : State) (a : Nat) (bs : List Byte) => (s.writeVa hubCluster 0 0 a bs).getD s
  s.readVa hubCluster 0 0 base 16 = some (t, h, false) → t.readVa hubCluster 0 0 at_ 128 = some (u, e, false) →
  (due → exec .securityRingRequest s =
    .next (put (put (if run.2.2 = [] then run.1 else put run.1 (at_ + 32) run.2.2) (at_ + 8) (toBytes 4 (run.2.1 + 2 ^ 31))) (base + 8) (toBytes 8 (head + 1)))) ∧
  (¬ due → exec .securityRingRequest s = .next s))

/-- R423 to R425: the responder: GET_VERSION starts a connection afresh, the others come in order, the transcript grows and that of measurements ends with any other request, CHALLENGE and
signed measurements are signed over it; a busy responder, a wrong version, a request out of order, a malformed field and an unsupported code are answered with their errors, which change nothing. The
layouts are DSP0274's (the model's presumption, logs 13 and 78). -/
def Obligations.SpdmResponder : Prop := ∀ (s : State),
  let m := s.arg.bytes
  let c := match s.arg.via with | .sideband => s.spdmSide | .pcie => s.spdmPcie
  let answers := fun (i : Instr) (c : Spdm) (r : List Byte) => exec i s = .next (match s.arg.via with
    | .sideband => { s with spdmSide := c, out := s.out ++ [{ kind := 2, bytes := r }] }
    | .pcie => { s with spdmPcie := c, out := s.out ++ [{ kind := 3, bytes := r }] })
  let bit := fun (o n k : Nat) => (field m o n).testBit k
  let chain := Der.chain
  let fields : List (Nat × Nat × Prop) := [(0x84, 4, field m 0 1 = 0x10), (0xE1, 20, field m 5 1 ≤ 31 ∧ 42 ≤ field m 12 4 ∧ field m 12 4 ≤ field m 16 4),
    (0xE3, 32, field m 4 2 = m.length ∧ m.length ≤ 128 ∧ (bit 8 4 2 ∨ bit 8 4 3)), (0x81, 4, True), (0x82, 8, field m 2 1 % 16 = 0 ∧ field m 4 2 < chain.length),
    (0x83, 36, field m 2 1 = 0 ∧ field m 3 1 ∈ [0, 1, 255]), (0xE0, 4, (field m 3 1 ≤ 16 ∨ field m 3 1 = 255) ∧ (bit 2 1 0 → 37 ≤ m.length ∧ field m 36 1 % 16 = 0))]
  let sound := fun (code : Nat) => ∀ n p, (code, n, p) ∈ fields → n ≤ m.length ∧ p
  let comes := fun (code : Nat) => field m 1 1 = code ∧ s.arg.ok = true
  let inOrder := fun (code : Nat) => code = 0x84 ∨ field m 0 1 = 0x12 ∧ (if code = 0xE1 then c.phase = 1 else if code = 0xE3 then c.phase = 2 else 3 ≤ c.phase)
  let asks := fun (code : Nat) => comes code ∧ inOrder code ∧ sound code
  let nonce := fun k => toBytes 8 (s.free k).toNat ++ toBytes 8 (s.free (k + 1)).toNat ++ toBytes 8 (s.free (k + 2)).toNat ++ toBytes 8 (s.free (k + 3)).toNat
  let sig := fun (context : String) (t : List Byte) => (toBytes 384 (Config.sign c.pss (Crypto.sha256 (Der.signed context t))).toNat).reverse
  let v := [0x10, 0x04, 0, 0, 0, 1, 0x00, 0x12]
  let caps := [0x12, 0x61, 0, 0, 0, BitVec.ofNat 8 (s.free 4000).toNat, 0, 0, 0x16, 0, 0, 0] ++ toBytes 4 (s.free 4001).toNat ++ toBytes 4 (s.free 4002).toNat
  let pss := !bit 8 4 2
  let algs := [0x12, 0x63, 0, 0, 36, 0, BitVec.ofNat 8 (field m 6 1 % 2), 0, 2, 0, 0, 0, if pss then 8 else 4, 0, 0, 0] ++ toBytes 4 (field m 12 4 % 2) ++ List.replicate 16 0
  let digests := [0x12, 0x01, 0, 1] ++ Crypto.sha256 chain
  let part := (chain.drop (field m 4 2)).take (field m 6 2)
  let cert := [0x12, 0x02, 0, 0] ++ toBytes 2 part.length ++ toBytes 2 (chain.length - field m 4 2 - part.length) ++ part
  let blk := fun i => [BitVec.ofNat 8 i, 1, 35, 0, 1, 32, 0] ++ s.meas.getD (i - 1) (List.replicate 32 0)
  let blks := ((List.range 16).map fun i => blk (i + 1)).flatten
  let sum := if field m 3 1 = 0 then [] else Crypto.sha256 blks
  let auth := [0x12, 0x03, 0, 1] ++ Crypto.sha256 chain ++ nonce 4010 ++ sum ++ [0, 0]
  let i := field m 3 1
  let got := if i = 0 then [] else if i = 0xFF then blks else blk i
  let meas := [0x12, 0x60, if i = 0 then 16 else 0, 0, if i = 0 then 0 else if i = 0xFF then 16 else 1] ++ toBytes 3 got.length ++ got ++ nonce 4020 ++ [0, 0]
  let err := fun (e d : Byte) => [0x12, 0x7F, e, d]
  let all : List (Instr × Nat) := [(.getVersion, 0x84), (.getCapabilities, 0xE1), (.negotiateAlgorithms, 0xE3), (.getDigests, 0x81), (.getCertificate, 0x82),
    (.challenge, 0x83), (.getMeasurements, 0xE0)]
  (asks 0x84 → answers .getVersion { phase := 1, vca := m ++ v } v) ∧
  (asks 0xE1 → answers .getCapabilities { c with phase := 2, vca := c.vca ++ m ++ caps, blocks := [] } caps) ∧
  (asks 0xE3 → answers .negotiateAlgorithms { c with phase := 3, vca := c.vca ++ m ++ algs, pss := pss, blocks := [] } algs) ∧
  (asks 0x81 → answers .getDigests { c with certs := c.certs ++ m ++ digests, blocks := [] } digests) ∧
  (asks 0x82 → answers .getCertificate { c with certs := c.certs ++ m ++ cert, blocks := [] } cert) ∧
  (asks 0x83 → answers .challenge { c with certs := [], blocks := [] } (auth ++ sig "responder-challenge_auth signing" (c.vca ++ c.certs ++ m ++ auth))) ∧
  (asks 0xE0 → bit 2 1 0 = false → answers .getMeasurements { c with blocks := c.blocks ++ m ++ meas } meas) ∧
  (asks 0xE0 → bit 2 1 0 = true → answers .getMeasurements { c with blocks := [] } (meas ++ sig "responder-measurements signing" (c.vca ++ (c.blocks ++ m ++ meas)))) ∧
  (∀ j code, (j, code) ∈ all → field m 1 1 = code → s.arg.ok = false → answers j c (err 3 0)) ∧
  (∀ j code, (j, code) ∈ all → comes code → code ≠ 0x84 → 1 ≤ c.phase → field m 0 1 ≠ 0x12 → answers j c (err 0x41 0)) ∧
  (∀ j code, (j, code) ∈ all → comes code → ¬ (1 ≤ c.phase ∧ field m 0 1 ≠ 0x12) → ¬ inOrder code → answers j c (err 4 0)) ∧
  (∀ j code, (j, code) ∈ all → comes code → inOrder code → ¬ sound code → answers j c (err 1 0)) ∧
  (field m 1 1 ∉ all.map (·.2) → s.arg.ok = true → answers .spdmUnsupportedRequest c (err 7 (BitVec.ofNat 8 (field m 1 1)))) ∧
  (field m 1 1 ∉ all.map (·.2) → s.arg.ok = false → answers .spdmUnsupportedRequest c (err 3 0))

/-! ### The host, start-up, management, peers -/

/-- R397 to R401: kicks and notifies raise events, QCTL operations apply in turn, a queue with packets is mapped to a slot and served sixteen packets at a time, each packet type has
its effect, and a bad one stops its queue with its code; a read of the kick register gives RDIDX and STATE; a write to a watched notify word is taken once. Twelve cores take events, an idle one the first
of the event queue, past those of queues that are being served. CREATE clearing SLOT, ERROR, WAITED and LAST besides the indices, and an error freeing the slot, are read from R397 to R399
(log 72, DEDUCED). -/
def Obligations.UserQueues : Prop := ∀ (s t v : State) (bs rcd : List Byte) (rest : List UEvent) (kind : Nat) (f : Feed),
  let q := s.arg.id
  let A := s.hub.qcbbase + 64 * q
  let fld := fun (u : State) (o n : Nat) => u.mem.readN (A + o) n
  let good := q < 1024 ∧ A + 64 ≤ Config.reservedBase ∧ s.poison = []
  let state := fld s 32 1
  let rd := fld s 16 4
  let wr := fld s 20 4
  let left := (wr + 2 ^ 32 - rd) % 2 ^ 32
  let none_ := ∀ e ∈ rest, e.q ≠ q
  let keeps := fun (u : State) (l : List (Nat × Nat)) =>
    ∀ b, b < Config.reservedBase → (∀ o ∈ l, b < A + o.1 ∨ A + o.1 + o.2 ≤ b) → u.mem.get 0 b = s.mem.get 0 b
  let pass := fun (i : Instr) (r : State → Prop) => ∃ u, exec i s = .next u ∧ r u
  let nothing := fun (i : Instr) => exec i s = .next s
  let asn := fld s 12 2
  let world := fld s 14 1
  let new := s.arg.x % 2 ^ 32
  let word := fld s 24 8
  let told := fun (i : Instr) (w : Nat) => pass i fun u => fld u 20 4 = w ∧ keeps u [(20, 4)] ∧ u.front.events = s.front.events ++ [{ q := q, kind := 0 }]
  let quiet := ∀ e ∈ s.front.events, e.q ≠ q
  let served := state = 3 ∧ s.front.budget.get 0 q ≠ 0 ∧ left ≠ 0
  let idle := ((s.front.budget.map (·.1)).filter s.serving).length < 12
  let next := s.front.events = { q := q, kind := kind } :: rest ∧ ¬ served ∧ idle
  let takers := [Instr.frontendEvent, .qctlCreate, .qctlDestroy, .qctlResume]
  let stops := fun (i : Instr) (code : Nat) => pass i fun u => fld u 32 1 = 4 ∧ fld u 33 1 = 255 ∧ fld u 34 2 = code ∧ fld u 16 4 = rd ∧
    u.front.budget.get 0 q = 0 ∧ ∀ e ∈ u.front.slots, e.2 ≠ some q
  let at_ := fld s 0 8 + 64 * (rd % 2 ^ fld s 8 1)
  let packet := good ∧ served ∧ at_ + 64 ≤ 2 ^ 56 ∧ s.readVa hubCluster asn world at_ 64 = some (t, bs, false) ∧ t = { s with tlb := t.tlb }
  let sound := field bs 2 2 ≤ 1 ∧ field bs 4 4 = 0 ∧ field bs 18 46 = 0
  let typ := field bs 0 2
  let consumed := fun (u : State) => fld u 16 4 = (rd + 1) % 2 ^ 32 ∧ u.front.budget.get 0 q = (if left = 1 then 0 else s.front.budget.get 0 q - 1) ∧
    (left = 1 → u.front.emptySince.get none q = some s.clock)
  let last := fld s 40 8
  let from_ := field bs 8 8
  let sel := field bs 16 2
  let pushes := packet ∧ typ = 2 ∧ sound ∧ from_ + 64 ≤ 2 ^ 56 ∧ t.readVa hubCluster asn world from_ 64 = some (v, rcd, false) ∧ v = { s with tlb := v.tlb }
  (good → s.arg.ok = true → s.hub.ready = true → word = 0 → state ≠ 0 → new ≠ wr → quiet → told .kick new) ∧
  (good → s.arg.ok = true → s.hub.ready = false ∨ word ≠ 0 ∨ state = 0 ∨ new = wr → nothing .kick) ∧
  (good → s.arg.ok = false → exec .kick s = .next { s with out := s.out ++ [{ kind := 7, port := q, bytes := toBytes 8 (rd + 2 ^ 32 * state) }] }) ∧
  (∀ l, good → s.hub.ready = true → q ∈ s.front.notified → s.front.snoop.find? (·.1 == q) = some (q, l) → state ≠ 0 → s.mem.readN l 8 % 2 ^ 32 ≠ wr → quiet →
    told .notifyWordWrite (s.mem.readN l 8 % 2 ^ 32)) ∧
  (q ∉ s.front.notified → nothing .notifyWordWrite) ∧
  (good → next → kind = 1 → state = 0 → pass .qctlCreate fun u => fld u 16 8 = 0 ∧ fld u 32 1 = 1 ∧ fld u 33 1 = 255 ∧ fld u 34 2 = 0 ∧ fld u 36 4 = 0 ∧
    fld u 40 8 = 0 ∧ u.front.events = rest ∧ keeps u [(16, 8), (32, 16)]) ∧
  (good → next → kind = 1 → state ≠ 0 → exec .qctlCreate s = .next { s with front := { s.front with events := rest } }) ∧
  (good → next → kind = 2 → pass .qctlDestroy fun u => fld u 32 1 = 0 ∧ fld u 33 1 = 255 ∧ u.front.events = rest ∧ (∀ e ∈ u.front.slots, e.2 ≠ some q) ∧
    (∀ e ∈ u.front.snoop, e.1 ≠ q) ∧ u.front.pendSince.get 0 q = 0 ∧ keeps u [(32, 2)]) ∧
  (good → next → kind = 3 → state = 4 → pass .qctlResume fun u => fld u 32 1 = 2 ∧ u.front.events = rest ∧ u.front.pendSince.get 0 q = s.clock + 1 ∧ keeps u [(32, 1)]) ∧
  (good → next → kind = 3 → state ≠ 4 → exec .qctlResume s = .next { s with front := { s.front with events := rest } }) ∧
  (good → next → kind = 0 ∨ kind = 4 → state ∈ [1, 2, 3] → 2 ^ fld s 8 1 < left → s.front.pendSince = [] → stops .frontendEvent 2) ∧
  (good → next → kind = 0 ∨ kind = 4 → state = 1 → left ≠ 0 → left ≤ 2 ^ fld s 8 1 → s.front.pendSince = [] → s.front.slots = [] → none_ → pass .frontendEvent fun u =>
    fld u 32 1 = 3 ∧ fld u 33 1 = 0 ∧ u.front.slots = [(0, some q)] ∧ u.front.pendSince = [] ∧ u.front.events = rest ++ [{ q := q, kind := 4 }]) ∧
  (good → next → kind = 0 ∨ kind = 4 → state = 3 → left ≠ 0 → left ≤ 2 ^ fld s 8 1 → s.front.pendSince = [] → pass .frontendEvent fun u => u.mem = s.mem ∧
    u.front.events = rest ∧ u.front.budget.get 0 q = 16) ∧
  (∀ i, i ∈ takers → good → ¬ served → ¬ idle → nothing i) ∧
  (∀ i x, i ∈ takers → good → ¬ served → s.front.events = x :: rest → x.q ≠ q → s.serving x.q = false → nothing i) ∧
  (∀ x, good → ¬ served → idle → s.front.events = x :: { q := q, kind := 2 } :: rest → x.q ≠ q → s.serving x.q = true → pass .qctlDestroy fun u => fld u 32 1 = 0 ∧ u.front.events = x :: rest) ∧
  (packet → 2 < typ ∨ ¬ sound ∨ typ ≠ 2 ∧ field bs 16 2 ≠ 0 → stops .frontendEvent 1) ∧
  (good → served → 2 ^ 56 < at_ + 64 ∨ s.readVa hubCluster asn world at_ 64 = none → stops .frontendEvent 3) ∧
  (packet → typ = 0 → sound → field bs 16 2 = 0 → pass .packetNop fun u => consumed u ∧ keeps u [(16, 4)] ∧ u.grids = s.grids) ∧
  (packet → typ = 1 → sound → field bs 16 2 = 0 → s.launchFull = false → pass .packetLaunch fun u => consumed u ∧ keeps u [(16, 4), (40, 8)] ∧
    fld u 40 8 = (s.gridCtr + 1) % 2 ^ 32 + 2 ^ 32 ∧ ∃ x, u.grids = s.grids ++ [x] ∧ x.gid = (s.gridCtr + 1) % 2 ^ 32 ∧ x.addr = field bs 8 8 ∧ x.asn = asn ∧
    x.world = world ∧ x.cap = fld s 15 1 % 8 ∧ x.lwit = 0 ∧ x.phase = 0 ∧ x.after = if (field bs 2 2).testBit 0 ∧ last.testBit 32 then some (last % 2 ^ 32) else none) ∧
  (packet → typ = 1 → sound → field bs 16 2 = 0 → s.launchFull = true → nothing .packetLaunch) ∧
  (pushes → sel ≤ 0x7FF → s.feed sel = some f → f.enabled = true → f.world = world → f.count < f.cap → pass .packetPush fun u => consumed u ∧ keeps u [(16, 4)] ∧
    u.mem.readB (f.slot f.tail) 64 = rcd.take 56 ++ List.replicate 8 0 ∧ u.feed sel = some { f with tail := (f.tail + 1) % 2 ^ 64 }) ∧
  (pushes → sel ≤ 0x7FF → s.feed sel = some f → f.enabled = true → f.world = world → f.cap ≤ f.count → nothing .packetPush) ∧
  (pushes → 0x7FF < sel ∨ s.feed sel = none ∨ s.feed sel = some f ∧ (f.enabled = false ∨ f.world ≠ world) → stops .packetPush 4) ∧
  (packet → typ = 2 → sound → 2 ^ 56 < from_ + 64 → stops .packetPush 3)

/-- R434, R438 to R440, R444, R445: what the host's writes of BAR0 and its accesses through BAR4 do: writes before READY reach the error counters alone; BAR4 is a window on HBM that
reads as ones before READY; QCTL queues its operation. R218, R234, R428, R433 to R436, R445: the peer table and its states, a link that goes down, a peer's accesses to local HBM, which
end its silence, what the patrol scrub finds, a repair appended for a row with two uncorrectable or sixteen corrected events; the host sizes BAR4 to 1 to 1,024 GiB. That the low bits of
BAR4BASE are dropped and the error log is read-only (log 54), that a link that goes down drops a peer's loads and ends a command with the first address it has not reached (log 73), and
that discards are counted by unit (log 86) are the model's readings (DEDUCED). -/
def Obligations.HostAndPeers : Prop :=
  (∀ (s : State),
  let h := s.hub
  let o := s.arg.x
  let v := s.arg.units.toNat
  let a := h.bar4base + o
  let bs := s.arg.bytes
  let n := s.arg.id
  let sets := fun (i : Instr) (h : Hub) => exec i s = .next { s with hub := h }
  let errs := 0x200000 ≤ o ∧ o < 0x203000
  let capped := fun x => { h with pwrcap := max 1000 (min 2800 (x % 2 ^ 16)), announce := some (max 1000 (min 2800 (x % 2 ^ 16))) }
  let w := Instr.bar0RegisterWrite
  (s.arg.ok = false → exec w s = .next { s with out := s.out ++ [{ kind := 7, bytes := toBytes 8 (s.bar0Read o) }] }) ∧
  (s.arg.ok = true → h.ready = false → ¬ errs → exec w s = .next s) ∧
  (s.arg.ok = true → h.ready = true → (o = 0x10 → sets w { h with bar4base := v / h.window * h.window }) ∧ (o = 0x20 → sets w (capped v)) ∧
    (o = 0x100000 → sets w { h with qcbbase := v }) ∧
    (o = 0x100008 → v / 2 ^ 16 % 4 ≠ 3 → exec w s = .next { s with front := { s.front with events := s.front.events ++ [{ q := v % 1024, kind := v / 2 ^ 16 % 4 + 1 }] } }) ∧
    (o ∉ [0x10, 0x20, 0x100000, 0x100008] → ¬ errs → exec w s = .next s)) ∧
  (∀ k, s.arg.ok = true → k < 13 → o = 0x200000 + 8 * k → exec w s = .next { s with errCE := SMap.set 0 s.errCE k (v % 2 ^ 32), errUE := SMap.set 0 s.errUE k (v / 2 ^ 32) }) ∧
  (s.arg.ok = true → 0x200068 ≤ o → o < 0x203000 → exec w s = .next s) ∧
  (∀ k rest, s.sched = .make (.window k) :: rest → ∃ u, step s = .next u ∧ u.mem = s.mem ∧ u.sched = rest ∧
    u.hub = if k ≤ 10 then { h with window := 2 ^ (30 + k), bar4base := h.bar4base / 2 ^ (30 + k) * 2 ^ (30 + k) } else h) ∧
  (h.ready = true → sets .pwrcapWrite (capped s.arg.x)) ∧ (h.ready = false → exec .pwrcapWrite s = .next s) ∧
  (h.ready = true → o + n ≤ h.window → a + n ≤ Config.reservedBase → (∀ i, i < n → s.poisoned (a + i) = false) → exec .bar4Read s = .next { s with
    out := s.out ++ [{ kind := 6, bytes := s.mem.readB a n }] }) ∧
  (h.ready = true → o + n ≤ h.window → a + n ≤ Config.reservedBase → (∃ i, i < n ∧ s.poisoned (a + i) = true) → exec .bar4Read s = .next { s with
    out := s.out ++ [{ kind := 6, bytes := [] }] }) ∧
  (o + n ≤ h.window → h.ready = false ∨ Config.reservedBase ≤ a → exec .bar4Read s = .next { s with out := s.out ++ [{ kind := 6, bytes := List.replicate n 0xFF }] }) ∧
  (h.ready = true → o + bs.length ≤ h.window → a + bs.length ≤ Config.reservedBase → s.poison = [] → ∃ u, exec .bar4Write s = .next u ∧ u.mem.readB a bs.length = bs ∧
    (∀ b, b < Config.reservedBase → b < a ∨ a + bs.length ≤ b → u.mem.get 0 b = s.mem.get 0 b) ∧ u.g.regs = s.g.regs) ∧
  (h.ready = false → exec .bar4Write s = .next s)) ∧
  (∀ (s : State) (t0 : Nat × Nat) (a n w sub op cmp : Nat) (bs : List Byte),
  let p := s.arg.id
  let e := s.peers.get {} p
  let l := s.arg.x
  let k := Loc.source l
  let lost := (s.accs.filter fun a => a.peer == some p && a.isWrite).length
  let gone := min (e.discards + lost) (2 ^ 64 - 1)
  let up := s.peerUp p = true
  let tell := fun (q : Nat) => ({
    id := s.nextId + q, src := 255, dst := q, due := s.clock
    bytes := [3, 0, 0xFF, 0] ++ List.replicate 12 0 ++ toBytes 8 p ++ toBytes 8 gone ++ List.replicate 32 0 } : Wire)
  let inHbm := fun a n => a + n ≤ Config.reservedBase
  let heard := SMap.set none s.peerSeen p ((s.peerSeen.get none p).map fun e => (e.1, s.clock))
  let row := 2 * Config.hbmRow l + s.arg.ok.toNat
  let rows := if l < Config.hbmBytes then SMap.set 0 s.rowErr row (s.rowErr.get 0 row + 1) else s.rowErr
  let repair : Repair := if s.arg.ok then { kind := 1, unit := l % 16, place := l / 16 % 2 ^ 32, row := l / 2 ^ 36 }
    else { kind := s.arg.nums.getD 0 0, unit := s.arg.nums.getD 1 0, place := s.arg.nums.getD 2 0, row := s.arg.nums.getD 3 0 }
  let worn := if s.arg.ok then 2 ≤ s.rowErr.get 0 (2 * l) ∨ 16 ≤ s.rowErr.get 0 (2 * l + 1) else repair.kind ∈ [2, 3, 4]
  (p < 256 → l = 1 → e.state ≠ 1 → exec .peerStateWrite s = .next { s with peers := SMap.set {} s.peers p { e with state := 1 }
                                                                           peerSeen := SMap.set none s.peerSeen p (some (s.sysSeen, s.clock)) }) ∧
  (p < 256 → l = 0 → exec .peerStateWrite s = .next { s with peers := SMap.set {} s.peers p { e with state := 0 }, peerSeen := SMap.set none s.peerSeen p none }) ∧
  (p < 256 → 1 < l ∨ l = 1 ∧ e.state = 1 → exec .peerStateWrite s = .next s) ∧
  (s.peerSeen.get none p = some t0 → up → t0.2 + 1250000 ≤ s.clock → (∀ a ∈ s.accs, a.job = none) → ∃ u, exec .linkDown s = .next u ∧ u.accs = s.accs.filter (fun a => a.peer != some p) ∧ u.cmds = s.cmds ∧
    u.peers = SMap.set {} s.peers p { e with state := 2, discards := gone } ∧ u.peerSeen.get none p = none ∧ u.mem = s.mem ∧
    u.wires = s.wires ++ (List.range 80).map tell) ∧
  (∀ d : EngCmd, s.peerSeen.get none p = some t0 → up → t0.2 + 1250000 ≤ s.clock → s.cmds = [d] →
    let left := d.unsent { s with accs := s.accs.filter fun a => a.peer != some p } p
    left ≠ [] → ∃ u d', exec .linkDown s = .next u ∧ u.cmds = [d'] ∧ d'.id = d.id ∧ d'.lost = true ∧ d'.va ∈ left ∧ (∀ a ∈ left, d'.va ≤ a) ∧ u.mem = s.mem ∧
      u.accs = s.accs.filter fun a => a.peer != some p && !(a.job == some d.id && onPeer a.loc && peerOf a.loc == p)) ∧
  (s.peerSeen.get none p = some t0 → s.clock < t0.2 + 1250000 → exec .linkDown s = .next s) ∧
  (up → s.arg.access = .load a n → inHbm a n → exec .peerDeviceAccess s = .next { s with
    peerSeen := heard, out := s.out ++ [{ kind := 9, port := p, bytes := s.mem.readB a n }] }) ∧
  (up → s.arg.access = .store a bs → inHbm a bs.length → a / 8 = (a + bs.length - 1) / 8 → bs ≠ [] → ∃ x, exec .peerDeviceAccess s = .next { s with
    peerSeen := heard, nextId := s.nextId + 1, accs := s.accs ++ [x] } ∧ x.op = .store bs false ∧ x.loc = a ∧ x.peer = some p ∧ x.tick = s.clock ∧ x.org = { scope := 5, id := 0 } ∧
    x.owner = none) ∧
  (up → s.arg.access = .atomic a w sub op cmp → inHbm a w → w = 4 ∨ w = 8 → a % w = 0 → s.poison = [] → ∃ u, exec .peerDeviceAccess s = .next u ∧
    u.out = s.out ++ [{ kind := 9, port := p, bytes := s.mem.readB a w }] ∧ u.mem.readN a w = atomNew w sub (s.mem.readN a w) op cmp % 256 ^ w ∧
    ∀ b, b < Config.reservedBase → b < a ∨ a + w ≤ b → u.mem.get 0 b = s.mem.get 0 b) ∧
  (¬ up → exec .peerDeviceAccess s = .next s ∧ exec .linkDown s = .next s) ∧
  (l < Config.hbmBytes ∨ 2 ^ 60 ≤ l ∧ l < 2 ^ 64 → s.arg.ok = true → exec .patrolScrub s = .next { s with
    errCE := SMap.set 0 s.errCE k (min (s.errCE.get 0 k + 1) 0xFFFFFFFF), rowErr := rows }) ∧
  (l < Config.hbmBytes ∨ 2 ^ 60 ≤ l ∧ l < 2 ^ 64 → s.arg.ok = false → ∃ u, exec .patrolScrub s = .next u ∧ u.mem = s.mem ∧ u.g = s.g ∧ u.errSeq = (s.errSeq + 1) % 2 ^ 32 ∧ u.rowErr = rows ∧
    u.errUE = SMap.set 0 s.errUE k (min (s.errUE.get 0 k + 1) 0xFFFFFFFF) ∧ u.poisoned l = true ∧
    (∀ i, l < 2 ^ 60 → i < 32 → u.poisoned (l / 32 * 32 + i) = true) ∧ ∀ b, b / 32 ≠ l / 32 → u.poisoned b = s.poisoned b) ∧
  (worn → s.nvm.repairs.length < 4096 → repair ∉ s.nvm.repairs → exec .repairEntryAppend s = .next { s with nvm := { s.nvm with
    repairs := s.nvm.repairs ++ [repair] } }) ∧
  (¬ worn ∨ 4096 ≤ s.nvm.repairs.length ∨ repair ∈ s.nvm.repairs → exec .repairEntryAppend s = .next s))

/-- R422, R437, R441, R442: an auxiliary-power or warm reset leaves what it must, clears the rest, and runs the start-up steps in order: each sets STEP, and the first that fails stops them with its code;
what a warm reset keeps is the error counters, MEAS0, MEAS1, the security core and, where the stored training serves, its results; pending repairs are applied, and a site without a spare is named. R446: an image
staged for a stage takes the place of the one in use if it verifies; a PCIe reset holds the main side in reset until it ends. R367, R386, R421, R422: the security core measures the device kernel and
starts Prefect 0 in ASN 0, or start-up fails; a missing READY, one with a status, or a Prefect that has halted makes Prefect 0 report the failing clusters; IOCFG.GO
starts the bring-up of the ports it names, which end it one by one, by themselves or after one second; a drive that comes up has min(80, its limit) queue pairs of depth min(256, its maximum). What a
warm reset keeps beyond R441 is the model's reading (log 70, DEDUCED), as are PREFECT0_START's arguments and who speaks for a halted Prefect 0 (log 71), and GO clearing failure bits (log 55); which site is
named (log 84) is a DESIGN CHOICE, the images a device is made with are free (log 101, DESIGN CHOICE), and the admin commands of bring-up come from NVMe (log 98, PRESUMED). -/
def Obligations.ResetsAndStartUp : Prop :=
  (∀ (s : State) (i : Instr),
  let o := s.arg.start
  let warm := i = .warmReset ∧ s.arg.id ≠ 2 ∧ (s.arg.id ≠ 1 ∨ ∃ t, s.hub.resetAt = some t ∧ t ≤ s.clock)
  let aux := i = .auxPowerReset
  let kept := fun (n : Nvm) => (n.training.map fun x => toBytes 8 x.toNat).flatten
  let restored := warm ∧ s.nvm.training ≠ [] ∧ Crypto.crc32c (kept s.nvm) = s.nvm.crc
  let failing := (s.arg.nums.filter (4608 ≤ ·)).map (· - 4608)
  let trained := o.trainOk = true ∨ restored ∧ failing = []
  let site := s.nvm.repairs.find? fun e => e.state == 0 && (e.kind == 3 || e.kind == 4)
  let spares := o.sparesOk = true ∨ site = none
  let ends := fun (r : State → Prop) => ∃ u, exec i s = .next u ∧ r u
  let fails := fun (step code : Nat) (out : List Emit) => ends fun u => u.hub.step = step ∧ u.hub.fail = true ∧ u.hub.failcode = code ∧ u.hub.ready = false ∧ ∃ pre, u.out = pre ++ out
  let zero := List.replicate 32 (0 : Byte)
  let starts := fun m => m < 3 ∧ (aux ∨ m = 2)
  let inUse := (fun m => (s.nvm.images.get none m).getD (Config.madeWith m) : Nat → List Byte)
  let runs := fun m => if s.arg.ok then (s.nvm.staged.get none m).getD (inUse m) else inUse m
  let hashed := fun (bs : List Byte) => Crypto.sha256 (zero ++ Crypto.sha256 bs)
  let told := fun (code : Nat) => ({ kind := 0, port := 1, bytes := [BitVec.ofNat 8 code] } : Emit)
  (aux ∨ warm → o.sigOk = false → fails 1 1 [told 1]) ∧
  (aux ∨ warm → o.sigOk = true → ¬ trained → fails 2 2 [told 2]) ∧
  (aux ∨ warm → o.sigOk = true → trained → o.linksOk = false → fails 3 5 [told 5]) ∧
  (∀ e, aux ∨ warm → o.sigOk = true → trained → o.linksOk = true → o.sparesOk = false → site = some e → fails 4 3 [told 3, { kind := 0, port := 6, bytes := e.code }]) ∧
  (aux ∨ warm → 2 ≤ s.meas.length → o.sigOk = true → trained → o.linksOk = true → spares → ends fun u => u.hub.step = 5 ∧ u.hub.fail = false ∧ u.hub.ready = false ∧
    (u.hub.warm = true ↔ warm) ∧ u.hub.inReset = false ∧ u.clock = s.clock ∧
    (∀ m, starts m → u.nvm.staged.get none m = none ∧ (u.nvm.images.get none m).getD (Config.madeWith m) = runs m) ∧
    (∀ m, ¬ starts m → u.nvm.staged.get none m = s.nvm.staged.get none m ∧ u.nvm.images.get none m = s.nvm.images.get none m) ∧
    (∀ m b, starts m → s.nvm.staged.get none m = some b → s.arg.ok = false → ({ kind := 0, port := 5, bytes := [BitVec.ofNat 8 m] } : Emit) ∈ u.out) ∧
    u.nvm.crc = Crypto.crc32c (kept u.nvm) ∧ (restored → u.nvm.training.length = s.nvm.training.length ∧ ∀ i, i / 64 ∉ failing → u.nvm.training[i]? = s.nvm.training[i]?) ∧
    (¬ restored → u.nvm.training.length = 512 * 64) ∧
    (s.arg.nums = [] → ∀ e ∈ u.nvm.repairs, ∃ d ∈ s.nvm.repairs, e = if d.state = 0 then { d with state := 1 } else d) ∧
    (∀ k e, s.nvm.repairs[k]? = some e → e.kind = 1 → e.state = 0 → k ∈ s.arg.nums → ∀ f ∈ Config.rowFrames e.rowNo, f.val ∈ u.nvm.retired ∨ ∃ x ∈ u.nvm.repairs, x.kind = 5 ∧ x.row = f.val) ∧
    (∀ e ∈ s.nvm.repairs, e.state = 0 → e.kind = 3 ∨ e.kind = 4 → (e.kind, e.unit, e.place) ∈ u.nvm.sites) ∧
    (∀ a, a < 2 ^ 50 ∨ 2 ^ 60 ≤ a → u.mem.get 0 a = 0) ∧ (∀ a, 2 ^ 50 ≤ a → a < 2 ^ 60 → u.mem.get 0 a = s.mem.get 0 a) ∧
    u.g = State.reset.g ∧ u.grids = [] ∧ u.teams = [] ∧ u.accs = [] ∧ u.worlds = State.reset.worlds ∧ u.keys = [] ∧ u.bufs = [] ∧
    u.meas.getD 3 zero = zero ∧ u.meas.getD 2 zero = hashed (runs 2) ∧ u.meas.getD 4 zero = hashed (kept u.nvm ++ (u.nvm.repairs.map Repair.code).flatten) ∧
    (aux → u.meas.getD 0 zero = hashed (runs 0) ∧ u.meas.getD 1 zero = hashed (runs 1) ∧ u.errUE = [] ∧ u.errCE = [] ∧
      u.others = State.reset.others) ∧
    (warm → u.meas.getD 0 zero = s.meas.getD 0 zero ∧ u.meas.getD 1 zero = s.meas.getD 1 zero ∧ u.errUE = s.errUE ∧ u.errCE = s.errCE ∧
      ∀ c, s.ctx? .secure = some c → u.ctx? .secure = some c)) ∧
  (i = .warmReset → s.arg.id = 2 → ends fun u => u.hub.inReset = true ∧ u.hub.step = 0 ∧ u.hub.ready = false ∧ u.nvm = s.nvm ∧ u.grids = [] ∧ u.teams = [] ∧ u.errUE = s.errUE ∧ u.errCE = s.errCE) ∧
  (i = .warmReset → s.arg.id = 1 → s.hub.resetAt = none ∨ (∃ t, s.hub.resetAt = some t ∧ s.clock < t) → exec i s = .next s)) ∧
  (∀ (s : State) (g : Ctx) (b : Nat) (op : List Byte),
  let h := s.hub
  let p := s.arg.id
  let ok := s.arg.ok
  let at_ := s.arg.nums.getD 0 0
  let todo := h.todo.filter (· != p)
  let ports := (List.range 8).filter (fun i => s.arg.x.testBit i) ++ ((List.range 8).filter (fun i => s.arg.x.testBit (8 + i))).map (· + 8)
  let pairs := min 80 (s.arg.nums.getD 0 1)
  let depth := min 256 (s.arg.nums.getD 1 2)
  let late := decide (b + 1250000000 ≤ s.clock)
  let halted := fun (c : Nat) => ((s.ctx? (.prefect c)).map (·.sched.escalated)).getD false
  let bad := (List.range 80).filter fun c => halted c || match s.kernel.ready.find? (·.1 == c) with | some e => e.2 != 0 | none => late && c != 0
  let done := fun (i : Instr) (ok : Bool) (out : List Emit) (hb : Hub) => exec i s = .next { s with
    iocmds := if ok ∧ 8 ≤ p then s.iocmds.filter (fun c => c.cls == 0 || c.port != p - 8) else s.iocmds,
    out := s.out ++ out, hub := { hb with
    todo := todo, go := !todo.isEmpty, up := if ok then h.up ++ [p] else h.up
    nfail := if !ok ∧ p < 8 then h.nfail ||| 2 ^ p else h.nfail, efail := if !ok ∧ 8 ≤ p then h.efail ||| 2 ^ (p - 8) else h.efail } }
  let start := s.ctx? (.prefect 0) = some g ∧ g.sched.held = true ∧ h.step = 5 ∧ h.fail = false
  (start → ok = true → s.poison = [] → at_ + s.arg.bytes.length ≤ Config.reservedBase → s.g.ids.ref = .prefect 0 → ∃ u, exec .prefect0Start s = .next u ∧
    u.g.sched.held = false ∧ u.g.flow.pc = s.arg.x % 2 ^ 56 ∧ u.g.ids.world = 0 ∧ u.g.ids.asn = 0 ∧ u.mem.readB at_ s.arg.bytes.length = s.arg.bytes ∧
    u.hub.secring = s.arg.units ∧ u.hub.bootAt = some s.clock ∧ u.meas = s.meas.modify 3 (fun m => Crypto.sha256 (m ++ Crypto.sha256 s.arg.bytes)) ∧
    u.roots.get 0 0 = BitVec.ofNat 64 (s.arg.nums.getD 1 0)) ∧
  (start → ok = false → ∃ u, exec .prefect0Start s = .next u ∧ u.hub.fail = true ∧ u.hub.failcode = 1 ∧ u.g = s.g ∧ u.mem = s.mem) ∧
  (s.ctx? (.prefect 0) = some g → g.sched.held = false ∨ h.step ≠ 5 ∨ h.fail = true → exec .prefect0Start s = .next s) ∧
  (h.bootAt = some b → h.ready = false → bad ≠ [] → 0 ∉ bad → s.mailRoom 254 false = true → op = toBytes 8 1 ++ toBytes 10 ((bad.map (2 ^ ·)).sum) →
    exec .bootTimeout s = .next { s with hub := { h with bootAt := none }, nextId := s.nextId + 1, wires := s.wires ++
      [{ id := s.nextId, src := 0, dst := 254, mgmt := false, due := s.clock + 180, bytes := toBytes 2 0x200 ++ List.replicate 6 0 ++ toBytes 8 (s.kernelWit 0).toNat ++ op ++ List.replicate 30 0 }] }) ∧
  (h.bootAt = some b → h.ready = false → 0 ∈ bad → exec .bootTimeout s = .next { s with
    hub := { h with bootAt := none, fail := true, failcode := 4 }
    out := s.out ++ [{ kind := 0, port := 1, bytes := [4] }, { kind := 0, port := 4, bytes := toBytes 10 ((bad.map (2 ^ ·)).sum) }] }) ∧
  (h.bootAt = some b → h.ready = true ∨ bad = [] → exec .bootTimeout s = .next s) ∧
  (h.ready = false → h.go = false → ∃ u, exec .iocfgGo s = .next u ∧ u.hub.todo = ports ∧ u.hub.go = !ports.isEmpty ∧ u.hub.goAt = s.clock ∧ u.hub.nports = s.arg.x % 2 ^ 8 ∧
    u.hub.eports = s.arg.x / 2 ^ 8 % 2 ^ 8 ∧ (∀ p ∈ ports, p ∉ u.hub.up) ∧ (∀ k, k < 8 → u.hub.nfail.testBit k = (h.nfail.testBit k && !s.arg.x.testBit k)) ∧ u.mem = s.mem) ∧
  (h.ready = true ∨ h.go = true → exec .iocfgGo s = .next { s with hub := { h with nports := s.arg.x % 2 ^ 8, eports := s.arg.x / 2 ^ 8 % 2 ^ 8 } }) ∧
  (h.go = true → p ∈ h.todo → s.clock ≤ h.goAt + 1250000000 → ok = false ∨ 8 ≤ p → done .portBringupDone ok [] h) ∧
  (h.go = true → p ∈ h.todo → s.clock ≤ h.goAt + 1250000000 → ok = true → p < 8 → done .portBringupDone true
    ((nvmeBringUp (s.arg.nums.drop 2) pairs depth).map fun bytes => { kind := 11, port := p, bytes := bytes })
    { h with pairs := SMap.set 0 h.pairs p pairs, depth := SMap.set 0 h.depth p depth }) ∧
  (h.go = true → p ∈ h.todo → h.goAt + 1250000000 < s.clock → done .portBringupTimeout false [] h ∧ exec .portBringupDone s = .next s) ∧
  (h.go = true → p ∈ h.todo → s.clock ≤ h.goAt + 1250000000 → exec .portBringupTimeout s = .next s))

/-- R366, R443, R444, R446: the management block acts on a REPORT, forwards a NOTE, announces a warm reset and a new power cap to every Prefect; the PLDM functions; a sag skips clock edges in steps of one
eighth up to four, the cap is evaluated each millisecond. R441: a REPORT of success completes step 6 and then step 7, unless start-up has failed. Sensor 0 for DEVSTAT and 1 to 13 for the
error counters is the model's reading (log 54, DEDUCED); the fraction that a cap skips, one to four eighths, is left free (log 84, DESIGN CHOICE). -/
def Obligations.Management : Prop := ∀ (s : State) (src b : Nat) (m : List Byte) (rest : List (Nat × List Byte)),
  let h := s.hub
  let p := s.power
  let c := s.arg.id
  let typ := field m 0 2
  let code := field m 16 4
  let oldest := h.inbound = (src, m) :: rest
  let tell := fun (typ : Nat) (bs : List Byte) (k : Nat) => ({
    id := s.nextId + k, src := 254, dst := k, mgmt := true, due := s.clock + 180
    bytes := toBytes 2 typ ++ [0xFE, 0] ++ List.replicate 12 0 ++ bs ++ List.replicate (48 - bs.length) 0 } : Wire)
  let sends := fun (i : Instr) (r : State → Prop) (typ : Nat) (bs : List Byte) => ∃ u, exec i s = .next u ∧ r u ∧ u.mem = s.mem ∧ u.g = s.g ∧
    u.wires = s.wires ++ (List.range 80).map (tell typ bs)
  let k := p.skip.get 0 c
  let power := fun (i : Instr) (sag : Bool) (k n : Nat) => ∃ u, exec i s = .next u ∧ u.power.sag.get false c = sag ∧ u.power.skip.get 0 c = k ∧ u.power.next.get 0 c = n ∧
    (∀ d, d ≠ c → u.power.skip.get 0 d = p.skip.get 0 d ∧ u.power.sag.get false d = p.sag.get false d) ∧ u.g = s.g ∧ u.mem = s.mem
  let cap := max 1000 (min 2800 (s.arg.x % 2 ^ 16))
  (oldest → typ = 0x200 → src = 0 → code = 0 → h.fail = true → exec .report s = .next { s with hub := { h with inbound := rest } }) ∧
  (oldest → typ = 0x200 → src = 0 → code = 0 → h.fail = false → h.step < 6 → exec .report s = .next { s with hub := { h with step := 6 } }) ∧
  (oldest → typ = 0x200 → src = 0 → code = 0 → h.fail = false → 6 ≤ h.step →
    exec .report s = .next { s with hub := { h with inbound := rest, ready := true, step := 7, bootAt := none } }) ∧
  (oldest → typ = 0x200 → src = 0 → code = 1 → ∃ u, exec .report s = .next u ∧ u.hub.fail = true ∧ u.hub.failcode = 4 ∧ u.hub.ready = false ∧ u.hub.inbound = rest ∧
    u.out = s.out ++ [{ kind := 0, port := 1, bytes := [4] }, { kind := 0, port := 4, bytes := (m.drop 24).take 10 }]) ∧
  (oldest → typ = 0x200 → src ≠ 0 ∨ 1 < code → exec .report s = .next { s with hub := { h with inbound := rest } }) ∧
  (oldest → typ = 0x201 → exec .note s = .next { s with hub := { h with inbound := rest }, out := s.out ++
    [{ kind := 0, port := 3, bytes := (m.drop 16).take 4 ++ (m.drop 24).take 8 }] }) ∧
  (oldest → typ ≠ 0x201 → typ ≠ 0x200 → exec .note s = .next { s with hub := { h with inbound := rest } }) ∧
  (h.resetAsked = true → sends .resetpend (fun u => u.hub = { h with resetAsked := false, resetAt := some (s.clock + 1250000) }) 0x300 (toBytes 8 1250000)) ∧
  (h.resetAsked = false → exec .resetpend s = .next s) ∧
  (h.announce = some b → sends .capset (fun u => u.hub = { h with announce := none }) 0x301 (toBytes 4 b)) ∧
  (exec .pldmSetPowerCap s = .next { s with hub := { h with pwrcap := cap, announce := some cap } }) ∧
  (h.inReset = false → h.resetAt = none → exec .pldmWarmReset s = .next { s with hub := { h with resetAsked := true } }) ∧
  (h.inReset = true ∨ (∃ t, h.resetAt = some t) → exec .pldmWarmReset s = .next s) ∧
  (c < 3 → exec .pldmFirmwareUpdate s = .next { s with nvm := { s.nvm with staged := SMap.set none s.nvm.staged c (some s.arg.bytes) } }) ∧
  (3 ≤ c → exec .pldmFirmwareUpdate s = .next s) ∧
  (c = 0 → exec .pldmGetSensor s = .next { s with out := s.out ++ [{ kind := 1, bytes := toBytes 4 h.devstat }] }) ∧
  (1 ≤ c → c ≤ 13 → exec .pldmGetSensor s = .next { s with out := s.out ++ [{ kind := 1, bytes := toBytes 8 (s.errCE.get 0 (c - 1) + 2 ^ 32 * s.errUE.get 0 (c - 1)) }] }) ∧
  (13 < c → ∃ x, exec .pldmGetSensor s = .next { s with out := s.out ++ [{ kind := 1, bytes := toBytes 4 x }] }) ∧
  (c < 80 → p.sag.get false c = false → power .supplySag true (max 1 k) (s.clock + 64)) ∧
  (p.sag.get false c = true → power .supplyRecovers false k (s.clock + 64)) ∧
  (k ≠ 0 → p.next.get 0 c ≤ s.clock → power .sagSkipStep (p.sag.get false c) (if p.sag.get false c then min 4 (k + 1) else k - 1) (s.clock + 64)) ∧
  (p.evalAt + 1250000 ≤ s.clock → ∃ x, (h.pwrcap < s.arg.x → 1 ≤ x ∧ x ≤ 4) ∧ (s.arg.x ≤ h.pwrcap → x = 0) ∧
    exec .powerCapEval s = .next { s with power := { p with capSkip := x, evalAt := s.clock }, hub := { h with cap := x != 0 } }) ∧
  (s.clock < p.evalAt + 1250000 → exec .powerCapEval s = .next s)

/-! ### The device kernel -/

/-- R368, R375 to R377, R447, R451, R456, R457: the kernel calls. A Prefect serves a CALL message or a record of its queue, by the shard that owns the resource, else it forwards the call; every lane of a record is
answered or begun once and its calls are served lowest lane first; ALLOC packs the slices of a batch, FREE returns one, OPEN and CLOSE manage descriptors, READ and WRITE move a file's bytes by NVMe commands,
sockets send. What a failed call's value is stays open (log 80), and so does the order in which a kernel turns to its work (log 81). That freed ranges are not merged and EINVAL comes first (log 61) and
which bytes of a caller are checked (log 63) are readings (DEDUCED); the length of a path, the slots and the error numbers come from POSIX (log 62, PRESUMED); the frame, the direct form and the commands of a
READ or WRITE are the model's choice (log 99). -/
def Obligations.KernelCalls : Prop := ∀ (s s1 t : State) (c : Call) (r : TrapRec) (h : Heap) (path bs e : List Byte) (fl : FileRec) (d : Fd) (j : Job),
  let p := s.arg.id
  let k := s.kernel
  let mailed := fun (code : Nat) => s.takeMail p fun b => field b 0 2 == 0x0100 && field b 0x1C 2 == code
  let oldest := fun (code : Nat) (r : TrapRec) => mailed code = none ∧ s.recordAt p (·.calls code) = some r
  let arg := fun (r : TrapRec) (l i : Nat) => (r.body.getD (4 * l + i) 0).toNat
  let fst := fun (r : TrapRec) => (lanes r.mask).headD 0
  let equal := fun (r : TrapRec) (l m n : Nat) => (List.range n).all fun i => arg r l i == arg r m i
  let same := fun (code : Nat) (r : TrapRec) (l m : Nat) => l == m || code == 0x11 && equal r l m 2 || [0x20, 0x22, 0x30].contains code && equal r l m 4
  let oneCall := fun (code : Nat) (r : TrapRec) => ∃ l, l ∈ lanes r.mask ∧ ∀ m ∈ lanes r.mask, same code r l m = true
  let shard := fun (code : Nat) (r : TrapRec) => let x := arg r (fst r) 0
    if code = 0x10 ∨ code = 0x11 then some (r.asn % 80)
    else if code = 0x20 then (match (s.takeRecord p r).readPath (r.call (r.core / 16) [fst r]) 4096 x with | .ok (_, bs) => some ((Crypto.crc32c bs).toNat % 80) | .error _ => none)
    else if code = 0x30 then (if x < 2 ^ 16 then some (x % 80) else none)
    else if x < 2 ^ 32 ∧ x / 2 ^ 12 % 2 ^ 12 = r.asn ∧ x / 2 ^ 24 ≤ 79 then some (x / 2 ^ 24) else none
  let calls : List (Instr × Nat) := [(.callAlloc, 0x11), (.callFree, 0x10), (.callOpen, 0x20), (.callClose, 0x21), (.callRead, 0x22), (.callWrite, 0x23),
    (.callSocket, 0x30), (.callSend, 0x31), (.callRecv, 0x32)]
  let moving := fun (w : Bool) (s : State) => s.jobDue p fun j => j.write == w && j.fill.isNone
  let turns := fun (i : Instr) (s : State) => (i = .callRead → moving false s = none) ∧ (i = .callWrite → moving true s = none) ∧ (i = .callRecv → s.arg.bytes = [])
  let comes := fun (code : Nat) => c.owner = p ∧ c.code = code ∧ ((∃ m, mailed code = some (s1, m) ∧ c = s1.callOf p m) ∨
    ∃ r, oldest code r ∧ oneCall code r ∧ (shard code r).getD p = p ∧ s1 = s.takeRecord p r ∧ c = r.call p (lanes r.mask))
  let answered := fun (i : Instr) (rows : List (Nat × Nat × Nat)) (q : State → Prop) => ∃ u, exec i s = .next u ∧ u.prefs = s1.prefs ∧
    u.kernel.replies = k.replies ++ [{ call := c, rows := rows, wit := 0 }] ∧ q u
  let ok := fun (i : Instr) (v : Nat) (q : State → Prop) => answered i (c.lanes.map fun l => (l, v, 0)) q
  let fails := fun (i : Instr) (st : Nat) => ∃ v, answered i (c.lanes.map fun l => (l, v, st)) fun u => u.mem = s.mem ∧ u.kernel.fds = k.fds ∧ u.kernel.heaps = k.heaps ∧
    u.kernel.files = k.files ∧ u.kernel.jobs = k.jobs
  let x := fun i => c.args.getD i 0
  let n := c.lanes.length
  let al := if x 1 = 0 then 16 else x 1
  let sized := 0 < x 0 ∧ x 0 ≤ 2 ^ 32 ∧ ∃ i, 4 ≤ i ∧ i ≤ 16 ∧ al = 2 ^ i
  let z := roundUp (x 0) al
  let heap := k.heaps.get none c.asn
  let slices := fun (start i : Nat) (h' : Heap) => answered .callAlloc (c.lanes.zipIdx.map fun (m, j) => if j < i then (m, start + j * z, 0) else (m, 0, 12)) fun u =>
    u.kernel.heaps.get none c.asn = some { h' with slices := h.slices ++ (List.range i).map fun j => (start + j * z, z) }
  let fits := fun (e : Nat × Nat) => e ∈ h.freed ∧ roundUp e.1 al + n * z ≤ e.1 + e.2
  let top := roundUp h.top al
  let granted := if h.base + h.limit < top then 0 else min n ((h.base + h.limit - top) / z)
  let still := t = { s1 with tlb := t.tlb }
  let named := s1.readPath c 4096 (x 0) = .ok (t, path) ∧ still
  let used := fun (slot : Nat) => ∃ d ∈ k.fds, d.shard = p ∧ d.slot = slot
  let opens := fun (i : Instr) (what : FdWhat) (q : State → Prop) => ∀ slot, slot < 4096 → ¬ used slot → (∀ i, i < slot → used i) → ok i (p * 2 ^ 24 + c.asn * 2 ^ 12 + slot) fun u =>
    u.kernel.fds = k.fds ++ [{ shard := p, asn := c.asn, slot := slot, what := what }] ∧ q u
  let full := ∀ slot, slot < 4096 → used slot
  let file := fun (path : List Byte) => k.files.find? (fun f => f.path == path)
  let denied := fl.world ≠ 0 ∧ fl.world ≠ c.world ∨ x 1 ≠ 0 ∧ fl.readOnly = true
  let fd := k.fds.find? (fun d => d.shard * 2 ^ 24 + d.asn * 2 ^ 12 + d.slot == x 0 && d.shard == p && d.asn == c.asn)
  let reach := fun (n : Nat) (a : AccKind) => if 2 ^ 56 < x 1 + n then some 14
    else match s1.engPages p c.asn 0 a (pagesOf [(x 1, n)]) with
      | .error (y, _) => some (if y = 0x14 ∨ y = 0x15 then 13 else 14)
      | .ok _ => none
  let left := min (x 2) (fl.data.length - x 3)
  let begun := fun (i : Instr) (write : Bool) (n : Nat) => let z := lbaSize fl.port
    ∃ u, exec i s = .next u ∧ u.prefs = s1.prefs ∧ u.mem = s.mem ∧ u.kernel.replies = k.replies ∧ u.kernel.jobs = k.jobs ++ [{
      id := s.nextId, call := c, write := write, path := path, ofs := x 3, len := n, va := x 1, direct := x 1 % 4 == 0 && x 3 % z == 0 && x 2 % z == 0, frame := s.arg.x }]
  let due := fun (i : Instr) => i = (if j.write then .callWrite else .callRead) ∧ moving j.write s = some j
  let piece := j.piece (lbaSize fl.port)
  let at_ := piece.1
  let len := piece.2.1
  let base := piece.2.2
  let outward := j.write && (j.direct || j.back)
  let cmd : IoCmd := {
    id := s.nextId, pref := p, port := fl.port, cls := 0, wit := s.kernelWit p, job := some j.id
    desc := layout 64 [(0, 1, if outward then 1 else 2), (2, 2, s.nextId), (4, 4, fl.nsid), (24, 8, if j.direct then j.va + j.done else 2 ^ 55 + j.frame * 2 ^ 16),
      (40, 8, fl.lba + base / lbaSize fl.port), (48, 2, ceilDiv (at_ + len - base) (lbaSize fl.port) - 1)] }
  let put := fun (j' : Job) => k.jobs.map fun x => if x.id = j.id then j' else x
  let sent : State := { s with nextId := s.nextId + 1, kernel := { k with jobs := put { j with cmd := some s.nextId } } }
  let s2 := s.modPref p fun q => { q with completions := q.completions.erase e }
  let came := j.call.owner = p ∧ file j.path = some fl ∧ s.jobEntry j = some e
  let ends := fun (i : Instr) (st : Nat) => ∃ u v, exec i s = .next u ∧ u.mem = s.mem ∧ u.kernel.jobs = k.jobs.filter (·.id != j.id) ∧
    u.kernel.replies = k.replies ++ [{ call := j.call, rows := j.call.lanes.map fun l => (l, v, st), wit := j.wit }]
  let moves := fun (i : Instr) (w : DWord) (t : State) => ∃ u, exec i s = .next u ∧ u.mem = t.mem ∧
    let w' := mergeWit t.now j.wit w
    (j.done + len < j.len → u.kernel.replies = k.replies ∧ u.kernel.jobs = put { j with done := j.done + len, cmd := none, back := false, wit := w' }) ∧
    (j.len ≤ j.done + len → u.kernel.jobs = k.jobs.filter (·.id != j.id) ∧
      u.kernel.replies = k.replies ++ [{ call := j.call, rows := j.call.lanes.map fun l => (l, j.len, 0), wit := w' }])
  let wit := BitVec.ofNat 64 (field e 16 8)
  let here := j.frame * 2 ^ 16 + (at_ - base)
  -- records and their calls
  (∀ i code, (i, code) ∈ calls → turns i s → oldest code r → exec i s = .next s ∨ ∃ u rs ns js vs, exec i s = .next u ∧ (u.pref p).trapq = (s.pref p).trapq.erase r ∧
    u.kernel.replies = k.replies ++ rs ∧ u.kernel.sent = k.sent ++ ns ∧ u.kernel.jobs = k.jobs ++ js ∧ u.kernel.recvs = k.recvs ++ vs ∧
    ((rs.map (·.rows)).flatten.map (·.1) ++ (ns.map (·.call.lanes)).flatten ++ (js.map (·.call.lanes)).flatten ++ (vs.map (·.call.lanes)).flatten).Perm (lanes r.mask)) ∧
  (∀ i code pre post l u v, (i, code) ∈ calls → turns i s → turns i u → mailed code = none → (s.pref p).trapq = pre ++ r :: post → (∀ x ∈ pre, x.calls code = false) → r.calls code = true →
    lanes r.mask ≠ [] → l = fst r →
    let r1 := { r with mask := maskOf ((lanes r.mask).filter fun m => same code r l m) }
    let r2 := { r with mask := maskOf ((lanes r.mask).filter fun m => !same code r l m) }
    let s' := s.modPref p fun q => { q with trapq := pre ++ r1 :: post }
    let u' := u.modPref p fun q => { q with trapq := pre ++ r2 :: post }
    r2.mask ≠ 0 → exec i s' = .next u → (u.pref p).trapq = pre ++ post → exec i u' = .next v → (v.pref p).trapq = pre ++ post → exec i s = .next v) ∧
  (∀ i code q, (i, code) ∈ calls → turns i s → oldest code r → oneCall code r → shard code r = some q → q ≠ p → s.mailRoom q false = true → exec i s = .next { s.takeRecord p r with
    nextId := s.nextId + 2, kernel := { k with sent := k.sent ++ [{ pref := p, tag := s.nextId % 2 ^ 32, call := r.call q (lanes r.mask), va := r.va }] }
    wires := s.wires ++ [{ id := s.nextId + 1, src := p, dst := q, mgmt := false, due := s.clock + (if p / 10 = q / 10 then 60 else 180)
                           bytes := toBytes 2 0x100 ++ toBytes 1 p ++ [0] ++ toBytes 4 (s.nextId % 2 ^ 32) ++ toBytes 8 (mkWit { scope := 2, id := p } s.now).toNat ++
                             toBytes 8 r.handle.toNat ++ toBytes 4 r.mask.toNat ++ toBytes 4 code ++ ((List.range 4).map fun i => toBytes 8 (arg r (fst r) i)).flatten }] }) ∧
  (∀ i code q, (i, code) ∈ calls → turns i s → oldest code r → oneCall code r → shard code r = some q → q ≠ p → s.mailRoom q false = false → exec i s = .next s) ∧
  (∀ m code, mailed code = some (s1, m) → code ∈ [0x21, 0x22, 0x23, 0x31, 0x32] → (s1.callOf p m).asn = field m 0x20 8 / 2 ^ 12 % 2 ^ 12) ∧
  -- the heap
  (comes 0x11 → sized → heap = some h → (∀ e, ¬ fits e) → slices top granted { h with top := if granted = 0 then h.top else top + granted * z }) ∧
  (∀ b i, comes 0x11 → sized → heap = some h → fits (b, i) → (∀ e, fits e → e = (b, i) ∨ b < e.1) → let a := roundUp b al
    slices a n { h with freed := h.freed.erase (b, i) ++ [(b, a - b), (a + n * z, b + i - (a + n * z))].filter (·.2 != 0) }) ∧
  (comes 0x11 → sized → heap = none → answered .callAlloc (c.lanes.map fun m => (m, 0, 12)) fun u => u.kernel.heaps = k.heaps) ∧
  (comes 0x11 → ¬ sized → fails .callAlloc 22) ∧
  (∀ i, comes 0x10 → heap = some h → h.slices.find? (fun e => e.1 == x 0) = some (x 0, i) → ok .callFree 0 fun u =>
    u.kernel.heaps.get none c.asn = some { h with slices := h.slices.erase (x 0, i), freed := h.freed ++ [(x 0, i)] }) ∧
  (comes 0x10 → heap = none ∨ heap = some h ∧ (∀ e ∈ h.slices, e.1 ≠ x 0) → fails .callFree 22) ∧
  -- descriptors
  (comes 0x20 → x 1 ≤ 2 → named → file path = some fl → ¬ denied → opens .callOpen (.file path (x 1 != 0)) fun u => u.kernel.files = k.files) ∧
  (comes 0x20 → x 1 = 2 → named → file path = none → opens .callOpen (.file path true) fun u => ∃ port lba,
    u.kernel.files = k.files ++ [{ path := path, world := c.world, port := port, lba := lba }]) ∧
  (comes 0x20 → x 1 < 2 → named → file path = none → fails .callOpen 2) ∧ (comes 0x20 → x 1 ≤ 2 → named → file path = some fl → denied → fails .callOpen 13) ∧
  (comes 0x20 → 2 < x 1 → fails .callOpen 22) ∧ (∀ y, comes 0x20 → x 1 ≤ 2 → s1.readPath c 4096 (x 0) = .error y → fails .callOpen y) ∧
  (comes 0x20 → x 1 ≤ 2 → named → file path = some fl → ¬ denied → full → fails .callOpen 12) ∧
  (comes 0x21 → fd = some d → ok .callClose 0 fun u => u.kernel.fds = k.fds.erase d) ∧
  (comes 0x30 → x 0 < 2 ^ 16 → x 1 = 17 → opens .callSocket (.sock (x 0)) fun u => u.kernel.files = k.files) ∧
  (comes 0x30 → x 0 < 2 ^ 16 → x 1 = 17 → full → fails .callSocket 12) ∧
  (comes 0x30 → 2 ^ 16 ≤ x 0 ∨ x 1 ≠ 17 → fails .callSocket 22) ∧
  (∀ i code, (i, code) ∈ [(Instr.callClose, 0x21), (.callRead, 0x22), (.callWrite, 0x23), (.callSend, 0x31), (.callRecv, 0x32)] → turns i s → comes code →
    fd = none ∨ (∃ port, fd = some d ∧ d.what = .sock port ∧ code ∈ [0x22, 0x23]) ∨ (∃ path w, fd = some d ∧ d.what = .file path w ∧ code ∈ [0x31, 0x32]) → fails i 9) ∧
  (∀ port, comes 0x31 → fd = some d → d.what = .sock port → x 2 ≤ 9000 → reach (x 2) .load = none → s1.readVa p c.asn 0 (x 1) (x 2) = some (t, bs, false) → still →
    ok .callSend bs.length fun u => u.out = s.out ++ [{ kind := 8, port := port, bytes := toBytes 6 (x 3) ++ bs }] ∧ u.mem = s.mem) ∧
  (∀ port y, comes 0x31 → fd = some d → d.what = .sock port → x 2 ≤ 9000 → reach (x 2) .load = some y → fails .callSend y) ∧
  (∀ port, comes 0x31 → fd = some d → d.what = .sock port → 9000 < x 2 → fails .callSend 22) ∧
  (∀ port, turns .callRecv s → comes 0x32 → fd = some d → d.what = .sock port → ∃ u, exec .callRecv s = .next u ∧ u.prefs = s1.prefs ∧ u.mem = s.mem ∧ u.kernel.replies = k.replies ∧
    u.kernel.recvs = k.recvs ++ [{ call := c, until_ := if x 3 = 0 then none else some (s.clock + x 3) }]) ∧
  -- READ and WRITE begin
  (∀ w, turns .callRead s → comes 0x22 → fd = some d → d.what = .file path w → file path = none → fails .callRead 2) ∧
  (turns .callWrite s → comes 0x23 → fd = some d → d.what = .file path true → file path = none → reach (x 2) .load = none → fails .callWrite 2) ∧
  (∀ w, turns .callRead s → comes 0x22 → fd = some d → d.what = .file path w → file path = some fl → reach left .store = none → left ≠ 0 → begun .callRead false left) ∧
  (∀ w, turns .callRead s → comes 0x22 → fd = some d → d.what = .file path w → file path = some fl → reach left .store = none → left = 0 → ok .callRead 0 fun u => u.mem = s.mem) ∧
  (∀ w y, turns .callRead s → comes 0x22 → fd = some d → d.what = .file path w → file path = some fl → reach left .store = some y → fails .callRead y) ∧
  (turns .callWrite s → comes 0x23 → fd = some d → d.what = .file path true → file path = some fl → reach (x 2) .load = none → s.arg.ok = true → x 2 ≠ 0 → begun .callWrite true (x 2)) ∧
  (turns .callWrite s → comes 0x23 → fd = some d → d.what = .file path true → file path = some fl → reach (x 2) .load = none → s.arg.ok = true → x 2 = 0 → ok .callWrite 0 fun u => u.mem = s.mem) ∧
  (turns .callWrite s → comes 0x23 → fd = some d → d.what = .file path true → file path = some fl → reach (x 2) .load = none → s.arg.ok = false → fails .callWrite 28) ∧
  (∀ y, turns .callWrite s → comes 0x23 → fd = some d → d.what = .file path true → reach (x 2) .load = some y → fails .callWrite y) ∧
  (turns .callWrite s → comes 0x23 → fd = some d → d.what = .file path false → fails .callWrite 13) ∧
  -- and go on
  (∀ pre post, moving j.write s = some j → j.cmd = none → k.jobs = pre ++ j :: post → (∀ x ∈ pre, x.id ≠ j.id) → ∀ x ∈ pre, x.path = j.path → x.write = false ∧ j.write = false) ∧
  (∀ i, due i → j.call.owner = p → file j.path = some fl → s.jobEntry j = none → j.direct = true → exec i s = .next (sent.enqueue p j.call.asn 0 cmd)) ∧
  (∀ i, due i → j.call.owner = p → file j.path = some fl → s.jobEntry j = none → j.direct = false → exec i s = .next { sent with iocmds := s.iocmds ++ [{ cmd with
    pages := [((2 ^ 55 + j.frame * 2 ^ 16) / 2 ^ 16, frameTr j.frame)], fail := if s.hub.up.contains fl.port then none else some 0x006 }] }) ∧
  (∀ i, due i → file j.path = none → ends i 2) ∧
  (∀ i, due i → came → field e 2 2 ≠ 0 → ends i (if field e 2 2 = 0x701 then 14 else 5)) ∧
  (∀ i, due i → came → field e 2 2 = 0 → j.direct = true ∨ j.back = true → moves i wit s) ∧
  (∀ i, due i → came → field e 2 2 = 0 → j.write = false → j.direct = false → j.back = false →
    s2.writeVa p j.call.asn 0 (j.va + j.done) (s.mem.readB here len) = some t → moves i (mergeWit t.now wit (mkWit { scope := 4, id := 0 } t.now)) t) ∧
  (∀ i, due i → came → field e 2 2 = 0 → j.write = false → j.direct = false → j.back = false → s2.writeVa p j.call.asn 0 (j.va + j.done) (s.mem.readB here len) = none → ends i 14) ∧
  (∀ i, due i → came → field e 2 2 = 0 → j.write = true → j.direct = false → j.back = false → s2.readVa p j.call.asn 0 (j.va + j.done) len = some (t, bs, false) →
    t = { s2 with tlb := t.tlb } → ∃ u, exec i s = .next u ∧ u.mem = (State.pokeAll t {} here bs).mem ∧ u.kernel.replies = k.replies ∧ u.kernel.jobs = put { j with cmd := none, back := true }) ∧
  (∀ i, due i → came → field e 2 2 = 0 → j.write = true → j.direct = false → j.back = false → s2.readVa p j.call.asn 0 (j.va + j.done) len = none → ends i 14)

/-- R336, R337, R354, R375, R377 to R381, R395, R454: RECV ends with a datagram or its timeout; an answer resumes the lanes it is for, of a resident or a saved group, or goes back in a REPLY, and a REPLY resumes the
lanes of the call it answers, once every lane of it has a result; an unknown call is answered ENOSYS; a FAULT record's page is populated, from a file by NVMe reads, and its access replayed, or its cause is delivered; the shard of
the context is asked for its regions; an ESCALATE record ends its grid by a kill block in the Prefect's C space; SLICE, FORCE and DEADLOCK records are answered by saves or by the hold's release; a saved group or team is loaded
again when its turn comes. A reply's witness (log 64), pages and frames (log 65), saves and restores (log 66) and the cut datagram (log 63) are readings (DEDUCED); how the kernel takes records, its private messages
and the cause of a page that the drive cannot deliver are the model's choice (log 81). -/
def Obligations.KernelServices : Prop := ∀ (s q t t' fs : State) (c : CtxRef) (g : Ctx) (r : TrapRec) (v : Recv) (y : Reply) (st : Sent) (m : List Byte) (e : LogEntry) (fx : Fix) (x : Grid) (at_ root old : Nat)
    (rd wr : Bool) (file : Option (List Byte × Nat)) (fl : FileRec) (j : Job) (ent : List Byte) (sv : Saved) (sg : Ctx) (off : Nat) (bs : List Byte) (bad : List Nat),
  let p := s.arg.id
  let k := s.kernel
  let clock := s.clock
  let oldest := fun (typs : List Nat) => s.recordAt p (fun r => typs.contains r.typ) = some r
  let s1 := s.takeRecord p r
  -- RECV
  let c1 := v.call
  let arg := fun i => c1.args.getD i 0
  let got := s.arg.bytes.take (arg 2)
  let heard := s.arg.bytes ≠ [] ∧ k.recvs.find? (fun v => s.recvPort v == some s.arg.x) = some v
  let gone : State := { s with kernel := { k with recvs := k.recvs.erase v } }
  let reach := if 2 ^ 56 < arg 1 + got.length then some 14
    else match gone.engPages c1.owner c1.asn 0 .store (pagesOf [(arg 1, got.length)]) with
      | .error (y, _) => some (if y = 0x14 ∨ y = 0x15 then 13 else 14)
      | .ok _ => none
  let recvEnds := fun (i : Instr) (n st : Nat) (w : DWord) (mem : Mem) => ∃ u, exec i s = .next u ∧ u.mem = mem ∧ u.kernel.recvs = k.recvs.erase v ∧
    u.kernel.replies = k.replies ++ [{ call := c1, rows := c1.lanes.map fun l => (l, n, st), wit := w }]
  -- answers
  let covers := mkWit { scope := 2, id := p } s.now
  let first := k.replies.find? (fun y => y.call.owner == p) = some y
  let answered : State := { s with kernel := { k with replies := k.replies.erase y } }
  let mask := maskOf (y.rows.map (·.1))
  let local_ := first ∧ y.call.back = none ∧ c = refOf y.call.handle.toNat
  let statuses := (y.rows.map (·.2.2)).eraseDups
  let reply := fun (asker tag n st : Nat) => let rs := y.rows.filter (·.2.2 == st); ({
    id := s.nextId + n, src := p, dst := asker, mgmt := false, due := clock + (if p / 10 = asker / 10 ∧ asker < 80 then 60 else 180)
    bytes := toBytes 2 0x101 ++ toBytes 1 p ++ [0] ++ toBytes 4 tag ++ toBytes 8 (mergeWit s.now covers y.wit).toNat ++ toBytes 8 y.call.handle.toNat ++
      toBytes 4 (maskOf (rs.map (·.1))).toNat ++ toBytes 4 st ++ toBytes 8 ((rs.map (·.2.1)).headD 0) ++ toBytes 2 y.call.asn ++ List.replicate 22 0 } : Wire)
  let room := fun (asker : Nat) => s.underWay asker false + (s.pref asker).mailbox.length + statuses.length ≤ 128
  let quiet := ∀ y ∈ k.replies, y.call.owner ≠ p
  let repliesTo := fun (b : List Byte) => field b 0 2 == 0x0101 && k.sent.any (fun v => v.pref == p && v.tag == field b 4 4)
  let replied := quiet ∧ s.takeMail p repliesTo = some (t, m) ∧ k.sent.find? (fun v => v.pref == p && v.tag == field m 4 4) = some st ∧ c = refOf st.call.handle.toNat
  let status := field m 0x1C 4
  let step := if st.call.code = 0x11 ∧ status = 0 then roundUp (st.call.args.getD 0 0) ((alignOf (st.call.args.getD 1 0)).getD 16) else 0
  let rows := st.got ++ (lanes (BitVec.ofNat 32 (field m 0x18 4))).zipIdx.map fun (l, j) => (l, field m 0x20 8 + j * step, status)
  let rwit := mergeWit s.now st.wit (BitVec.ofNat 64 (field m 8 8))
  let all := ∀ l ∈ st.call.lanes, ∃ e ∈ rows, e.1 = l
  let sentIs := fun (l : List Sent) => ({ t with kernel := { k with sent := l } } : State)
  let rmask := maskOf (rows.map (·.1))
  -- faults
  let goes := fun (x : Fix) => match x.stage with
    | .asked _ | .filling _ => false
    | .filled w => s.satisfied w { scope := 2, id := x.pref }
    | .failed => true
    | .sweeping ids => !s.using ids
  let settled := ∀ x ∈ k.fixes, x.pref = p → goes x = false
  let noFix := settled ∧ s.jobDue p (·.fill.isSome) = none
  let asks := fun (b : List Byte) => field b 0 2 == Config.askType.toNat
  let tells := fun (b : List Byte) => field b 0 2 == Config.tellType.toNat
  let noMail := ∀ b ∈ (s.pref p).mailbox, asks b = false ∧ tells b = false
  let own := noMail ∧ oldest [1] ∧ r.asn % 80 = p ∧ fs = s1
  let told := s.takeMail p asks = none ∧ s.takeMail p tells = some (t, m) ∧ k.fixes.find? (fun x => x.pref == p && x.stage == .asked (field m 4 4)) = some fx ∧ r = fx.rcd ∧
    fs = { t with kernel := { k with fixes := k.fixes.erase fx } }
  let fault := noFix ∧ (own ∨ told) ∧ c = refOf r.handle.toNat ∧ fs.ctx? c = some g ∧ fs.faultWaits g r.tag r.cmd = true
  let page := r.value.toNat
  let inHeap := ∃ h, k.heaps.get none r.asn = some h ∧ h.base ≤ page ∧ page < h.base + h.limit
  let region := k.regions.find? fun x => x.asn == r.asn && x.base ≤ page && page < x.base + x.len
  let unmapped := ¬ inHeap ∧ (region = none ∨ ∃ z, region = some z ∧ z.world ≠ r.world)
  let gives := inHeap ∧ rd = true ∧ wr = true ∧ file = none ∨ ¬ inHeap ∧ ∃ z, region = some z ∧ z.world = r.world ∧ rd = z.r ∧ wr = z.w ∧
    file = z.file.map fun (path, o) => (path, o + (page / 2 ^ 16 * 2 ^ 16 - z.base))
  let named := file.bind fun e => k.files.find? (·.path == e.1)
  let start := (file.map (·.2)).getD 0
  let inFile := named = some fl ∧ start < fl.data.length
  let zeros := named = none ∨ ∃ f, named = some f ∧ f.data.length ≤ start
  let lacks := (r.access ≠ 1 ∧ r.access ≠ 4 ∧ rd = false) ∨ (r.access ≠ 0 ∧ r.access ≠ 3 ∧ wr = false)
  let table := nextTable (s.roots.get 0 r.asn).toNat
  let found := table = some root ∧ fs.entryFor page 3 root s.arg.nums = some (q, at_) ∧ q.mem.readN at_ 8 = old
  let frame := s.arg.x
  let retired := (∃ x ∈ s.nvm.repairs, x.kind = 5 ∧ x.row = frame) ∨ frame ∈ s.nvm.retired
  let fails := fun (cause : Nat) => exec .faultService s = .next ((fs.recause c r.tag r.cmd cause).settleFault c r.tag r.cmd false)
  let entry := 3 + 4 * rd.toNat + 8 * wr.toNat + r.world * 2 ^ 8 + frame * 2 ^ 32
  let cleared := q.clearFrame frame
  let filled := cleared.poke {} at_ (toBytes 8 entry)
  let job : Job := { id := q.nextId, call := { owner := p, handle := r.handle, lanes := [], code := 0, args := [], asn := 0, world := 0 }, write := false, path := fl.path, ofs := start
                     len := min (2 ^ 16) (fl.data.length - start), va := 0, direct := start % lbaSize fl.port == 0, frame := s.arg.units.toNat, fill := some frame }
  let new := old ||| (4 * rd.toNat + 8 * wr.toNat)
  let raised := q.poke {} at_ (toBytes 8 new)
  let stale := fun (x : Tr) => x.covers r.asn page
  let apart := q.poison = [] ∧ at_ + 8 ≤ Config.reservedBase ∧ at_ % 8 = 0 ∧ (at_ + 8 ≤ frame * 2 ^ 16 ∨ frame * 2 ^ 16 + 2 ^ 16 ≤ at_)
  let logged := fun (e : LogEntry) => r.tag < 128 ∧ g.log.find? (fun e => e.ix == r.tag % 4 && e.state == 1) = some e
  let ended := k.fixes.find? (fun x => x.pref == p && goes x) = some fx ∧ c = refOf fx.rcd.handle.toNat ∧ s.ctx? c = some g ∧ s.faultWaits g fx.rcd.tag fx.rcd.cmd = true
  let without : State := { s with kernel := { k with fixes := k.fixes.erase fx } }
  let moving := settled ∧ s.jobDue p (·.fill.isSome) = some j ∧ j.fill = some frame ∧ j.write = false
  let into := if j.direct then frame else j.frame
  let piece := j.piece (lbaSize fl.port)
  let n := piece.2.1
  let from_ := j.frame * 2 ^ 16 + (piece.1 - piece.2.2)
  let into_ := frame * 2 ^ 16 + j.done
  let put := fun (j' : Job) => k.jobs.map fun x => if x.id = j.id then j' else x
  let stageOf := fun (stage : FixStage) => k.fixes.map fun x => if x.stage = .filling j.id then { x with stage := stage } else x
  let wit' := mergeWit s.now j.wit (BitVec.ofNat 64 (field ent 16 8))
  let shard := r.asn % 80
  let privately := fun (id dst typ tag : Nat) (bs : List Byte) => ({
    id := id, src := p, dst := dst, mgmt := false, due := clock + (if p / 10 = dst / 10 ∧ dst < 80 then 60 else 180)
    bytes := toBytes 2 typ ++ toBytes 1 p ++ [0] ++ toBytes 4 tag ++ toBytes 8 covers.toNat ++ bs ++ List.replicate (48 - bs.length) 0 } : Wire)
  -- escalations, saves and restores
  let body := fun i => (r.body.getD i 0).toNat
  let pad := Loc.sys p s.arg.x
  let room64 := s.arg.x + 64 ≤ Config.sysSpad
  let wanted := (∃ x ∈ s.grids, x.waiting = true ∧ x.blockedAt ≠ none ∧ g.ids.prio ≤ x.priority) ∨ ∃ v ∈ s.saved, v.isTeam = true ∧ v.retry ≠ 0 ∧ v.core / 16 = p ∧ g.ids.prio ≤ v.prio
  let a := s.arg.units.toNat
  let good := a ≠ 0 ∧ a % 64 = 0
  let save := fun (team force : Bool) => s1.asKernel p 0 0 fun s => s.saveTarget r.handle.toNat a team force
  let saves := fun (team force : Bool) =>
    (∀ w init z, good → save team force = (t, some (0, w)) → t.saved = init ++ [z] → exec .restoreRetry s = .next { t with saved := init ++ [{ z with retry := max 1 (clock + 1250000), awaits := false }] }) ∧
    (∀ n w, good → save team force = (t, some (n, w)) → n ≠ 0 → exec .restoreRetry s = .next t) ∧ (¬ good ∨ save team force = (t, none) → exec .restoreRetry s = .next s)
  let around := fun (g : Grid) => g.around = true ∧ State.placeGangs g [] (if g.desc.flags.testBit 0 then g.desc.gangs else 1) g.nextGang s = none
  let turn := sv.awaits = false ∨ (∀ g ∈ s.grids, g.waiting = true → sv.prio < g.priority → around g) ∧
    ∀ x ∈ s.saved, x.awaits = true → sv.prio < x.prio → (∃ n, x.failedAt = some n ∧ n + 12500 ≤ clock) ∧ (s.kernelRestore x.cluster x).2 = false
  let due := sv.asked = true ∧ sv.tried = false ∨ sv.retry ≠ 0 ∧ (sv.retry ≤ clock ∨ sv.isTeam = false ∧ (s.kernelRestore p sv).2 = true)
  let free := (∀ x ∈ (s.pref p).trapq, x.typ ∉ [5, 6, 7]) ∧ s.savedAt s.arg.c = some (sv, sg, off)
  let ready := free ∧ p < 80 ∧ turn ∧ due
  let there := s.switch (.prefect p)
  let acting := there.modG fun g => { g with ids := { g.ids with asn := sv.asn, world := sv.world } }
  let home := fun (t : State) => (t.modG fun g => { g with ids := { g.ids with asn := there.g.ids.asn, world := there.g.ids.world } }).switch s.g.ids.ref
  let load := if sv.isTeam then loadTeam kernelLoad sv.addr 0xFFFFFFFF bs bad t else loadGroup kernelLoad sv.addr bs bad t
  let again := fun (t : State) => exec .restoreRetry s = .next { home t with saved := t.saved.map fun x =>
    if x = sv then { sv with tried := sv.asked, retry := clock + 1250000, failedAt := some (sv.failedAt.getD clock) } else x }
  -- a RECV ends
  (heard → reach = none → gone.writeVa c1.owner c1.asn 0 (arg 1) got = some t → recvEnds .callRecv got.length 0 (mkWit { scope := 4, id := 0 } t.now) t.mem) ∧
  (∀ n, heard → reach = some n → ∃ x, recvEnds .callRecv x n 0 s.mem) ∧
  (k.recvs.find? (fun v => v.call.owner == p && (v.until_.map fun t => decide (t ≤ clock)).getD false) = some v → ∃ x, recvEnds .recvTimeout x 11 0 s.mem) ∧
  ((∀ v ∈ k.recvs, v.call.owner = p → ∀ n, v.until_ = some n → clock < n) → exec .recvTimeout s = .next s) ∧
  -- an answer
  (local_ → s.ctx? c = some g → g.trapped mask = true → exec .reply s = .next (answered.modCtx c (Ctx.resume s.now mask y.rows (mergeWit s.now covers y.wit)))) ∧
  (local_ → s.ctx? c = some g → g.trapped mask = false → exec .reply s = .next answered) ∧
  (local_ → s.ctx? c = none → s.savedAt c = none → exec .reply s = .next answered) ∧
  (local_ → s.ctx? c = none → s.savedAt c = some (sv, sg, off) → sv.isTeam = false → answered.inImageAt sv.cluster sv.asn sv.world off sg (fun s => match s.ctx? c with
      | some g => if g.trapped mask then s.modCtx c (Ctx.resume s.now mask y.rows (mergeWit answered.now covers y.wit)) else s
      | none => s) = some t → exec .reply s = .next t) ∧
  (∀ asker tag, first → y.call.back = some (asker, tag) → room asker → ∃ u, exec .reply s = .next u ∧ u.wires = s.wires ++ statuses.zipIdx.map (fun (st, n) => reply asker tag n st) ∧
    u.kernel = answered.kernel ∧ u.mem = s.mem ∧ u.g = s.g) ∧
  (∀ asker tag, first → y.call.back = some (asker, tag) → ¬ room asker → exec .reply s = .next s) ∧
  (replied → all → s.ctx? c = some g → g.trapped rmask = true → exec .reply s = .next ((sentIs (k.sent.erase st)).modCtx c (Ctx.resume s.now rmask rows (mergeWit s.now covers rwit)))) ∧
  (replied → all → s.ctx? c = some g → g.trapped rmask = false → exec .reply s = .next (sentIs (k.sent.erase st))) ∧
  (replied → ¬ all → exec .reply s = .next (sentIs (k.sent.map fun x => if x = st then { st with got := rows, wit := rwit } else x))) ∧
  (∀ rest, quiet → s.takeMail p repliesTo = none → (s.pref p).trapq = r :: rest → r.typ = 0 → r.code ∉ [0x10, 0x11, 0x20, 0x21, 0x22, 0x23, 0x30, 0x31, 0x32] → ∃ u vs, exec .reply s = .next u ∧
    (u.pref p).trapq = rest ∧ vs.map Prod.fst = lanes r.mask ∧ (∀ x ∈ vs, x.2.2 = 38) ∧ u.kernel.replies = k.replies ++ [{ call := r.call p (lanes r.mask), rows := vs, wit := 0 }]) ∧
  -- a fault
  (fault → unmapped → fails 0x10) ∧ (fault → gives → lacks → fails 0x11) ∧ (fault → gives → ¬ lacks → table = none ∨ (∃ n, table = some n ∧ fs.entryFor page 3 n s.arg.nums = none) → fails 0x10) ∧
  (fault → gives → ¬ lacks → found → old % 2 = 0 → s.arg.ok = false ∨ 0xE00000 ≤ frame ∨ retired → fails 0x10) ∧
  (fault → gives → ¬ lacks → found → old % 2 = 1 → leafOk old = false → fails 0x10) ∧
  (fault → unmapped → logged e → exec .faultService s = .next (State.settle (fs.modCtx c fun g => { g with
    log := g.log.map fun e => if e.ix = r.tag % 4 ∧ e.state = 1 then { e with cause := 0x10 } else e }) c { e with cause := 0x10 })) ∧
  (fault → gives → ¬ lacks → found → old % 2 = 0 → s.arg.ok = true → frame < 0xE00000 → ¬ retired → zeros → exec .faultService s = .next (filled.settleFault c r.tag r.cmd true) ∧
    (apart → r.world < 256 → filled.mem.readN at_ 8 = entry ∧ ∀ b, b < 2 ^ 16 → filled.mem.get 0 (frame * 2 ^ 16 + b) = 0)) ∧
  (fault → gives → ¬ lacks → found → old % 2 = 0 → s.arg.ok = true → frame < 0xE00000 → ¬ retired → inFile → exec .faultService s = .next { cleared with
    nextId := q.nextId + 1
    kernel := { cleared.kernel with jobs := cleared.kernel.jobs ++ [job], fixes := cleared.kernel.fixes ++ [{ pref := p, rcd := r, stage := .filling q.nextId, entry := at_, leaf := entry }] } }) ∧
  (fault → gives → ¬ lacks → found → old % 2 = 1 → leafOk old = true → new = old → exec .faultService s = .next (q.settleFault c r.tag r.cmd true)) ∧
  (fault → gives → ¬ lacks → found → old % 2 = 1 → leafOk old = true → new ≠ old → raised.usersOf stale = [] → exec .faultService s = .next ((raised.sweepTlb stale).settleFault c r.tag r.cmd true)) ∧
  (fault → gives → ¬ lacks → found → old % 2 = 1 → leafOk old = true → new ≠ old → raised.usersOf stale ≠ [] → exec .faultService s = .next { raised.sweepTlb stale with
    kernel := { (raised.sweepTlb stale).kernel with fixes := (raised.sweepTlb stale).kernel.fixes ++ [{ pref := p, rcd := r, stage := .sweeping (raised.usersOf stale) }] } }) ∧
  (fault → logged e → (fs.settleFault c r.tag r.cmd true).ctx? c = some { g with log := g.log.map fun x => if x.ix = e.ix then { x with state := 2 } else x }) ∧
  -- its service goes on
  (ended → (∀ w, fx.stage ≠ .filled w) → fx.stage ≠ .failed → exec .faultService s = .next (without.settleFault c fx.rcd.tag fx.rcd.cmd true)) ∧
  (∀ w, ended → fx.stage = .filled w → exec .faultService s = .next
    ((if s.mem.readN fx.entry 8 % 2 = 1 then without else without.poke {} fx.entry (toBytes 8 fx.leaf)).settleFault c fx.rcd.tag fx.rcd.cmd true)) ∧
  (ended → fx.stage = .failed → exec .faultService s = .next ((without.recause c fx.rcd.tag fx.rcd.cmd 0x10).settleFault c fx.rcd.tag fx.rcd.cmd false)) ∧
  (moving → s.file? j.path = some fl → s.jobEntry j = none → exec .faultService s = .next { s with
    nextId := s.nextId + 1, kernel := { k with jobs := put { j with cmd := some s.nextId } }
    iocmds := s.iocmds ++ [{ id := s.nextId, pref := p, port := fl.port, cls := 0, wit := s.kernelWit p, job := some j.id, pages := [((2 ^ 55 + into * 2 ^ 16) / 2 ^ 16, frameTr into)]
                             fail := if s.hub.up.contains fl.port then none else some 0x006
                             desc := layout 64 [(0, 1, 2), (2, 2, s.nextId), (4, 4, fl.nsid), (24, 8, 2 ^ 55 + into * 2 ^ 16 + if j.direct then j.done else 0),
                               (40, 8, fl.lba + piece.2.2 / lbaSize fl.port), (48, 2, ceilDiv (piece.1 + piece.2.1 - piece.2.2) (lbaSize fl.port) - 1)] }] }) ∧
  (moving → s.file? j.path = none → ∃ u, exec .faultService s = .next u ∧ u.mem = s.mem ∧ u.kernel.jobs = k.jobs.filter (·.id != j.id) ∧ u.kernel.fixes = stageOf .failed) ∧
  (moving → s.file? j.path = some fl → s.jobEntry j = some ent → field ent 2 2 ≠ 0 →
    ∃ u, exec .faultService s = .next u ∧ u.mem = s.mem ∧ u.kernel.jobs = k.jobs.filter (·.id != j.id) ∧ u.kernel.fixes = stageOf .failed) ∧
  (moving → s.file? j.path = some fl → s.jobEntry j = some ent → field ent 2 2 = 0 → ∃ u, exec .faultService s = .next u ∧ u.kernel.replies = k.replies ∧
    (j.direct = true ∨ j.back = true → u.mem = s.mem) ∧
    (j.direct = false → j.back = false → s.poison = [] → into_ + n ≤ Config.reservedBase →
      u.mem.readB into_ n = s.mem.readB from_ n ∧ ∀ b, b < into_ ∨ into_ + n ≤ b → b < Config.reservedBase → u.mem.get 0 b = s.mem.get 0 b) ∧
    (j.done + n < j.len → u.kernel.fixes = k.fixes ∧ u.kernel.jobs = put { j with done := j.done + n, cmd := none, back := false, wit := wit' }) ∧
    (j.len ≤ j.done + n → u.kernel.fixes = stageOf (.filled wit') ∧ u.kernel.jobs = k.jobs.filter (·.id != j.id))) ∧
  -- other shards' regions
  (noFix → noMail → oldest [1] → p ≠ shard → s.mailRoom shard false = true → exec .faultService s = .next { s1 with
    nextId := s.nextId + 2, kernel := { k with fixes := k.fixes ++ [{ pref := p, rcd := r, stage := .asked (s.nextId % 2 ^ 32) }] }
    wires := s.wires ++ [privately (s.nextId + 1) shard Config.askType.toNat (s.nextId % 2 ^ 32) (toBytes 8 r.value.toNat ++ toBytes 2 r.asn)] }) ∧
  (noFix → noMail → oldest [1] → p ≠ shard → s.mailRoom shard false = false → exec .faultService s = .next s) ∧
  (noFix → s.takeMail p asks = some (t, m) → s.mailRoom (field m 2 1) false = true → exec .faultService s = .next { t with
    nextId := s.nextId + 1, wires := s.wires ++ [privately s.nextId (field m 2 1) Config.tellType.toNat (field m 4 4) []] }) ∧
  (noFix → s.takeMail p asks = some (t, m) → s.mailRoom (field m 2 1) false = false → exec .faultService s = .next s) ∧
  (noFix → s.takeMail p asks = none → s.takeMail p tells = some (t, m) → (∀ x ∈ k.fixes, ¬ (x.pref = p ∧ x.stage = .asked (field m 4 4))) → exec .faultService s = .next t) ∧
  (noFix → noMail → (∀ x ∈ (s.pref p).trapq, x.typ ≠ 1) → exec .faultService s = .next s) ∧
  -- an escalation
  (oldest [2] → room64 → s.poison = [] → ∃ (u : State) (block : List Byte), exec .escalateKillPolicy s = .next (u.killGrid (r.handle.toNat / 2 ^ 32) block) ∧ u.mem.readB pad 64 = block ∧
    (∀ b, b < pad ∨ pad + 64 ≤ b → u.mem.get 0 b = s.mem.get 0 b) ∧ u.prefs = s1.prefs ∧ u.g = s.g ∧ u.grids = s.grids ∧ block.length = 64 ∧ field block 0 2 = 0x50 ∧ field block 2 1 = 3 ∧
    field block 4 2 = body 1 % 2 ^ 16 ∧ field block 6 2 = body 4 % 2 ^ 16 ∧ field block 8 2 = r.cause % 2 ^ 16 ∧ field block 0x10 8 = body 0 ∧ field block 0x18 8 = body 2 ∧
    field block 0x20 8 = body 3 ∧ field block 0x28 8 = body 5 ∧ field block 48 8 = r.pc % 2 ^ 64 ∧ field block 56 8 = page) ∧
  (oldest [2] → room64 → s.poison = [] → s.grid? (r.handle.toNat / 2 ^ 32) = some x → x.phase = 2 →
    ∃ u, exec .escalateKillPolicy s = .next u ∧ ∀ z ∈ u.grids, z.gid = x.gid → z.killed = true ∧ field z.killBlock 8 2 = r.cause % 2 ^ 16) ∧
  (¬ room64 → exec .escalateKillPolicy s = .next s) ∧
  -- slices, deadlocks, restores
  (oldest [5, 6, 7] → r.typ = 5 → s.resident r.handle.toNat = none → exec .restoreRetry s = .next s1) ∧
  (oldest [5, 6, 7] → r.typ = 5 → s.resident r.handle.toNat = some g → ¬ wanted → exec .restoreRetry s = .next (s1.modCtx g.ids.ref fun g =>
    if g.sched.held || g.sched.forceHeld then Ctx.newSlice s { g with sched := { g.sched with held := false, forceHeld := false } } else g)) ∧
  (oldest [5, 6, 7] → r.typ = 5 → s.resident r.handle.toNat = some g → wanted → saves false false) ∧
  (oldest [5, 6, 7] → r.typ = 6 → saves false true) ∧ (oldest [5, 6, 7] → r.typ = 7 → saves true false) ∧
  (ready → acting.openImage sv.addr = (t, .ok (bs, bad)) → load = .done t' → t'.saved.length < t.saved.length → exec .restoreRetry s = .next (home t')) ∧
  (ready → acting.openImage sv.addr = (t, .ok (bs, bad)) → load = .done t' → t.saved.length ≤ t'.saved.length → again t') ∧
  (ready → acting.openImage sv.addr = (t, .ok (bs, bad)) → (∀ t', load ≠ .done t') → again t) ∧
  (∀ code, ready → acting.openImage sv.addr = (t, .error code) → again t) ∧
  (free → ¬ (p < 80 ∧ turn ∧ due) → exec .restoreRetry s = .next s) ∧
  ((∀ x ∈ (s.pref p).trapq, x.typ ∉ [5, 6, 7]) → s.savedAt s.arg.c = none → exec .restoreRetry s = .next s)
end

