-- ==== Sys2Proof/Laws/SMap.lean ====
section
/-! SUPPORT. Laws of sparse tables: reading after writing, and the canonical form that every operation keeps. -/

namespace Sys2Proof.SMap

variable {α : Type}

@[simp] theorem get_nil (d : α) (x : Nat) : SMap.get d [] x = d := rfl

theorem get_ins_self (d : α) (m : SMap α) (x : Nat) (a : α) : (m.ins x a).get d x = a := by
  induction m with
  | nil => simp [ins, get]
  | cons e t ih =>
    obtain ⟨k, v⟩ := e
    simp only [ins]
    split
    · simp [get]
    · split
      · simp [get]
      · rename_i h; simp [get, h, ih]

theorem get_ins_ne (d : α) (m : SMap α) {x y : Nat} (a : α) (h : y ≠ x) : (m.ins x a).get d y = m.get d y := by
  induction m with
  | nil => simp [ins, get, h]
  | cons e t ih =>
    obtain ⟨k, v⟩ := e
    simp only [ins]
    split
    · simp [get, h]
    · split
      · rename_i h'; subst h'; simp [get, h]
      · simp only [get, ih]

theorem get_filter (d : α) (m : SMap α) (p : Nat → Bool) (y : Nat) :
    SMap.get d (m.filter (fun e => p e.1)) y = if p y then m.get d y else d := by
  induction m with
  | nil => simp [get]
  | cons e t ih =>
    obtain ⟨k, v⟩ := e
    by_cases hk : p k <;> by_cases hy : y = k <;> simp_all [get]

variable [DecidableEq α]

/-- A read after a write to the same key gives the value written. -/
@[simp] theorem get_set_self (d : α) (m : SMap α) (x : Nat) (a : α) : (SMap.set d m x a).get d x = a := by
  unfold set
  split
  · rename_i h; rw [get_filter d m (fun k => decide (k ≠ x))]; simp [h]
  · exact get_ins_self d m x a

/-- A write leaves every other key alone. -/
theorem get_set_ne (d : α) (m : SMap α) {x y : Nat} (a : α) (h : y ≠ x) : (SMap.set d m x a).get d y = m.get d y := by
  unfold set
  split
  · rw [get_filter d m (fun k => decide (k ≠ x))]; simp [h]
  · exact get_ins_ne d m a h

/-- A read after a write. -/
theorem get_set (d : α) (m : SMap α) (x y : Nat) (a : α) : (SMap.set d m x a).get d y = if y = x then a else m.get d y := by
  split
  · rename_i h; subst h; simp
  · rename_i h; exact get_set_ne d m a h

omit [DecidableEq α] in
/-- A read after `keep`. -/
theorem get_keep (d : α) (m : SMap α) (p : Nat → Bool) (y : Nat) : (m.keep p).get d y = if p y then m.get d y else d :=
  get_filter d m p y

/-! ### The canonical form -/

/-- Every key of a table is above a bound, every value differs from the default, and the keys rise. -/
def Above (d : α) : Nat → SMap α → Prop
  | _, [] => True
  | n, (k, v) :: t => n ≤ k ∧ v ≠ d ∧ Above d (k + 1) t

omit [DecidableEq α] in
theorem Above.mono {d : α} {m : SMap α} {n n' : Nat} (h : Above d n m) (hn : n' ≤ n) : Above d n' m := by
  cases m with
  | nil => trivial
  | cons e t => exact ⟨Nat.le_trans hn h.1, h.2⟩

theorem wf_cons_iff (d : α) (k : Nat) (v : α) (t : SMap α) : SMap.wf d ((k, v) :: t) = true ↔ v ≠ d ∧ Above d (k + 1) t := by
  induction t generalizing k v with
  | nil => simp [wf, Above]
  | cons e t ih =>
    obtain ⟨k', v'⟩ := e
    simp only [wf, Bool.and_eq_true, decide_eq_true_eq, ih, Above]
    constructor
    · rintro ⟨⟨h1, h2⟩, h3, h4⟩; exact ⟨h1, h2, h3, h4⟩
    · rintro ⟨h1, h2, h3, h4⟩; exact ⟨⟨h1, h2⟩, h3, h4⟩

/-- The canonical form, as a bound on the keys. -/
theorem wf_iff (d : α) (m : SMap α) : SMap.wf d m = true ↔ Above d 0 m := by
  cases m with
  | nil => simp [wf, Above]
  | cons e t => obtain ⟨k, v⟩ := e; simp [wf_cons_iff, Above]

omit [DecidableEq α] in
theorem Above.filter {d : α} {m : SMap α} {n : Nat} (h : Above d n m) (p : Nat × α → Bool) : Above d n (m.filter p) := by
  induction m generalizing n with
  | nil => trivial
  | cons e t ih =>
    obtain ⟨k, v⟩ := e
    obtain ⟨h1, h2, h3⟩ := h
    simp only [List.filter_cons]
    split
    · exact ⟨h1, h2, ih h3⟩
    · exact (ih h3).mono (by omega)

omit [DecidableEq α] in
theorem Above.ins {d : α} {m : SMap α} {n x : Nat} {a : α} (h : Above d n m) (hx : n ≤ x) (ha : a ≠ d) : Above d n (m.ins x a) := by
  induction m generalizing n with
  | nil => exact ⟨hx, ha, trivial⟩
  | cons e t ih =>
    obtain ⟨k, v⟩ := e
    obtain ⟨h1, h2, h3⟩ := h
    simp only [SMap.ins]
    split
    · exact ⟨hx, ha, by omega, h2, h3⟩
    · split
      · rename_i h4 h5; subst h5; exact ⟨hx, ha, h3⟩
      · exact ⟨h1, h2, ih h3 (by omega)⟩

/-- Writing a key keeps the canonical form. -/
theorem wf_set {d : α} {m : SMap α} (x : Nat) (a : α) (h : SMap.wf d m = true) : SMap.wf d (SMap.set d m x a) = true := by
  rw [wf_iff] at *
  unfold set
  split
  · exact h.filter _
  · rename_i ha; exact h.ins (Nat.zero_le _) ha

/-- Dropping keys keeps the canonical form. -/
theorem wf_keep {d : α} {m : SMap α} (p : Nat → Bool) (h : SMap.wf d m = true) : SMap.wf d (m.keep p) = true := by
  rw [wf_iff] at *
  exact h.filter _

end Sys2Proof.SMap
end

