-- ==== Sys2Proof/Laws/Regs.lean ====
section
/-! SUPPORT. Laws of the registers: what a read finds after a write, for single registers, register groups and the lanes of EXEC. -/

namespace Sys2Proof.Machine

namespace Ctx

/-! ### The constant registers (R40, R43, R217) -/

@[simp] theorem rdS_63 (g : Ctx) : g.rdS 63 = 0 := by simp [rdS]
@[simp] theorem rdP_7 (g : Ctx) : g.rdP 7 = allLanes := by simp [rdP]
@[simp] theorem rdC_7 (g : Ctx) : g.rdC 7 = true := by simp [rdC]
@[simp] theorem rdW_15 (g : Ctx) : g.rdW 15 = 0 := by simp [rdW]

/-! ### One register -/

theorem rdS_wrS (g : Ctx) (i j : Nat) (x : Word) : (g.wrS i x).rdS j = if j = i ∧ i ≠ 63 then x else g.rdS j := by
  unfold wrS
  by_cases hi : i = 63
  · simp [hi]
  · by_cases hj : j = 63
    · subst hj; simp [hi]; intro h; exact absurd h.symm hi
    · simp [hi, rdS, hj, SMap.get_set]

theorem rdV_wrV (g : Ctx) (r l r' l' : Nat) (x : Word) :
    (g.wrV r l x).rdV r' l' = if 32 * r' + l' = 32 * r + l then x else g.rdV r' l' := by
  simp [wrV, rdV, SMap.get_set]

theorem vpois_wrV (g : Ctx) (r l r' l' : Nat) (x : Word) :
    (g.wrV r l x).vpois r' l' = if 32 * r' + l' = 32 * r + l then false else g.vpois r' l' := by
  simp [wrV, vpois, SMap.get_set]

theorem rdC_wrC (g : Ctx) (i j : Nat) (b : Bool) : (g.wrC i b).rdC j = if j = i ∧ i ≠ 7 then b else g.rdC j := by
  unfold wrC
  by_cases hi : i = 7
  · simp [hi]
  · by_cases hj : j = 7
    · subst hj; simp [hi, Ne.symm hi]
    · simp [hi, rdC, SMap.get_set, show (j == 7) = false by simpa using hj]

theorem rdW_wrW (g : Ctx) (i j : Nat) (x : DWord) : (g.wrW i x).rdW j = if j = i ∧ i ≠ 15 then x else g.rdW j := by
  unfold wrW
  by_cases hi : i = 15
  · simp [hi]
  · by_cases hj : j = 15
    · subst hj; simp [hi]; intro h; exact absurd h.symm hi
    · simp [hi, rdW, hj, SMap.get_set]

theorem rdP_wrP (g : Ctx) (i j : Nat) (m x : Word) :
    (g.wrP i m x).rdP j = if j = i ∧ i ≠ 7 then (g.rdP j &&& ~~~m) ||| (x &&& m) else g.rdP j := by
  unfold wrP
  by_cases hi : i = 7
  · simp [hi]
  · by_cases hj : j = 7
    · subst hj; simp [hi]; intro h; exact absurd h.symm hi
    · by_cases hij : j = i
      · subst hij; simp [hi, rdP]
      · simp [hi, rdP, hj, SMap.get_set, hij]

theorem bit_rdP_wrP (g : Ctx) (i j l : Nat) (m x : Word) (hl : l < 32) :
    bit ((g.wrP i m x).rdP j) l = if j = i ∧ i ≠ 7 ∧ bit m l then bit x l else bit (g.rdP j) l := by
  rw [rdP_wrP]
  by_cases h : j = i ∧ i ≠ 7
  · rw [if_pos h]
    cases hm : bit m l <;> simp_all [bit]
  · rw [if_neg h]
    by_cases h' : j = i ∧ i ≠ 7 ∧ bit m l = true
    · exact absurd ⟨h'.1, h'.2.1⟩ h
    · simp [h']

/-! ### What one file's writes leave of the others -/

@[simp] theorem wrS_regs_v (g : Ctx) (i : Nat) (x : Word) : (g.wrS i x).regs.v = g.regs.v := by unfold wrS; split <;> rfl
@[simp] theorem wrS_regs_vp (g : Ctx) (i : Nat) (x : Word) : (g.wrS i x).regs.vp = g.regs.vp := by unfold wrS; split <;> rfl
@[simp] theorem wrS_regs_p (g : Ctx) (i : Nat) (x : Word) : (g.wrS i x).regs.p = g.regs.p := by unfold wrS; split <;> rfl
@[simp] theorem wrS_regs_c (g : Ctx) (i : Nat) (x : Word) : (g.wrS i x).regs.c = g.regs.c := by unfold wrS; split <;> rfl
@[simp] theorem wrS_regs_w (g : Ctx) (i : Nat) (x : Word) : (g.wrS i x).regs.w = g.regs.w := by unfold wrS; split <;> rfl
@[simp] theorem wrV_regs_s (g : Ctx) (r l : Nat) (x : Word) : (g.wrV r l x).regs.s = g.regs.s := rfl
@[simp] theorem wrV_regs_p (g : Ctx) (r l : Nat) (x : Word) : (g.wrV r l x).regs.p = g.regs.p := rfl
@[simp] theorem wrV_regs_c (g : Ctx) (r l : Nat) (x : Word) : (g.wrV r l x).regs.c = g.regs.c := rfl
@[simp] theorem wrV_regs_w (g : Ctx) (r l : Nat) (x : Word) : (g.wrV r l x).regs.w = g.regs.w := rfl
@[simp] theorem wrP_regs_v (g : Ctx) (i : Nat) (m x : Word) : (g.wrP i m x).regs.v = g.regs.v := by unfold wrP; split <;> rfl
@[simp] theorem wrP_regs_vp (g : Ctx) (i : Nat) (m x : Word) : (g.wrP i m x).regs.vp = g.regs.vp := by unfold wrP; split <;> rfl
@[simp] theorem wrP_regs_s (g : Ctx) (i : Nat) (m x : Word) : (g.wrP i m x).regs.s = g.regs.s := by unfold wrP; split <;> rfl
@[simp] theorem wrP_regs_c (g : Ctx) (i : Nat) (m x : Word) : (g.wrP i m x).regs.c = g.regs.c := by unfold wrP; split <;> rfl
@[simp] theorem wrP_regs_w (g : Ctx) (i : Nat) (m x : Word) : (g.wrP i m x).regs.w = g.regs.w := by unfold wrP; split <;> rfl
@[simp] theorem wrC_regs_v (g : Ctx) (i : Nat) (b : Bool) : (g.wrC i b).regs.v = g.regs.v := by unfold wrC; split <;> rfl
@[simp] theorem wrC_regs_vp (g : Ctx) (i : Nat) (b : Bool) : (g.wrC i b).regs.vp = g.regs.vp := by unfold wrC; split <;> rfl
@[simp] theorem wrC_regs_s (g : Ctx) (i : Nat) (b : Bool) : (g.wrC i b).regs.s = g.regs.s := by unfold wrC; split <;> rfl
@[simp] theorem wrC_regs_p (g : Ctx) (i : Nat) (b : Bool) : (g.wrC i b).regs.p = g.regs.p := by unfold wrC; split <;> rfl
@[simp] theorem wrC_regs_w (g : Ctx) (i : Nat) (b : Bool) : (g.wrC i b).regs.w = g.regs.w := by unfold wrC; split <;> rfl
@[simp] theorem wrW_regs_v (g : Ctx) (i : Nat) (x : DWord) : (g.wrW i x).regs.v = g.regs.v := by unfold wrW; split <;> rfl
@[simp] theorem wrW_regs_vp (g : Ctx) (i : Nat) (x : DWord) : (g.wrW i x).regs.vp = g.regs.vp := by unfold wrW; split <;> rfl
@[simp] theorem wrW_regs_s (g : Ctx) (i : Nat) (x : DWord) : (g.wrW i x).regs.s = g.regs.s := by unfold wrW; split <;> rfl
@[simp] theorem wrW_regs_p (g : Ctx) (i : Nat) (x : DWord) : (g.wrW i x).regs.p = g.regs.p := by unfold wrW; split <;> rfl
@[simp] theorem wrW_regs_c (g : Ctx) (i : Nat) (x : DWord) : (g.wrW i x).regs.c = g.regs.c := by unfold wrW; split <;> rfl

/-- A register write changes the register files and nothing else. -/
theorem wrS_eq (g : Ctx) (i : Nat) (x : Word) : g.wrS i x = { g with regs := (g.wrS i x).regs } := by unfold wrS; split <;> rfl
theorem wrV_eq (g : Ctx) (r l : Nat) (x : Word) : g.wrV r l x = { g with regs := (g.wrV r l x).regs } := rfl
theorem wrP_eq (g : Ctx) (i : Nat) (m x : Word) : g.wrP i m x = { g with regs := (g.wrP i m x).regs } := by unfold wrP; split <;> rfl
theorem wrC_eq (g : Ctx) (i : Nat) (b : Bool) : g.wrC i b = { g with regs := (g.wrC i b).regs } := by unfold wrC; split <;> rfl
theorem wrW_eq (g : Ctx) (i : Nat) (x : DWord) : g.wrW i x = { g with regs := (g.wrW i x).regs } := by unfold wrW; split <;> rfl

/-! ### Register groups -/

theorem wr_eq (g : Ctx) (u : Bool) (i l n x : Nat) : g.wr u i l n x = { g with regs := (g.wr u i l n x).regs } := by
  induction n generalizing g i x with
  | zero => rfl
  | succ n ih =>
    unfold wr
    rw [ih]
    cases u
    · rfl
    · simp only [if_true]; rw [wrS_eq]

theorem rdS_wr (g : Ctx) (d l n x r : Nat) :
    (g.wr true d l n x).rdS r = if d ≤ r ∧ r < d + n ∧ r ≠ 63 then BitVec.ofNat 32 (x / 2 ^ (32 * (r - d))) else g.rdS r := by
  induction n generalizing g d x with
  | zero => simp [wr]; omega
  | succ n ih =>
    unfold wr
    rw [ih]
    simp only [if_true, rdS_wrS]
    by_cases h63 : r = 63
    · subst h63; simp; omega
    · by_cases hr : r = d
      · subst hr; rw [if_neg (by omega)]; simp [h63]
      · by_cases h : d ≤ r ∧ r < d + (n + 1)
        · have h1 : d + 1 ≤ r ∧ r < d + 1 + n := by omega
          have e : r - d = (r - (d + 1)) + 1 := by omega
          simp only [h, h1, h63, ne_eq, not_false_eq_true, and_self, if_true, e, Nat.mul_add, Nat.pow_add, Nat.mul_one,
            Nat.div_div_eq_div_mul]
          rw [Nat.mul_comm (2 ^ 32)]
        · have h1 : ¬ (d + 1 ≤ r ∧ r < d + 1 + n ∧ r ≠ 63) := by omega
          have h2 : ¬ (d ≤ r ∧ r < d + (n + 1) ∧ r ≠ 63) := by omega
          rw [if_neg h1, if_neg h2]; simp [hr]

theorem rdV_wr (g : Ctx) (d l n x r l' : Nat) (hl : l < 32) (hl' : l' < 32) :
    (g.wr false d l n x).rdV r l' = if d ≤ r ∧ r < d + n ∧ l' = l then BitVec.ofNat 32 (x / 2 ^ (32 * (r - d))) else g.rdV r l' := by
  induction n generalizing g d x with
  | zero => simp [wr]; omega
  | succ n ih =>
    unfold wr
    rw [ih]
    simp only [if_false, Bool.false_eq_true, rdV_wrV]
    by_cases h : d ≤ r ∧ r < d + (n + 1) ∧ l' = l
    · by_cases hr : r = d
      · subst hr; obtain ⟨-, -, rfl⟩ := h; rw [if_neg (by omega)]; simp
      · have h1 : d + 1 ≤ r ∧ r < d + 1 + n ∧ l' = l := by omega
        have e : r - d = (r - (d + 1)) + 1 := by omega
        rw [if_pos h1, if_pos h, e, Nat.mul_add, Nat.pow_add, Nat.div_div_eq_div_mul, Nat.mul_comm (2 ^ 32)]
    · have h1 : ¬ (d + 1 ≤ r ∧ r < d + 1 + n ∧ l' = l) := by omega
      have h2 : ¬ (32 * r + l' = 32 * d + l) := by omega
      rw [if_neg h1, if_neg h, if_neg h2]

theorem vpois_wr (g : Ctx) (d l n x r l' : Nat) (hl : l < 32) (hl' : l' < 32) :
    (g.wr false d l n x).vpois r l' = if d ≤ r ∧ r < d + n ∧ l' = l then false else g.vpois r l' := by
  induction n generalizing g d x with
  | zero => simp [wr]; omega
  | succ n ih =>
    unfold wr
    rw [ih]
    simp only [if_false, Bool.false_eq_true, vpois_wrV]
    by_cases h : d ≤ r ∧ r < d + (n + 1) ∧ l' = l
    · by_cases hr : r = d
      · subst hr; obtain ⟨-, -, rfl⟩ := h; simp
      · have h1 : d + 1 ≤ r ∧ r < d + 1 + n ∧ l' = l := by omega
        rw [if_pos h1, if_pos h]
    · have h1 : ¬ (d + 1 ≤ r ∧ r < d + 1 + n ∧ l' = l) := by omega
      have h2 : ¬ (32 * r + l' = 32 * d + l) := by omega
      rw [if_neg h1, if_neg h, if_neg h2]

@[simp] theorem wr_false_s (g : Ctx) (d l n x : Nat) : (g.wr false d l n x).regs.s = g.regs.s := by
  induction n generalizing g d x with
  | zero => rfl
  | succ n ih => unfold wr; rw [ih]; simp
@[simp] theorem wr_true_v (g : Ctx) (d l n x : Nat) : (g.wr true d l n x).regs.v = g.regs.v := by
  induction n generalizing g d x with
  | zero => rfl
  | succ n ih => unfold wr; rw [ih]; simp
@[simp] theorem wr_true_vp (g : Ctx) (d l n x : Nat) : (g.wr true d l n x).regs.vp = g.regs.vp := by
  induction n generalizing g d x with
  | zero => rfl
  | succ n ih => unfold wr; rw [ih]; simp
@[simp] theorem wr_p (g : Ctx) (u : Bool) (d l n x : Nat) : (g.wr u d l n x).regs.p = g.regs.p := by
  induction n generalizing g d x with
  | zero => rfl
  | succ n ih => unfold wr; rw [ih]; split <;> simp
@[simp] theorem wr_c (g : Ctx) (u : Bool) (d l n x : Nat) : (g.wr u d l n x).regs.c = g.regs.c := by
  induction n generalizing g d x with
  | zero => rfl
  | succ n ih => unfold wr; rw [ih]; split <;> simp
@[simp] theorem wr_w (g : Ctx) (u : Bool) (d l n x : Nat) : (g.wr u d l n x).regs.w = g.regs.w := by
  induction n generalizing g d x with
  | zero => rfl
  | succ n ih => unfold wr; rw [ih]; split <;> simp

end Ctx

/-! ### Lanes -/

theorem bit_allLanes {l : Nat} (h : l < 32) : bit allLanes l = true := by
  revert l; decide

theorem mem_lanes {m : Word} {l : Nat} : l ∈ lanes m ↔ l < 32 ∧ bit m l = true := by simp [lanes, bit]

/-- The V registers `d` to `d + n - 1` written in a list of lanes. -/
def wrLanes (g : Ctx) (d n : Nat) (val : Nat → Nat) (ls : List Nat) : Ctx := ls.foldl (fun acc l => acc.wr false d l n (val l)) g

theorem wrLanes_eq (g : Ctx) (d n : Nat) (val : Nat → Nat) (ls : List Nat) :
    wrLanes g d n val ls = { g with regs := (wrLanes g d n val ls).regs } := by
  unfold wrLanes
  induction ls generalizing g with
  | nil => rfl
  | cons l ls ih => simp only [List.foldl_cons]; rw [ih, Ctx.wr_eq]

theorem rdV_wrLanes (g : Ctx) (d n : Nat) (val : Nat → Nat) (ls : List Nat) (h : ∀ l ∈ ls, l < 32) (r l : Nat) (hl : l < 32) :
    (wrLanes g d n val ls).rdV r l =
      if l ∈ ls ∧ d ≤ r ∧ r < d + n then BitVec.ofNat 32 (val l / 2 ^ (32 * (r - d))) else g.rdV r l := by
  unfold wrLanes
  induction ls generalizing g with
  | nil => simp
  | cons k ls ih =>
    simp only [List.foldl_cons]
    rw [ih _ (fun l hl => h l (List.mem_cons_of_mem _ hl)), Ctx.rdV_wr _ _ _ _ _ _ _ (h k (List.mem_cons_self ..)) hl]
    by_cases h1 : l ∈ ls ∧ d ≤ r ∧ r < d + n
    · rw [if_pos h1, if_pos ⟨List.mem_cons_of_mem _ h1.1, h1.2⟩]
    · rw [if_neg h1]
      by_cases h2 : d ≤ r ∧ r < d + n ∧ l = k
      · obtain ⟨a, b, rfl⟩ := h2; rw [if_pos ⟨a, b, rfl⟩, if_pos ⟨List.mem_cons_self .., a, b⟩]
      · rw [if_neg h2, if_neg]
        rintro ⟨h3, h4⟩
        rcases List.mem_cons.1 h3 with rfl | h5
        · exact h2 ⟨h4.1, h4.2, rfl⟩
        · exact h1 ⟨h5, h4⟩

theorem vpois_wrLanes (g : Ctx) (d n : Nat) (val : Nat → Nat) (ls : List Nat) (h : ∀ l ∈ ls, l < 32) (r l : Nat) (hl : l < 32) :
    (wrLanes g d n val ls).vpois r l = if l ∈ ls ∧ d ≤ r ∧ r < d + n then false else g.vpois r l := by
  unfold wrLanes
  induction ls generalizing g with
  | nil => simp
  | cons k ls ih =>
    simp only [List.foldl_cons]
    rw [ih _ (fun l hl => h l (List.mem_cons_of_mem _ hl)), Ctx.vpois_wr _ _ _ _ _ _ _ (h k (List.mem_cons_self ..)) hl]
    by_cases h1 : l ∈ ls ∧ d ≤ r ∧ r < d + n
    · rw [if_pos h1, if_pos ⟨List.mem_cons_of_mem _ h1.1, h1.2⟩]
    · rw [if_neg h1]
      by_cases h2 : d ≤ r ∧ r < d + n ∧ l = k
      · obtain ⟨a, b, rfl⟩ := h2; rw [if_pos ⟨a, b, rfl⟩, if_pos ⟨List.mem_cons_self .., a, b⟩]
      · rw [if_neg h2, if_neg]
        rintro ⟨h3, h4⟩
        rcases List.mem_cons.1 h3 with rfl | h5
        · exact h2 ⟨h4.1, h4.2, rfl⟩
        · exact h1 ⟨h5, h4⟩

theorem wrLanes_s (g : Ctx) (d n : Nat) (val : Nat → Nat) (ls : List Nat) : (wrLanes g d n val ls).regs.s = g.regs.s := by
  unfold wrLanes; induction ls generalizing g with
  | nil => rfl
  | cons k ls ih => simp only [List.foldl_cons]; rw [ih]; simp
theorem wrLanes_p (g : Ctx) (d n : Nat) (val : Nat → Nat) (ls : List Nat) : (wrLanes g d n val ls).regs.p = g.regs.p := by
  unfold wrLanes; induction ls generalizing g with
  | nil => rfl
  | cons k ls ih => simp only [List.foldl_cons]; rw [ih]; simp
theorem wrLanes_c (g : Ctx) (d n : Nat) (val : Nat → Nat) (ls : List Nat) : (wrLanes g d n val ls).regs.c = g.regs.c := by
  unfold wrLanes; induction ls generalizing g with
  | nil => rfl
  | cons k ls ih => simp only [List.foldl_cons]; rw [ih]; simp
theorem wrLanes_w (g : Ctx) (d n : Nat) (val : Nat → Nat) (ls : List Nat) : (wrLanes g d n val ls).regs.w = g.regs.w := by
  unfold wrLanes; induction ls generalizing g with
  | nil => rfl
  | cons k ls ih => simp only [List.foldl_cons]; rw [ih]; simp

/-! ### The results of a form: `putRegs` and `putPred` -/

/-- The context after `putRegs`. -/
def afterPut (g : Ctx) (h : Hdr) (d n : Nat) (val : Nat → Nat) : Ctx :=
  if h.y then g.wr true d 0 n (val 0) else wrLanes g d n val (lanes (g.exec h))

theorem putRegs_eq (h : Hdr) (d n : Nat) (val : Nat → Nat) (s : State) :
    putRegs h d n val s = s.modG (fun g => { g with regs := (afterPut g h d n val).regs }) := by
  unfold putRegs afterPut actLanes State.modG
  cases hy : h.y
  · simp only [Bool.false_eq_true, if_false]
    rw [show (List.foldl (fun acc l => acc.wr false d l n (val l)) s.g (lanes (s.g.exec h))) = wrLanes s.g d n val (lanes (s.g.exec h)) from rfl,
      wrLanes_eq]
  · simp only [if_true, List.foldl_cons, List.foldl_nil]
    rw [Ctx.wr_eq]

theorem mem_destRegs_v {y : Bool} {d n r : Nat} : Reg.v r ∈ destRegs y d n ↔ y = false ∧ d ≤ r ∧ r < d + n := by
  simp only [destRegs, List.mem_map, List.mem_range]
  constructor
  · rintro ⟨k, hk, h⟩; cases y <;> simp_all; omega
  · rintro ⟨rfl, h1, h2⟩; exact ⟨r - d, by omega, by simp; omega⟩

theorem mem_destRegs_s {y : Bool} {d n r : Nat} : Reg.s r ∈ destRegs y d n ↔ y = true ∧ d ≤ r ∧ r < d + n := by
  simp only [destRegs, List.mem_map, List.mem_range]
  constructor
  · rintro ⟨k, hk, h⟩; cases y <;> simp_all; omega
  · rintro ⟨rfl, h1, h2⟩; exact ⟨r - d, by omega, by simp; omega⟩

theorem afterPut_sameBut (g : Ctx) (h : Hdr) (d n : Nat) (val : Nat → Nat) :
    SameBut (destRegs h.y d n) (g.exec h) g { g with regs := (afterPut g h d n val).regs } := by
  unfold afterPut
  cases hy : h.y
  · simp only [Bool.false_eq_true, if_false]
    rw [← wrLanes_eq]
    refine ⟨fun r l hl hr => ?_, fun r _ => ?_, fun r l _ _ => ?_, fun r _ => ?_, fun r _ => ?_⟩
    · rw [mem_destRegs_v] at hr
      have hn : ¬ (l ∈ lanes (g.exec h) ∧ d ≤ r ∧ r < d + n) := by
        rintro ⟨h1, h2⟩
        rcases hr with h3 | h3
        · exact h3 ⟨rfl, h2⟩
        · rw [(mem_lanes.1 h1).2] at h3; cases h3
      rw [rdV_wrLanes _ _ _ _ _ (fun l hl => (mem_lanes.1 hl).1) _ _ hl, vpois_wrLanes _ _ _ _ _ (fun l hl => (mem_lanes.1 hl).1) _ _ hl,
        if_neg hn, if_neg hn]
      exact ⟨rfl, rfl⟩
    · simp [Ctx.rdS, wrLanes_s]
    · simp [Ctx.rdP, wrLanes_p]
    · simp [Ctx.rdC, wrLanes_c]
    · simp [Ctx.rdW, wrLanes_w]
  · simp only [if_true]
    rw [← Ctx.wr_eq]
    refine ⟨fun r l _ _ => ?_, fun r hr => ?_, fun r l _ _ => ?_, fun r _ => ?_, fun r _ => ?_⟩
    · simp [Ctx.rdV, Ctx.vpois]
    · rw [mem_destRegs_s] at hr
      rw [Ctx.rdS_wr, if_neg]
      rintro ⟨h1, h2, -⟩; exact hr ⟨rfl, h1, h2⟩
    · simp [Ctx.rdP]
    · simp [Ctx.rdC]
    · simp [Ctx.rdW]

theorem afterPut_holds (g : Ctx) (h : Hdr) (d n : Nat) (val : Nat → Nat) (l : Nat) (hl : l ∈ actLanes g h) :
    Holds { g with regs := (afterPut g h d n val).regs } h.y d l n (val l) := by
  unfold afterPut actLanes at *
  intro k hk
  cases hy : h.y
  · simp only [hy, Bool.false_eq_true, if_false] at hl ⊢
    rw [← wrLanes_eq, rdV_wrLanes _ _ _ _ _ (fun l hl => (mem_lanes.1 hl).1) _ _ (mem_lanes.1 hl).1,
      vpois_wrLanes _ _ _ _ _ (fun l hl => (mem_lanes.1 hl).1) _ _ (mem_lanes.1 hl).1, if_pos ⟨hl, by omega, by omega⟩,
      if_pos ⟨hl, by omega, by omega⟩, Nat.add_sub_cancel_left]
    exact ⟨rfl, rfl⟩
  · simp only [hy, if_true, List.mem_singleton] at hl ⊢
    subst hl
    rw [← Ctx.wr_eq, Ctx.rdS_wr]
    by_cases h63 : d + k = 63
    · simp [h63]
    · rw [if_pos ⟨by omega, by omega, h63⟩, if_neg h63, Nat.add_sub_cancel_left]

/-- The context after `putPred`. -/
def afterPred (g : Ctx) (h : Hdr) (d : Nat) (val : Nat → Bool) : Ctx :=
  if h.y then g.wrC d (val 0) else g.wrP d (g.exec h) (maskWhere val)

theorem putPred_eq (h : Hdr) (d : Nat) (val : Nat → Bool) (s : State) :
    putPred h d val s = s.modG (fun g => { g with regs := (afterPred g h d val).regs }) := by
  unfold putPred afterPred State.modG
  cases hy : h.y
  · simp only [Bool.false_eq_true, if_false]; rw [Ctx.wrP_eq]
  · simp only [if_true]; rw [Ctx.wrC_eq]

theorem bit_foldl_or (ls : List Nat) (m : Word) (l : Nat) (hl : l < 32) :
    bit (ls.foldl (fun m l => m ||| BitVec.ofNat 32 (2 ^ l)) m) l = (bit m l || ls.contains l) := by
  induction ls generalizing m with
  | nil => simp
  | cons k ls ih =>
    simp only [List.foldl_cons]
    rw [ih]
    simp only [bit, BitVec.getLsbD_or, BitVec.getLsbD_ofNat, hl, decide_true, Bool.true_and, List.contains_cons, Nat.testBit_two_pow]
    rw [show (l == k) = decide (k = l) by rw [Bool.eq_iff_iff]; simp; exact eq_comm, Bool.or_assoc]

theorem bit_maskOf (ls : List Nat) (l : Nat) (hl : l < 32) : bit (maskOf ls) l = ls.contains l := by
  unfold maskOf; rw [bit_foldl_or _ _ _ hl]; simp [bit]

theorem bit_maskWhere (p : Nat → Bool) (l : Nat) (hl : l < 32) : bit (maskWhere p) l = p l := by
  unfold maskWhere; rw [bit_maskOf _ _ hl]
  cases h : p l
  · simp [h]
  · simp [h, hl]

/-- The register of a predicate destination. -/
def destPred (y : Bool) (d : Nat) : List Reg := [if y then .c d else .p d]

theorem afterPred_sameBut (g : Ctx) (h : Hdr) (d : Nat) (val : Nat → Bool) :
    SameBut (destPred h.y d) (g.exec h) g { g with regs := (afterPred g h d val).regs } := by
  unfold afterPred destPred
  cases hy : h.y
  · simp only [Bool.false_eq_true, if_false]
    rw [← Ctx.wrP_eq]
    refine ⟨fun r l _ _ => ?_, fun r _ => ?_, fun r l hl hr => ?_, fun r _ => ?_, fun r _ => ?_⟩
    · simp [Ctx.rdV, Ctx.vpois]
    · simp [Ctx.rdS]
    · rw [Ctx.bit_rdP_wrP _ _ _ _ _ _ hl, if_neg]
      rintro ⟨rfl, -, h3⟩
      simp [h3] at hr
    · simp [Ctx.rdC]
    · simp [Ctx.rdW]
  · simp only [if_true]
    rw [← Ctx.wrC_eq]
    refine ⟨fun r l _ _ => ?_, fun r _ => ?_, fun r l hl hr => ?_, fun r hr => ?_, fun r _ => ?_⟩
    · simp [Ctx.rdV, Ctx.vpois]
    · simp [Ctx.rdS]
    · simp [Ctx.rdP]
    · rw [Ctx.rdC_wrC, if_neg]
      rintro ⟨rfl, -⟩; simp at hr
    · simp [Ctx.rdW]

theorem afterPred_holds (g : Ctx) (h : Hdr) (d : Nat) (val : Nat → Bool) (l : Nat) (hl : l ∈ actLanes g h) :
    HoldsP { g with regs := (afterPred g h d val).regs } h.y d l (val l) := by
  unfold afterPred actLanes HoldsP rdPred at *
  cases hy : h.y
  · simp only [hy, Bool.false_eq_true, if_false] at hl ⊢
    obtain ⟨h1, h2⟩ := mem_lanes.1 hl
    rw [← Ctx.wrP_eq, Ctx.bit_rdP_wrP _ _ _ _ _ _ h1, bit_maskWhere _ _ h1]
    by_cases h7 : d = 7
    · subst h7; simp [bit_allLanes h1]
    · simp [h7, h2]
  · simp only [hy, if_true, List.mem_singleton] at hl ⊢
    subst hl
    rw [← Ctx.wrC_eq, Ctx.rdC_wrC]
    by_cases h7 : d = 7
    · subst h7; simp
    · simp [h7]

end Sys2Proof.Machine
end

