-- ==== Sys2Proof/Laws/Issue.lean ====
section
/-! SUPPORT. Laws of issue: what every program instruction does around its own effect, said once. -/

namespace Sys2Proof.Machine

@[simp] theorem issue_isNext (i : Instr) (s : State) (body : State → Eff) : goesOn (issue i s body) := by
  unfold issue goesOn; split <;> exact ⟨_, rfl⟩

@[simp] theorem event_isNext (s : State) (due : Bool) (f : State → State) : goesOn (event s due f) := ⟨_, rfl⟩

@[simp] theorem event_true (s : State) (f : State → State) : event s true f = .next (f s) := rfl
@[simp] theorem event_false (s : State) (f : State → State) : event s false f = .next s := rfl

@[simp] theorem killLanes_zero (s : State) (c : CtxRef) (src level loc va : Nat) : s.killLanes c 0 0 src level loc va = s := by
  simp [State.killLanes]

/-- How an effect ends, for an instruction that issued in `s` and whose targets' lines the state `t` holds. -/
def ends (i : Instr) (t : State) (e : Eff) : State := finish i.shape.op t (e.drawing i)

theorem effect_sound {i : Instr} {t : State} {body : State → Eff} (hg : guardedOff i t.g = false) (hd : deathsOf i t.g = 0)
    (hl : lostUniform i t.g = false) : effect i t body = ends i t (body t) := by
  simp [effect, ends, hg, hd, hl]

theorem verdict_clear {i : Instr} {s t : State} (hc : Clear i s) (ht : targetsCheck s (targetsOf i s.g) = .ok t) : verdict i s = .go t := by
  unfold verdict
  simp only [hc.able, Bool.not_true, Bool.false_eq_true, if_false, hc.checks, hc.free, ht, hc.tile, hc.quiet]

/-- An instruction that passes every check runs its effect. -/
theorem issue_clear_target {i : Instr} {s t : State} {body : State → Eff} (hc : Clear i s)
    (ht : targetsCheck s (targetsOf i s.g) = .ok t) (hg : t.g = s.g) : issue i s body = .next (ends i t (body t)) := by
  unfold issue
  rw [verdict_clear hc ht]
  simp only [effect_sound (hg ▸ hc.guarded) (hg ▸ hc.sound) (hg ▸ hc.clean)]

/-- The same for an instruction without targets. -/
theorem issue_clear {i : Instr} {s : State} {body : State → Eff} (hc : Clear i s) (ht : targetsOf i s.g = []) :
    issue i s body = .next (ends i s (body s)) :=
  issue_clear_target hc (by rw [ht]; rfl) rfl

theorem ends_done (i : Instr) (s u : State) : ends i s (.done u) = completed i s u := rfl

/-- An effect that only writes registers gives them, and nothing else. -/
theorem gives_of_regs {i : Instr} {s : State} {body : State → Eff} {r : Regs} {gstat : Word} {ok : Ctx → Prop}
    (he : exec i s = issue i s body) (hc : Clear i s) (ht : targetsOf i s.g = [])
    (hb : body s = .done (s.modG (fun g => { g with regs := r, gstat := gstat })))
    (hr : SameBut i.shape.writes (s.g.exec i.shape.hdr) s.g { s.g with regs := r }) (hk : ok { s.g with regs := r }) :
    Gives i s gstat ok :=
  ⟨r, by rw [he, issue_clear hc ht, hb, ends_done], hr, hk⟩

theorem SameBut.mono {ds ds' : List Reg} {act : Word} {g g' : Ctx} (h : SameBut ds act g g') (hd : ∀ r ∈ ds, r ∈ ds') :
    SameBut ds' act g g' :=
  ⟨fun r l hl hr => h.v r l hl (hr.imp_left fun hn hm => hn (hd _ hm)), fun r hr => h.s r fun hm => hr (hd _ hm),
   fun r l hl hr => h.p r l hl (hr.imp_left fun hn hm => hn (hd _ hm)), fun r hr => h.c r fun hm => hr (hd _ hm),
   fun r hr => h.w r fun hm => hr (hd _ hm)⟩

theorem SameBut.refl (ds : List Reg) (act : Word) (g : Ctx) : SameBut ds act g g :=
  ⟨fun _ _ _ _ => ⟨rfl, rfl⟩, fun _ _ => rfl, fun _ _ _ _ => rfl, fun _ _ => rfl, fun _ _ => rfl⟩

/-- An instruction that writes its D register group in the acting lanes. -/
theorem gives_putRegs {i : Instr} {s : State} {body : State → Eff} {h : Hdr} {d n : Nat} {val : Nat → Nat} {is : Nat → Nat → Prop}
    (he : exec i s = issue i s body) (hc : Clear i s) (ht : targetsOf i s.g = []) (hb : body s = .done (putRegs h d n val s))
    (hh : i.shape.hdr = h) (hw : ∀ r ∈ destRegs h.y d n, r ∈ i.shape.writes) (hv : ∀ l ∈ actLanes s.g h, is l (val l)) :
    Gives i s s.g.gstat (Result s h d n is) := by
  refine gives_of_regs (r := (afterPut s.g h d n val).regs) he hc ht (by rw [hb, putRegs_eq]; rfl) ?_ ?_
  · rw [hh]; exact (afterPut_sameBut s.g h d n val).mono hw
  · exact fun l hl => ⟨val l, hv l hl, afterPut_holds s.g h d n val l hl⟩

/-- An instruction that writes its D predicate in the acting lanes. -/
theorem gives_putPred {i : Instr} {s : State} {body : State → Eff} {h : Hdr} {d : Nat} {val is : Nat → Bool}
    (he : exec i s = issue i s body) (hc : Clear i s) (ht : targetsOf i s.g = []) (hb : body s = .done (putPred h d val s))
    (hh : i.shape.hdr = h) (hw : ∀ r ∈ destPred h.y d, r ∈ i.shape.writes) (hv : ∀ l ∈ actLanes s.g h, val l = is l) :
    Gives i s s.g.gstat (ResultP s h d is) := by
  refine gives_of_regs (r := (afterPred s.g h d val).regs) he hc ht (by rw [hb, putPred_eq]; rfl) ?_ ?_
  · rw [hh]; exact (afterPred_sameBut s.g h d val).mono hw
  · exact fun l hl => hv l hl ▸ afterPred_holds s.g h d val l hl

/-- Every program instruction is an issue of its own effect. -/
theorem exec_program (i : Instr) (h : i.isEvent = false) (s : State) : ∃ body, exec i s = issue i s body := by
  cases i <;> first | exact ⟨_, rfl⟩ | exact absurd h (by decide)

/-! ### Values -/

theorem wrapTo_lt (w : Nat) (z : Int) : wrapTo w z < 2 ^ w := by
  have h : (0 : Int) < ((2 ^ w : Nat) : Int) := Int.ofNat_lt.2 (Nat.two_pow_pos w)
  have h1 := Int.emod_nonneg z (Int.ne_of_gt h)
  have h2 := Int.emod_lt_of_pos z h
  unfold wrapTo; omega

theorem wrapTo_emod (w : Nat) (z : Int) : ((wrapTo w z : Nat) : Int) % ((2 ^ w : Nat) : Int) = z % ((2 ^ w : Nat) : Int) := by
  have h : (0 : Int) < ((2 ^ w : Nat) : Int) := Int.ofNat_lt.2 (Nat.two_pow_pos w)
  have h1 := Int.emod_nonneg z (Int.ne_of_gt h)
  unfold wrapTo
  rw [Int.toNat_of_nonneg h1]
  exact Int.emod_emod_of_dvd z (Int.dvd_refl _)

theorem isMod_wrapTo (w : Nat) (z : Int) : IsMod w z (wrapTo w z) := ⟨wrapTo_lt w z, wrapTo_emod w z⟩

theorem clampInt_eq (lo hi x : Int) (h : lo ≤ hi) : clampInt lo hi x = max lo (min hi x) := by
  unfold clampInt; split
  · omega
  · split <;> omega

theorem tyMin_le_tyMax (t : Ty) : tyMin t ≤ tyMax t := by cases t <;> decide

theorem isMod_narrow (t : Ty) (b : Bool) (z : Int) :
    IsMod t.bits (if b then max (tyMin t) (min (tyMax t) z) else z) (narrow t b z) := by
  unfold narrow; rw [clampInt_eq _ _ _ (tyMin_le_tyMax t)]; exact isMod_wrapTo _ _

/-! ### The registers that the D field names -/

theorem destRegs_eq (y : Bool) (d n al : Nat) : destRegs y d n = (Opd.dst .vs n al).regs y d := by
  cases y <;> simp [destRegs, Opd.dst, Opd.regs, Opd.span, Cls.under, List.map_map, Function.comp_def]

theorem destRegs_vec (d n al : Nat) : destRegs false d n = (Opd.dst .vec n al).regs false d := by
  simp [destRegs, Opd.dst, Opd.regs, Opd.span, Cls.under, List.map_map, Function.comp_def]

theorem destPred_eq (y : Bool) (d : Nat) : destPred y d = (Opd.dst .pc).regs y d := by
  cases y <;> simp [destPred, Opd.dst, Opd.regs, Opd.span, Cls.under]

theorem row3_writes {f : F3} {op : Nat} {k : Kind} {tys : List Ty} {d a b x : Opd} {imm : ImmUse} {rnd : RndUse} {var extra : Bool} :
    ∀ r ∈ d.written f.h.y f.d.toNat, r ∈ (Shape.row3 f op k tys d a b x imm rnd var extra).writes := by
  intro r hr
  simp only [Shape.row3, Shape.writes, Shape.fields, F3Spec.fields, Shape.hdr, List.map_cons, List.flatten_cons, List.mem_append]
  exact Or.inl hr

theorem row3_writes_d {f : F3} {op : Nat} {k : Kind} {tys : List Ty} {n al : Nat} {a b x : Opd} {imm : ImmUse} {rnd : RndUse} {var extra : Bool} :
    ∀ r ∈ destRegs f.h.y f.d.toNat n, r ∈ (Shape.row3 f op k tys (Opd.dst .vs n al) a b x imm rnd var extra).writes := by
  rw [destRegs_eq _ _ _ al]; exact row3_writes (d := Opd.dst .vs n al)

theorem row3_writes_p {f : F3} {op : Nat} {k : Kind} {tys : List Ty} {a b x : Opd} {imm : ImmUse} {rnd : RndUse} {var extra : Bool} :
    ∀ r ∈ destPred f.h.y f.d.toNat, r ∈ (Shape.row3 f op k tys (Opd.dst .pc) a b x imm rnd var extra).writes := by
  rw [destPred_eq]; exact row3_writes (d := Opd.dst .pc)

/-- An instruction that runs clear is well formed. -/
theorem Clear.wf {i : Instr} {s : State} (h : Clear i s) : i.wf = true := by
  have h1 := h.checks
  simp only [staticCheck] at h1
  by_cases hw : i.wf = true
  · exact hw
  · rw [Bool.not_eq_true] at hw
    simp only [hw, Bool.not_false, if_true] at h1
    by_cases h2 : i.shape.op = 0xFF ∨ s.g.isSys = true ∧ noSysOp i.shape.op = true
    · rw [if_pos h2] at h1; cases h1
    · rw [if_neg h2] at h1; cases h1

end Sys2Proof.Machine
end

