-- ==== Sys2Proof/Laws/Fetch.lean ====
section
/-! SUPPORT. Laws of fetching a line: the caches it fills, and everything it leaves alone. -/

namespace Sys2Proof.Machine

/-- What fetching, checking and logging leave alone: contexts and memory; no poison is lifted. -/
structure Untouched (s t : State) : Prop where
  g : t.g = s.g
  others : t.others = s.others
  mem : t.mem = s.mem
  poison : ∀ l, s.poisoned l = true → t.poisoned l = true
  clock : t.clock = s.clock
  teams : t.teams = s.teams
  prefs : t.prefs = s.prefs

theorem Untouched.refl (s : State) : Untouched s s := ⟨rfl, rfl, rfl, fun _ h => h, rfl, rfl, rfl⟩

theorem Untouched.trans {s t u : State} (h : Untouched s t) (k : Untouched t u) : Untouched s u :=
  ⟨k.g.trans h.g, k.others.trans h.others, k.mem.trans h.mem, fun l x => k.poison l (h.poison l x), k.clock.trans h.clock, k.teams.trans h.teams,
   k.prefs.trans h.prefs⟩

theorem logError_untouched (s : State) (src kind loc : Nat) (h : DWord) : Untouched s (s.logError src kind loc h) :=
  ⟨rfl, rfl, rfl, fun _ h => h, rfl, rfl, rfl⟩

theorem remember_untouched (s : State) (c : Nat) (t : Tr) : Untouched s (s.remember c t) := by
  unfold State.remember; split
  · exact .refl s
  · exact ⟨rfl, rfl, rfl, fun _ h => h, rfl, rfl, rfl⟩

theorem poisonRange_untouched (s : State) (l n : Nat) : Untouched s (s.poisonRange l n) := by
  refine ⟨rfl, rfl, rfl, fun x hx => ?_, rfl, rfl, rfl⟩
  unfold State.poisoned State.poisonRange at *
  generalize List.range (ceilDiv (l % 8 + n) 8) = ks
  generalize s.poison = m at hx
  induction ks generalizing m with
  | nil => exact hx
  | cons k ks ih =>
    refine ih _ ?_
    rw [SMap.get_set]; split
    · rfl
    · exact hx

theorem rowEvent_untouched (s : State) (l : Nat) (ok : Bool) : Untouched s (s.rowEvent l ok) := by
  unfold State.rowEvent; simp only; split
  · exact ⟨rfl, rfl, rfl, fun _ h => h, rfl, rfl, rfl⟩
  · exact .refl s

theorem macFailed_untouched (s : State) (l : Nat) : Untouched s (s.macFailed l) :=
  ((poisonRange_untouched s _ _).trans (rowEvent_untouched ..)).trans (logError_untouched ..)

theorem peek_untouched (s : State) (c : Crypt) (l n : Nat) : Untouched s (s.peek c l n).1 := by
  unfold State.peek
  split
  · split
    · exact .refl s
    · exact macFailed_untouched s l
  · exact .refl s

theorem fetchLine_untouched {s t : State} {g : Ctx} {a : Nat} {d : BitVec 512} {good : Bool} (h : s.fetchLine g a = .ok (t, d, good)) :
    Untouched s t := by
  simp only [State.fetchLine] at h
  split at h
  · cases h
  · split at h
    · cases h
    · split at h
      · cases h
      · rename_i tr _ _ _ _
        split at h
        · cases h; exact remember_untouched ..
        · split at h <;> cases h <;> rename_i hp
          all_goals
            refine (remember_untouched s g.cluster tr).trans ?_
            have hu := peek_untouched (s.remember g.cluster tr) tr.crypt (tr.loc (a / 64 * 64)) 64
            exact ⟨hu.g, hu.others, hu.mem, hu.poison, hu.clock, hu.teams, hu.prefs⟩

theorem target_untouched {s t : State} {a : Nat} {d : BitVec 512} {good : Bool} (h : s.target a = .ok (t, d, good)) : Untouched s t := by
  unfold State.target at h
  split at h
  · cases h
  · split at h
    · cases h
    · split at h
      · cases h; exact fetchLine_untouched (by assumption)
      · cases h

theorem targetsCheck_untouched {l : List (Nat × Bool)} {s t : State} (h : targetsCheck s l = .ok t) : Untouched s t := by
  induction l generalizing s with
  | nil => cases h; exact .refl _
  | cons a l ih =>
    obtain ⟨a, b⟩ := a
    cases b <;> unfold targetsCheck at h <;> split at h
    · exact ih h
    · cases h
    · cases h
    · exact (target_untouched (by assumption)).trans (ih h)

/-- An instruction that runs clear and whose targets can be reached runs its effect in a state that differs from its own in caches alone. -/
theorem issue_reaches {i : Instr} {s : State} {body : State → Eff} (hc : Clear i s) (hr : Reaches i s) :
    ∃ t, targetsCheck s (targetsOf i s.g) = .ok t ∧ Untouched s t ∧ issue i s body = .next (ends i t (body t)) := by
  obtain ⟨t, ht⟩ := hr
  have hu := targetsCheck_untouched ht
  exact ⟨t, ht, hu, issue_clear_target hc ht hu.g⟩

theorem exec_reaches {i : Instr} {s : State} {body : State → Eff} (he : exec i s = issue i s body) (hc : Clear i s) (hr : Reaches i s) :
    ∃ t, targetsCheck s (targetsOf i s.g) = .ok t ∧ Untouched s t ∧ exec i s = .next (ends i t (body t)) :=
  he ▸ issue_reaches hc hr

/-- A jump goes to its address; besides the line in hand it changes caches alone. -/
theorem jump_goes (s : State) (a : Nat) : ∃ t line, jump s a = .goto t a ∧ t.g = { s.g with flow := { s.g.flow with line := line } } ∧
    t.mem = s.mem ∧ (∀ l, s.poisoned l = true → t.poisoned l = true) ∧ t.clock = s.clock := by
  unfold jump
  split
  · rename_i t d good h
    have hu := target_untouched h
    refine ⟨t.keepLine a d good, if good then some (a / 64 * 64, d) else none, rfl, ?_, hu.mem, hu.poison, hu.clock⟩
    simp only [State.keepLine, State.modG, hu.g]
  · exact ⟨s, s.g.flow.line, rfl, rfl, rfl, fun _ h => h, rfl⟩

end Sys2Proof.Machine
end

