-- ==== Sys2Proof/Laws/Control.lean ====
section
/-! SUPPORT. Laws of control instructions: pushing entries, and how a meaning that jumps, goes on or falls through ends. -/

namespace Sys2Proof.Machine

theorem pushing_room {s : State} {es : List Entry} {k : State → Eff} (h : s.g.flow.stack.length + es.length ≤ 30) :
    pushing s es k = k (s.modG (fun g => es.foldl Ctx.push g)) := by
  unfold pushing; rw [if_neg (by omega)]

theorem pushing_full {s : State} {es : List Entry} {k : State → Eff} (h : 30 < s.g.flow.stack.length + es.length) :
    pushing s es k = .trap 0x0B (BitVec.ofNat 64 s.g.flow.stack.length) := by
  unfold pushing; rw [if_pos h]

/-- A state that differs from `s` only where `Moved` allows, before control has moved. -/
structure Ready (s u : State) (active : Word) (stack : List Entry) : Prop where
  active : u.g.flow.active = active
  stack : u.g.flow.stack = stack
  exited : u.g.flow.exited = s.g.flow.exited
  dead : u.g.flow.dead = s.g.flow.dead
  sig : u.g.flow.sig = s.g.flow.sig
  regs : u.g.regs = s.g.regs
  gstat : u.g.gstat = s.g.gstat
  traps : u.g.traps = s.g.traps
  mem : u.mem = s.mem
  poison : ∀ l, s.poisoned l = true → u.poisoned l = true

theorem Ready.of_untouched {s t : State} (hu : Untouched s t) : Ready s t s.g.flow.active s.g.flow.stack := by
  constructor <;> first | exact hu.poison | simp only [hu.g, hu.mem]

theorem moved_goto {i : Instr} {s t u : State} {a : Nat} {active : Word} {stack : List Entry} (hop : hashedOp i.shape.op = false)
    (hr : Ready s u active stack) : Moved s (ends i t (.goto u a)) a active stack := by
  have e : ends i t (.goto u a) = retire i.shape.op t u a := rfl
  rw [e]
  obtain ⟨h1, h2, h3, h4, h5, h6, h7, h8, h9, h10⟩ := hr
  constructor
  case poison => exact h10
  all_goals simp_all [retire, State.modG, hashInto]

theorem moved_jump {i : Instr} {s t u : State} {a : Nat} {active : Word} {stack : List Entry} (hop : hashedOp i.shape.op = false)
    (hr : Ready s u active stack) : Moved s (ends i t (jump u a)) a active stack := by
  obtain ⟨v, line, hv, hg, hm, hp, -⟩ := jump_goes u a
  rw [hv]
  have hf : v.g.flow = { u.g.flow with line := line } := by rw [hg]
  refine moved_goto hop ⟨?_, ?_, ?_, ?_, ?_, ?_, ?_, ?_, ?_, ?_⟩
  · rw [hf]; exact hr.active
  · rw [hf]; exact hr.stack
  · rw [hf]; exact hr.exited
  · rw [hf]; exact hr.dead
  · rw [hf]; exact hr.sig
  · rw [hg]; exact hr.regs
  · rw [hg]; exact hr.gstat
  · rw [hg]; exact hr.traps
  · rw [hm]; exact hr.mem
  · exact fun l h => hp l (hr.poison l h)

theorem moved_done {i : Instr} {s t u : State} {active : Word} {stack : List Entry} (hop : hashedOp i.shape.op = false)
    (hu : t.g = s.g) (hr : Ready s u active stack) : Moved s (ends i t (.done u)) (nextPc s.g.flow.pc) active stack := by
  have e : ends i t (.done u) =
    retire i.shape.op t (u.modG (fun g => { g with ns := g.ns + BitVec.ofNat 64 (drawsOf i) })) (nextPc t.g.flow.pc) := rfl
  rw [e, hu]
  obtain ⟨h1, h2, h3, h4, h5, h6, h7, h8, h9, h10⟩ := hr
  constructor
  case poison => exact h10
  all_goals simp_all [retire, State.modG, hashInto]

end Sys2Proof.Machine
end

