-- ==== Sys2Proof/Laws/State.lean ====
section
/-! SUPPORT. One lemma per field for the updates that every meaning goes through. -/

namespace Sys2Proof.Machine

/-! ### An update of the issuing context -/

@[simp] theorem modG_g (s : State) (f : Ctx → Ctx) : (s.modG f).g = f s.g := rfl
@[simp] theorem modG_clock (s : State) (f : Ctx → Ctx) : (s.modG f).clock = s.clock := rfl
@[simp] theorem modG_others (s : State) (f : Ctx → Ctx) : (s.modG f).others = s.others := rfl
@[simp] theorem modG_mem (s : State) (f : Ctx → Ctx) : (s.modG f).mem = s.mem := rfl
@[simp] theorem modG_poison (s : State) (f : Ctx → Ctx) : (s.modG f).poison = s.poison := rfl
@[simp] theorem modG_locks (s : State) (f : Ctx → Ctx) : (s.modG f).locks = s.locks := rfl
@[simp] theorem modG_icache (s : State) (f : Ctx → Ctx) : (s.modG f).icache = s.icache := rfl
@[simp] theorem modG_tlb (s : State) (f : Ctx → Ctx) : (s.modG f).tlb = s.tlb := rfl
@[simp] theorem modG_roots (s : State) (f : Ctx → Ctx) : (s.modG f).roots = s.roots := rfl
@[simp] theorem modG_rmap (s : State) (f : Ctx → Ctx) : (s.modG f).rmap = s.rmap := rfl
@[simp] theorem modG_worlds (s : State) (f : Ctx → Ctx) : (s.modG f).worlds = s.worlds := rfl
@[simp] theorem modG_keys (s : State) (f : Ctx → Ctx) : (s.modG f).keys = s.keys := rfl
@[simp] theorem modG_keyCache (s : State) (f : Ctx → Ctx) : (s.modG f).keyCache = s.keyCache := rfl
@[simp] theorem modG_wrapped (s : State) (f : Ctx → Ctx) : (s.modG f).wrapped = s.wrapped := rfl
@[simp] theorem modG_ringWit (s : State) (f : Ctx → Ctx) : (s.modG f).ringWit = s.ringWit := rfl
@[simp] theorem modG_rowErr (s : State) (f : Ctx → Ctx) : (s.modG f).rowErr = s.rowErr := rfl
@[simp] theorem modG_badMail (s : State) (f : Ctx → Ctx) : (s.modG f).badMail = s.badMail := rfl
@[simp] theorem modG_chosen (s : State) (f : Ctx → Ctx) : (s.modG f).chosen = s.chosen := rfl
@[simp] theorem modG_bufs (s : State) (f : Ctx → Ctx) : (s.modG f).bufs = s.bufs := rfl
@[simp] theorem modG_tags (s : State) (f : Ctx → Ctx) : (s.modG f).tags = s.tags := rfl
@[simp] theorem modG_sweeps (s : State) (f : Ctx → Ctx) : (s.modG f).sweeps = s.sweeps := rfl
@[simp] theorem modG_errUE (s : State) (f : Ctx → Ctx) : (s.modG f).errUE = s.errUE := rfl
@[simp] theorem modG_errCE (s : State) (f : Ctx → Ctx) : (s.modG f).errCE = s.errCE := rfl
@[simp] theorem modG_errSeq (s : State) (f : Ctx → Ctx) : (s.modG f).errSeq = s.errSeq := rfl
@[simp] theorem modG_errLog (s : State) (f : Ctx → Ctx) : (s.modG f).errLog = s.errLog := rfl
@[simp] theorem modG_accs (s : State) (f : Ctx → Ctx) : (s.modG f).accs = s.accs := rfl
@[simp] theorem modG_done_ (s : State) (f : Ctx → Ctx) : (s.modG f).done_ = s.done_ := rfl
@[simp] theorem modG_tiles (s : State) (f : Ctx → Ctx) : (s.modG f).tiles = s.tiles := rfl
@[simp] theorem modG_peers (s : State) (f : Ctx → Ctx) : (s.modG f).peers = s.peers := rfl
@[simp] theorem modG_sysSeen (s : State) (f : Ctx → Ctx) : (s.modG f).sysSeen = s.sysSeen := rfl
@[simp] theorem modG_peerSeen (s : State) (f : Ctx → Ctx) : (s.modG f).peerSeen = s.peerSeen := rfl
@[simp] theorem modG_lastExchange (s : State) (f : Ctx → Ctx) : (s.modG f).lastExchange = s.lastExchange := rfl
@[simp] theorem modG_sentHorizon (s : State) (f : Ctx → Ctx) : (s.modG f).sentHorizon = s.sentHorizon := rfl
@[simp] theorem modG_teams (s : State) (f : Ctx → Ctx) : (s.modG f).teams = s.teams := rfl
@[simp] theorem modG_gangs (s : State) (f : Ctx → Ctx) : (s.modG f).gangs = s.gangs := rfl
@[simp] theorem modG_mxq (s : State) (f : Ctx → Ctx) : (s.modG f).mxq = s.mxq := rfl
@[simp] theorem modG_cands (s : State) (f : Ctx → Ctx) : (s.modG f).cands = s.cands := rfl
@[simp] theorem modG_passes (s : State) (f : Ctx → Ctx) : (s.modG f).passes = s.passes := rfl
@[simp] theorem modG_deadAt (s : State) (f : Ctx → Ctx) : (s.modG f).deadAt = s.deadAt := rfl
@[simp] theorem modG_cmds (s : State) (f : Ctx → Ctx) : (s.modG f).cmds = s.cmds := rfl
@[simp] theorem modG_arrivals (s : State) (f : Ctx → Ctx) : (s.modG f).arrivals = s.arrivals := rfl
@[simp] theorem modG_gridCtr (s : State) (f : Ctx → Ctx) : (s.modG f).gridCtr = s.gridCtr := rfl
@[simp] theorem modG_grids (s : State) (f : Ctx → Ctx) : (s.modG f).grids = s.grids := rfl
@[simp] theorem modG_saved (s : State) (f : Ctx → Ctx) : (s.modG f).saved = s.saved := rfl
@[simp] theorem modG_late (s : State) (f : Ctx → Ctx) : (s.modG f).late = s.late := rfl
@[simp] theorem modG_prefs (s : State) (f : Ctx → Ctx) : (s.modG f).prefs = s.prefs := rfl
@[simp] theorem modG_wires (s : State) (f : Ctx → Ctx) : (s.modG f).wires = s.wires := rfl
@[simp] theorem modG_iocmds (s : State) (f : Ctx → Ctx) : (s.modG f).iocmds = s.iocmds := rfl
@[simp] theorem modG_hub (s : State) (f : Ctx → Ctx) : (s.modG f).hub = s.hub := rfl
@[simp] theorem modG_front (s : State) (f : Ctx → Ctx) : (s.modG f).front = s.front := rfl
@[simp] theorem modG_power (s : State) (f : Ctx → Ctx) : (s.modG f).power = s.power := rfl
@[simp] theorem modG_nvm (s : State) (f : Ctx → Ctx) : (s.modG f).nvm = s.nvm := rfl
@[simp] theorem modG_meas (s : State) (f : Ctx → Ctx) : (s.modG f).meas = s.meas := rfl
@[simp] theorem modG_spdmSide (s : State) (f : Ctx → Ctx) : (s.modG f).spdmSide = s.spdmSide := rfl
@[simp] theorem modG_spdmPcie (s : State) (f : Ctx → Ctx) : (s.modG f).spdmPcie = s.spdmPcie := rfl
@[simp] theorem modG_kernel (s : State) (f : Ctx → Ctx) : (s.modG f).kernel = s.kernel := rfl
@[simp] theorem modG_out (s : State) (f : Ctx → Ctx) : (s.modG f).out = s.out := rfl
@[simp] theorem modG_nextId (s : State) (f : Ctx → Ctx) : (s.modG f).nextId = s.nextId := rfl
@[simp] theorem modG_freeCtr (s : State) (f : Ctx → Ctx) : (s.modG f).freeCtr = s.freeCtr := rfl
@[simp] theorem modG_arg (s : State) (f : Ctx → Ctx) : (s.modG f).arg = s.arg := rfl
@[simp] theorem modG_sched (s : State) (f : Ctx → Ctx) : (s.modG f).sched = s.sched := rfl
@[simp] theorem modG_modG (s : State) (f k : Ctx → Ctx) : (s.modG f).modG k = s.modG (fun g => k (f g)) := rfl

/-! ### Ctx.setPc -/

@[simp] theorem setPc_ids (g : Ctx) (a : Nat) : (g.setPc a).ids = g.ids := rfl
@[simp] theorem setPc_regs (g : Ctx) (a : Nat) : (g.setPc a).regs = g.regs := rfl
@[simp] theorem setPc_traps (g : Ctx) (a : Nat) : (g.setPc a).traps = g.traps := rfl
@[simp] theorem setPc_slot (g : Ctx) (a : Nat) : (g.setPc a).slot = g.slot := rfl
@[simp] theorem setPc_wait (g : Ctx) (a : Nat) : (g.setPc a).wait = g.wait := rfl
@[simp] theorem setPc_sched (g : Ctx) (a : Nat) : (g.setPc a).sched = g.sched := rfl
@[simp] theorem setPc_pop (g : Ctx) (a : Nat) : (g.setPc a).pop = g.pop := rfl
@[simp] theorem setPc_cmds (g : Ctx) (a : Nat) : (g.setPc a).cmds = g.cmds := rfl
@[simp] theorem setPc_pend (g : Ctx) (a : Nat) : (g.setPc a).pend = g.pend := rfl
@[simp] theorem setPc_log (g : Ctx) (a : Nat) : (g.setPc a).log = g.log := rfl
@[simp] theorem setPc_logSeq (g : Ctx) (a : Nat) : (g.setPc a).logSeq = g.logSeq := rfl
@[simp] theorem setPc_lastPage (g : Ctx) (a : Nat) : (g.setPc a).lastPage = g.lastPage := rfl
@[simp] theorem setPc_mark (g : Ctx) (a : Nat) : (g.setPc a).mark = g.mark := rfl
@[simp] theorem setPc_ks (g : Ctx) (a : Nat) : (g.setPc a).ks = g.ks := rfl
@[simp] theorem setPc_ns (g : Ctx) (a : Nat) : (g.setPc a).ns = g.ns := rfl
@[simp] theorem setPc_gmode (g : Ctx) (a : Nat) : (g.setPc a).gmode = g.gmode := rfl
@[simp] theorem setPc_gstat (g : Ctx) (a : Nat) : (g.setPc a).gstat = g.gstat := rfl
@[simp] theorem setPc_n (g : Ctx) (a : Nat) : (g.setPc a).n = g.n := rfl
@[simp] theorem setPc_rho (g : Ctx) (a : Nat) : (g.setPc a).rho = g.rho := rfl
@[simp] theorem setPc_mclass (g : Ctx) (a : Nat) : (g.setPc a).mclass = g.mclass := rfl
@[simp] theorem setPc_climit (g : Ctx) (a : Nat) : (g.setPc a).climit = g.climit := rfl
@[simp] theorem setPc_splits (g : Ctx) (a : Nat) : (g.setPc a).splits = g.splits := rfl

/-! ### Ctx.setWait -/

@[simp] theorem setWait_ids (g : Ctx) (a : Wait) : (g.setWait a).ids = g.ids := rfl
@[simp] theorem setWait_regs (g : Ctx) (a : Wait) : (g.setWait a).regs = g.regs := rfl
@[simp] theorem setWait_flow (g : Ctx) (a : Wait) : (g.setWait a).flow = g.flow := rfl
@[simp] theorem setWait_traps (g : Ctx) (a : Wait) : (g.setWait a).traps = g.traps := rfl
@[simp] theorem setWait_slot (g : Ctx) (a : Wait) : (g.setWait a).slot = g.slot := rfl
@[simp] theorem setWait_sched (g : Ctx) (a : Wait) : (g.setWait a).sched = g.sched := rfl
@[simp] theorem setWait_pop (g : Ctx) (a : Wait) : (g.setWait a).pop = g.pop := rfl
@[simp] theorem setWait_cmds (g : Ctx) (a : Wait) : (g.setWait a).cmds = g.cmds := rfl
@[simp] theorem setWait_pend (g : Ctx) (a : Wait) : (g.setWait a).pend = g.pend := rfl
@[simp] theorem setWait_log (g : Ctx) (a : Wait) : (g.setWait a).log = g.log := rfl
@[simp] theorem setWait_logSeq (g : Ctx) (a : Wait) : (g.setWait a).logSeq = g.logSeq := rfl
@[simp] theorem setWait_lastPage (g : Ctx) (a : Wait) : (g.setWait a).lastPage = g.lastPage := rfl
@[simp] theorem setWait_mark (g : Ctx) (a : Wait) : (g.setWait a).mark = g.mark := rfl
@[simp] theorem setWait_ks (g : Ctx) (a : Wait) : (g.setWait a).ks = g.ks := rfl
@[simp] theorem setWait_ns (g : Ctx) (a : Wait) : (g.setWait a).ns = g.ns := rfl
@[simp] theorem setWait_gmode (g : Ctx) (a : Wait) : (g.setWait a).gmode = g.gmode := rfl
@[simp] theorem setWait_gstat (g : Ctx) (a : Wait) : (g.setWait a).gstat = g.gstat := rfl
@[simp] theorem setWait_n (g : Ctx) (a : Wait) : (g.setWait a).n = g.n := rfl
@[simp] theorem setWait_rho (g : Ctx) (a : Wait) : (g.setWait a).rho = g.rho := rfl
@[simp] theorem setWait_mclass (g : Ctx) (a : Wait) : (g.setWait a).mclass = g.mclass := rfl
@[simp] theorem setWait_climit (g : Ctx) (a : Wait) : (g.setWait a).climit = g.climit := rfl
@[simp] theorem setWait_splits (g : Ctx) (a : Wait) : (g.setWait a).splits = g.splits := rfl

/-! ### Ctx.setStalled -/

@[simp] theorem setStalled_ids (g : Ctx) (a : Bool) : (g.setStalled a).ids = g.ids := rfl
@[simp] theorem setStalled_regs (g : Ctx) (a : Bool) : (g.setStalled a).regs = g.regs := rfl
@[simp] theorem setStalled_flow (g : Ctx) (a : Bool) : (g.setStalled a).flow = g.flow := rfl
@[simp] theorem setStalled_traps (g : Ctx) (a : Bool) : (g.setStalled a).traps = g.traps := rfl
@[simp] theorem setStalled_slot (g : Ctx) (a : Bool) : (g.setStalled a).slot = g.slot := rfl
@[simp] theorem setStalled_wait (g : Ctx) (a : Bool) : (g.setStalled a).wait = g.wait := rfl
@[simp] theorem setStalled_pop (g : Ctx) (a : Bool) : (g.setStalled a).pop = g.pop := rfl
@[simp] theorem setStalled_cmds (g : Ctx) (a : Bool) : (g.setStalled a).cmds = g.cmds := rfl
@[simp] theorem setStalled_pend (g : Ctx) (a : Bool) : (g.setStalled a).pend = g.pend := rfl
@[simp] theorem setStalled_log (g : Ctx) (a : Bool) : (g.setStalled a).log = g.log := rfl
@[simp] theorem setStalled_logSeq (g : Ctx) (a : Bool) : (g.setStalled a).logSeq = g.logSeq := rfl
@[simp] theorem setStalled_lastPage (g : Ctx) (a : Bool) : (g.setStalled a).lastPage = g.lastPage := rfl
@[simp] theorem setStalled_mark (g : Ctx) (a : Bool) : (g.setStalled a).mark = g.mark := rfl
@[simp] theorem setStalled_ks (g : Ctx) (a : Bool) : (g.setStalled a).ks = g.ks := rfl
@[simp] theorem setStalled_ns (g : Ctx) (a : Bool) : (g.setStalled a).ns = g.ns := rfl
@[simp] theorem setStalled_gmode (g : Ctx) (a : Bool) : (g.setStalled a).gmode = g.gmode := rfl
@[simp] theorem setStalled_gstat (g : Ctx) (a : Bool) : (g.setStalled a).gstat = g.gstat := rfl
@[simp] theorem setStalled_n (g : Ctx) (a : Bool) : (g.setStalled a).n = g.n := rfl
@[simp] theorem setStalled_rho (g : Ctx) (a : Bool) : (g.setStalled a).rho = g.rho := rfl
@[simp] theorem setStalled_mclass (g : Ctx) (a : Bool) : (g.setStalled a).mclass = g.mclass := rfl
@[simp] theorem setStalled_climit (g : Ctx) (a : Bool) : (g.setStalled a).climit = g.climit := rfl
@[simp] theorem setStalled_splits (g : Ctx) (a : Bool) : (g.setStalled a).splits = g.splits := rfl
@[simp] theorem setPc_pc (g : Ctx) (a : Nat) : (g.setPc a).flow.pc = a := rfl
@[simp] theorem setWait_wait (g : Ctx) (a : Wait) : (g.setWait a).wait = a := rfl
@[simp] theorem setStalled_stalled (g : Ctx) (a : Bool) : (g.setStalled a).sched.stalled = a := rfl

/-! ### Ctx.holdAtIssue -/

/-- An instruction that waits at issue changes its context's stall and at most its wait. -/
theorem holdAtIssue_cases (g : Ctx) : g.holdAtIssue = g.setStalled true ∨ g.holdAtIssue = (g.setStalled true).setWait {} := by
  unfold Ctx.holdAtIssue; split <;> simp

@[simp] theorem holdAtIssue_ids (g : Ctx) : g.holdAtIssue.ids = g.ids := by cases holdAtIssue_cases g <;> simp [*]
@[simp] theorem holdAtIssue_regs (g : Ctx) : g.holdAtIssue.regs = g.regs := by cases holdAtIssue_cases g <;> simp [*]
@[simp] theorem holdAtIssue_flow (g : Ctx) : g.holdAtIssue.flow = g.flow := by cases holdAtIssue_cases g <;> simp [*]
@[simp] theorem holdAtIssue_traps (g : Ctx) : g.holdAtIssue.traps = g.traps := by cases holdAtIssue_cases g <;> simp [*]
@[simp] theorem holdAtIssue_slot (g : Ctx) : g.holdAtIssue.slot = g.slot := by cases holdAtIssue_cases g <;> simp [*]
@[simp] theorem holdAtIssue_pop (g : Ctx) : g.holdAtIssue.pop = g.pop := by cases holdAtIssue_cases g <;> simp [*]
@[simp] theorem holdAtIssue_cmds (g : Ctx) : g.holdAtIssue.cmds = g.cmds := by cases holdAtIssue_cases g <;> simp [*]
@[simp] theorem holdAtIssue_pend (g : Ctx) : g.holdAtIssue.pend = g.pend := by cases holdAtIssue_cases g <;> simp [*]
@[simp] theorem holdAtIssue_log (g : Ctx) : g.holdAtIssue.log = g.log := by cases holdAtIssue_cases g <;> simp [*]
@[simp] theorem holdAtIssue_logSeq (g : Ctx) : g.holdAtIssue.logSeq = g.logSeq := by cases holdAtIssue_cases g <;> simp [*]
@[simp] theorem holdAtIssue_lastPage (g : Ctx) : g.holdAtIssue.lastPage = g.lastPage := by cases holdAtIssue_cases g <;> simp [*]
@[simp] theorem holdAtIssue_mark (g : Ctx) : g.holdAtIssue.mark = g.mark := by cases holdAtIssue_cases g <;> simp [*]
@[simp] theorem holdAtIssue_ks (g : Ctx) : g.holdAtIssue.ks = g.ks := by cases holdAtIssue_cases g <;> simp [*]
@[simp] theorem holdAtIssue_ns (g : Ctx) : g.holdAtIssue.ns = g.ns := by cases holdAtIssue_cases g <;> simp [*]
@[simp] theorem holdAtIssue_gmode (g : Ctx) : g.holdAtIssue.gmode = g.gmode := by cases holdAtIssue_cases g <;> simp [*]
@[simp] theorem holdAtIssue_gstat (g : Ctx) : g.holdAtIssue.gstat = g.gstat := by cases holdAtIssue_cases g <;> simp [*]
@[simp] theorem holdAtIssue_n (g : Ctx) : g.holdAtIssue.n = g.n := by cases holdAtIssue_cases g <;> simp [*]
@[simp] theorem holdAtIssue_rho (g : Ctx) : g.holdAtIssue.rho = g.rho := by cases holdAtIssue_cases g <;> simp [*]
@[simp] theorem holdAtIssue_mclass (g : Ctx) : g.holdAtIssue.mclass = g.mclass := by cases holdAtIssue_cases g <;> simp [*]
@[simp] theorem holdAtIssue_climit (g : Ctx) : g.holdAtIssue.climit = g.climit := by cases holdAtIssue_cases g <;> simp [*]
@[simp] theorem holdAtIssue_splits (g : Ctx) : g.holdAtIssue.splits = g.splits := by cases holdAtIssue_cases g <;> simp [*]
@[simp] theorem holdAtIssue_stalled (g : Ctx) : g.holdAtIssue.sched = { g.sched with stalled := true } := by unfold Ctx.holdAtIssue; split <;> rfl

/-! ### Retiring (R114, R124) -/

@[simp] theorem retire_pc (op : Nat) (s0 s : State) (a : Nat) : (retire op s0 s a).g.flow.pc = a := rfl
@[simp] theorem retire_wait (op : Nat) (s0 s : State) (a : Nat) : (retire op s0 s a).g.wait = {} := rfl
@[simp] theorem retire_g_ids (op : Nat) (s0 s : State) (a : Nat) : (retire op s0 s a).g.ids = s.g.ids := rfl
@[simp] theorem retire_g_regs (op : Nat) (s0 s : State) (a : Nat) : (retire op s0 s a).g.regs = s.g.regs := rfl
@[simp] theorem retire_g_traps (op : Nat) (s0 s : State) (a : Nat) : (retire op s0 s a).g.traps = s.g.traps := rfl
@[simp] theorem retire_g_slot (op : Nat) (s0 s : State) (a : Nat) : (retire op s0 s a).g.slot = s.g.slot := rfl
@[simp] theorem retire_g_pop (op : Nat) (s0 s : State) (a : Nat) : (retire op s0 s a).g.pop = s.g.pop := rfl
@[simp] theorem retire_g_cmds (op : Nat) (s0 s : State) (a : Nat) : (retire op s0 s a).g.cmds = s.g.cmds := rfl
@[simp] theorem retire_g_pend (op : Nat) (s0 s : State) (a : Nat) : (retire op s0 s a).g.pend = s.g.pend := rfl
@[simp] theorem retire_g_log (op : Nat) (s0 s : State) (a : Nat) : (retire op s0 s a).g.log = s.g.log := rfl
@[simp] theorem retire_g_logSeq (op : Nat) (s0 s : State) (a : Nat) : (retire op s0 s a).g.logSeq = s.g.logSeq := rfl
@[simp] theorem retire_g_lastPage (op : Nat) (s0 s : State) (a : Nat) : (retire op s0 s a).g.lastPage = s.g.lastPage := rfl
@[simp] theorem retire_g_mark (op : Nat) (s0 s : State) (a : Nat) : (retire op s0 s a).g.mark = s.g.mark := rfl
@[simp] theorem retire_g_ks (op : Nat) (s0 s : State) (a : Nat) : (retire op s0 s a).g.ks = s.g.ks := rfl
@[simp] theorem retire_g_ns (op : Nat) (s0 s : State) (a : Nat) : (retire op s0 s a).g.ns = s.g.ns := rfl
@[simp] theorem retire_g_gmode (op : Nat) (s0 s : State) (a : Nat) : (retire op s0 s a).g.gmode = s.g.gmode := rfl
@[simp] theorem retire_g_gstat (op : Nat) (s0 s : State) (a : Nat) : (retire op s0 s a).g.gstat = s.g.gstat := rfl
@[simp] theorem retire_g_n (op : Nat) (s0 s : State) (a : Nat) : (retire op s0 s a).g.n = s.g.n := rfl
@[simp] theorem retire_g_rho (op : Nat) (s0 s : State) (a : Nat) : (retire op s0 s a).g.rho = s.g.rho := rfl
@[simp] theorem retire_g_mclass (op : Nat) (s0 s : State) (a : Nat) : (retire op s0 s a).g.mclass = s.g.mclass := rfl
@[simp] theorem retire_g_climit (op : Nat) (s0 s : State) (a : Nat) : (retire op s0 s a).g.climit = s.g.climit := rfl
@[simp] theorem retire_g_splits (op : Nat) (s0 s : State) (a : Nat) : (retire op s0 s a).g.splits = s.g.splits := rfl
@[simp] theorem retire_clock (op : Nat) (s0 s : State) (a : Nat) : (retire op s0 s a).clock = s.clock := rfl
@[simp] theorem retire_others (op : Nat) (s0 s : State) (a : Nat) : (retire op s0 s a).others = s.others := rfl
@[simp] theorem retire_mem (op : Nat) (s0 s : State) (a : Nat) : (retire op s0 s a).mem = s.mem := rfl
@[simp] theorem retire_poison (op : Nat) (s0 s : State) (a : Nat) : (retire op s0 s a).poison = s.poison := rfl
@[simp] theorem retire_locks (op : Nat) (s0 s : State) (a : Nat) : (retire op s0 s a).locks = s.locks := rfl
@[simp] theorem retire_icache (op : Nat) (s0 s : State) (a : Nat) : (retire op s0 s a).icache = s.icache := rfl
@[simp] theorem retire_tlb (op : Nat) (s0 s : State) (a : Nat) : (retire op s0 s a).tlb = s.tlb := rfl
@[simp] theorem retire_roots (op : Nat) (s0 s : State) (a : Nat) : (retire op s0 s a).roots = s.roots := rfl
@[simp] theorem retire_rmap (op : Nat) (s0 s : State) (a : Nat) : (retire op s0 s a).rmap = s.rmap := rfl
@[simp] theorem retire_worlds (op : Nat) (s0 s : State) (a : Nat) : (retire op s0 s a).worlds = s.worlds := rfl
@[simp] theorem retire_keys (op : Nat) (s0 s : State) (a : Nat) : (retire op s0 s a).keys = s.keys := rfl
@[simp] theorem retire_keyCache (op : Nat) (s0 s : State) (a : Nat) : (retire op s0 s a).keyCache = s.keyCache := rfl
@[simp] theorem retire_wrapped (op : Nat) (s0 s : State) (a : Nat) : (retire op s0 s a).wrapped = s.wrapped := rfl
@[simp] theorem retire_ringWit (op : Nat) (s0 s : State) (a : Nat) : (retire op s0 s a).ringWit = s.ringWit := rfl
@[simp] theorem retire_rowErr (op : Nat) (s0 s : State) (a : Nat) : (retire op s0 s a).rowErr = s.rowErr := rfl
@[simp] theorem retire_badMail (op : Nat) (s0 s : State) (a : Nat) : (retire op s0 s a).badMail = s.badMail := rfl
@[simp] theorem retire_chosen (op : Nat) (s0 s : State) (a : Nat) : (retire op s0 s a).chosen = s.chosen := rfl
@[simp] theorem retire_bufs (op : Nat) (s0 s : State) (a : Nat) : (retire op s0 s a).bufs = s.bufs := rfl
@[simp] theorem retire_tags (op : Nat) (s0 s : State) (a : Nat) : (retire op s0 s a).tags = s.tags := rfl
@[simp] theorem retire_sweeps (op : Nat) (s0 s : State) (a : Nat) : (retire op s0 s a).sweeps = s.sweeps := rfl
@[simp] theorem retire_errUE (op : Nat) (s0 s : State) (a : Nat) : (retire op s0 s a).errUE = s.errUE := rfl
@[simp] theorem retire_errCE (op : Nat) (s0 s : State) (a : Nat) : (retire op s0 s a).errCE = s.errCE := rfl
@[simp] theorem retire_errSeq (op : Nat) (s0 s : State) (a : Nat) : (retire op s0 s a).errSeq = s.errSeq := rfl
@[simp] theorem retire_errLog (op : Nat) (s0 s : State) (a : Nat) : (retire op s0 s a).errLog = s.errLog := rfl
@[simp] theorem retire_accs (op : Nat) (s0 s : State) (a : Nat) : (retire op s0 s a).accs = s.accs := rfl
@[simp] theorem retire_done_ (op : Nat) (s0 s : State) (a : Nat) : (retire op s0 s a).done_ = s.done_ := rfl
@[simp] theorem retire_tiles (op : Nat) (s0 s : State) (a : Nat) : (retire op s0 s a).tiles = s.tiles := rfl
@[simp] theorem retire_peers (op : Nat) (s0 s : State) (a : Nat) : (retire op s0 s a).peers = s.peers := rfl
@[simp] theorem retire_sysSeen (op : Nat) (s0 s : State) (a : Nat) : (retire op s0 s a).sysSeen = s.sysSeen := rfl
@[simp] theorem retire_peerSeen (op : Nat) (s0 s : State) (a : Nat) : (retire op s0 s a).peerSeen = s.peerSeen := rfl
@[simp] theorem retire_lastExchange (op : Nat) (s0 s : State) (a : Nat) : (retire op s0 s a).lastExchange = s.lastExchange := rfl
@[simp] theorem retire_sentHorizon (op : Nat) (s0 s : State) (a : Nat) : (retire op s0 s a).sentHorizon = s.sentHorizon := rfl
@[simp] theorem retire_teams (op : Nat) (s0 s : State) (a : Nat) : (retire op s0 s a).teams = s.teams := rfl
@[simp] theorem retire_gangs (op : Nat) (s0 s : State) (a : Nat) : (retire op s0 s a).gangs = s.gangs := rfl
@[simp] theorem retire_mxq (op : Nat) (s0 s : State) (a : Nat) : (retire op s0 s a).mxq = s.mxq := rfl
@[simp] theorem retire_cands (op : Nat) (s0 s : State) (a : Nat) : (retire op s0 s a).cands = s.cands := rfl
@[simp] theorem retire_passes (op : Nat) (s0 s : State) (a : Nat) : (retire op s0 s a).passes = s.passes := rfl
@[simp] theorem retire_deadAt (op : Nat) (s0 s : State) (a : Nat) : (retire op s0 s a).deadAt = s.deadAt := rfl
@[simp] theorem retire_cmds (op : Nat) (s0 s : State) (a : Nat) : (retire op s0 s a).cmds = s.cmds := rfl
@[simp] theorem retire_arrivals (op : Nat) (s0 s : State) (a : Nat) : (retire op s0 s a).arrivals = s.arrivals := rfl
@[simp] theorem retire_gridCtr (op : Nat) (s0 s : State) (a : Nat) : (retire op s0 s a).gridCtr = s.gridCtr := rfl
@[simp] theorem retire_grids (op : Nat) (s0 s : State) (a : Nat) : (retire op s0 s a).grids = s.grids := rfl
@[simp] theorem retire_saved (op : Nat) (s0 s : State) (a : Nat) : (retire op s0 s a).saved = s.saved := rfl
@[simp] theorem retire_late (op : Nat) (s0 s : State) (a : Nat) : (retire op s0 s a).late = s.late := rfl
@[simp] theorem retire_prefs (op : Nat) (s0 s : State) (a : Nat) : (retire op s0 s a).prefs = s.prefs := rfl
@[simp] theorem retire_wires (op : Nat) (s0 s : State) (a : Nat) : (retire op s0 s a).wires = s.wires := rfl
@[simp] theorem retire_iocmds (op : Nat) (s0 s : State) (a : Nat) : (retire op s0 s a).iocmds = s.iocmds := rfl
@[simp] theorem retire_hub (op : Nat) (s0 s : State) (a : Nat) : (retire op s0 s a).hub = s.hub := rfl
@[simp] theorem retire_front (op : Nat) (s0 s : State) (a : Nat) : (retire op s0 s a).front = s.front := rfl
@[simp] theorem retire_power (op : Nat) (s0 s : State) (a : Nat) : (retire op s0 s a).power = s.power := rfl
@[simp] theorem retire_nvm (op : Nat) (s0 s : State) (a : Nat) : (retire op s0 s a).nvm = s.nvm := rfl
@[simp] theorem retire_meas (op : Nat) (s0 s : State) (a : Nat) : (retire op s0 s a).meas = s.meas := rfl
@[simp] theorem retire_spdmSide (op : Nat) (s0 s : State) (a : Nat) : (retire op s0 s a).spdmSide = s.spdmSide := rfl
@[simp] theorem retire_spdmPcie (op : Nat) (s0 s : State) (a : Nat) : (retire op s0 s a).spdmPcie = s.spdmPcie := rfl
@[simp] theorem retire_kernel (op : Nat) (s0 s : State) (a : Nat) : (retire op s0 s a).kernel = s.kernel := rfl
@[simp] theorem retire_out (op : Nat) (s0 s : State) (a : Nat) : (retire op s0 s a).out = s.out := rfl
@[simp] theorem retire_nextId (op : Nat) (s0 s : State) (a : Nat) : (retire op s0 s a).nextId = s.nextId := rfl
@[simp] theorem retire_freeCtr (op : Nat) (s0 s : State) (a : Nat) : (retire op s0 s a).freeCtr = s.freeCtr := rfl
@[simp] theorem retire_arg (op : Nat) (s0 s : State) (a : Nat) : (retire op s0 s a).arg = s.arg := rfl
@[simp] theorem retire_sched (op : Nat) (s0 s : State) (a : Nat) : (retire op s0 s a).sched = s.sched := rfl

theorem hashInto_active (op : Nat) (f0 f : Flow) : (hashInto op f0 f).active = f.active := by
  unfold hashInto; split
  · simp only; split <;> rfl
  · rfl
theorem hashInto_exited (op : Nat) (f0 f : Flow) : (hashInto op f0 f).exited = f.exited := by
  unfold hashInto; split
  · simp only; split <;> rfl
  · rfl
theorem hashInto_dead (op : Nat) (f0 f : Flow) : (hashInto op f0 f).dead = f.dead := by
  unfold hashInto; split
  · simp only; split <;> rfl
  · rfl
theorem hashInto_stack (op : Nat) (f0 f : Flow) : (hashInto op f0 f).stack = f.stack := by
  unfold hashInto; split
  · simp only; split <;> rfl
  · rfl
theorem hashInto_line (op : Nat) (f0 f : Flow) : (hashInto op f0 f).line = f.line := by
  unfold hashInto; split
  · simp only; split <;> rfl
  · rfl

/-! ### The state in which an instruction has completed -/

@[simp] theorem completed_pc (i : Instr) (s u : State) : (completed i s u).g.flow.pc = nextPc s.g.flow.pc := rfl
@[simp] theorem completed_wait (i : Instr) (s u : State) : (completed i s u).g.wait = {} := rfl
@[simp] theorem completed_g_ns (i : Instr) (s u : State) : (completed i s u).g.ns = u.g.ns + BitVec.ofNat 64 (drawsOf i) := rfl
@[simp] theorem completed_active (i : Instr) (s u : State) : (completed i s u).g.flow.active = u.g.flow.active := hashInto_active ..
@[simp] theorem completed_exited (i : Instr) (s u : State) : (completed i s u).g.flow.exited = u.g.flow.exited := hashInto_exited ..
@[simp] theorem completed_dead (i : Instr) (s u : State) : (completed i s u).g.flow.dead = u.g.flow.dead := hashInto_dead ..
@[simp] theorem completed_stack (i : Instr) (s u : State) : (completed i s u).g.flow.stack = u.g.flow.stack := hashInto_stack ..
@[simp] theorem completed_g_ids (i : Instr) (s u : State) : (completed i s u).g.ids = u.g.ids := rfl
@[simp] theorem completed_g_regs (i : Instr) (s u : State) : (completed i s u).g.regs = u.g.regs := rfl
@[simp] theorem completed_g_traps (i : Instr) (s u : State) : (completed i s u).g.traps = u.g.traps := rfl
@[simp] theorem completed_g_slot (i : Instr) (s u : State) : (completed i s u).g.slot = u.g.slot := rfl
@[simp] theorem completed_g_pop (i : Instr) (s u : State) : (completed i s u).g.pop = u.g.pop := rfl
@[simp] theorem completed_g_cmds (i : Instr) (s u : State) : (completed i s u).g.cmds = u.g.cmds := rfl
@[simp] theorem completed_g_pend (i : Instr) (s u : State) : (completed i s u).g.pend = u.g.pend := rfl
@[simp] theorem completed_g_log (i : Instr) (s u : State) : (completed i s u).g.log = u.g.log := rfl
@[simp] theorem completed_g_logSeq (i : Instr) (s u : State) : (completed i s u).g.logSeq = u.g.logSeq := rfl
@[simp] theorem completed_g_lastPage (i : Instr) (s u : State) : (completed i s u).g.lastPage = u.g.lastPage := rfl
@[simp] theorem completed_g_mark (i : Instr) (s u : State) : (completed i s u).g.mark = u.g.mark := rfl
@[simp] theorem completed_g_ks (i : Instr) (s u : State) : (completed i s u).g.ks = u.g.ks := rfl
@[simp] theorem completed_g_gmode (i : Instr) (s u : State) : (completed i s u).g.gmode = u.g.gmode := rfl
@[simp] theorem completed_g_gstat (i : Instr) (s u : State) : (completed i s u).g.gstat = u.g.gstat := rfl
@[simp] theorem completed_g_n (i : Instr) (s u : State) : (completed i s u).g.n = u.g.n := rfl
@[simp] theorem completed_g_rho (i : Instr) (s u : State) : (completed i s u).g.rho = u.g.rho := rfl
@[simp] theorem completed_g_mclass (i : Instr) (s u : State) : (completed i s u).g.mclass = u.g.mclass := rfl
@[simp] theorem completed_g_climit (i : Instr) (s u : State) : (completed i s u).g.climit = u.g.climit := rfl
@[simp] theorem completed_g_splits (i : Instr) (s u : State) : (completed i s u).g.splits = u.g.splits := rfl
@[simp] theorem completed_clock (i : Instr) (s u : State) : (completed i s u).clock = u.clock := rfl
@[simp] theorem completed_others (i : Instr) (s u : State) : (completed i s u).others = u.others := rfl
@[simp] theorem completed_mem (i : Instr) (s u : State) : (completed i s u).mem = u.mem := rfl
@[simp] theorem completed_poison (i : Instr) (s u : State) : (completed i s u).poison = u.poison := rfl
@[simp] theorem completed_locks (i : Instr) (s u : State) : (completed i s u).locks = u.locks := rfl
@[simp] theorem completed_icache (i : Instr) (s u : State) : (completed i s u).icache = u.icache := rfl
@[simp] theorem completed_tlb (i : Instr) (s u : State) : (completed i s u).tlb = u.tlb := rfl
@[simp] theorem completed_roots (i : Instr) (s u : State) : (completed i s u).roots = u.roots := rfl
@[simp] theorem completed_rmap (i : Instr) (s u : State) : (completed i s u).rmap = u.rmap := rfl
@[simp] theorem completed_worlds (i : Instr) (s u : State) : (completed i s u).worlds = u.worlds := rfl
@[simp] theorem completed_keys (i : Instr) (s u : State) : (completed i s u).keys = u.keys := rfl
@[simp] theorem completed_keyCache (i : Instr) (s u : State) : (completed i s u).keyCache = u.keyCache := rfl
@[simp] theorem completed_wrapped (i : Instr) (s u : State) : (completed i s u).wrapped = u.wrapped := rfl
@[simp] theorem completed_ringWit (i : Instr) (s u : State) : (completed i s u).ringWit = u.ringWit := rfl
@[simp] theorem completed_rowErr (i : Instr) (s u : State) : (completed i s u).rowErr = u.rowErr := rfl
@[simp] theorem completed_badMail (i : Instr) (s u : State) : (completed i s u).badMail = u.badMail := rfl
@[simp] theorem completed_chosen (i : Instr) (s u : State) : (completed i s u).chosen = u.chosen := rfl
@[simp] theorem completed_bufs (i : Instr) (s u : State) : (completed i s u).bufs = u.bufs := rfl
@[simp] theorem completed_tags (i : Instr) (s u : State) : (completed i s u).tags = u.tags := rfl
@[simp] theorem completed_sweeps (i : Instr) (s u : State) : (completed i s u).sweeps = u.sweeps := rfl
@[simp] theorem completed_errUE (i : Instr) (s u : State) : (completed i s u).errUE = u.errUE := rfl
@[simp] theorem completed_errCE (i : Instr) (s u : State) : (completed i s u).errCE = u.errCE := rfl
@[simp] theorem completed_errSeq (i : Instr) (s u : State) : (completed i s u).errSeq = u.errSeq := rfl
@[simp] theorem completed_errLog (i : Instr) (s u : State) : (completed i s u).errLog = u.errLog := rfl
@[simp] theorem completed_accs (i : Instr) (s u : State) : (completed i s u).accs = u.accs := rfl
@[simp] theorem completed_done_ (i : Instr) (s u : State) : (completed i s u).done_ = u.done_ := rfl
@[simp] theorem completed_tiles (i : Instr) (s u : State) : (completed i s u).tiles = u.tiles := rfl
@[simp] theorem completed_peers (i : Instr) (s u : State) : (completed i s u).peers = u.peers := rfl
@[simp] theorem completed_sysSeen (i : Instr) (s u : State) : (completed i s u).sysSeen = u.sysSeen := rfl
@[simp] theorem completed_peerSeen (i : Instr) (s u : State) : (completed i s u).peerSeen = u.peerSeen := rfl
@[simp] theorem completed_lastExchange (i : Instr) (s u : State) : (completed i s u).lastExchange = u.lastExchange := rfl
@[simp] theorem completed_sentHorizon (i : Instr) (s u : State) : (completed i s u).sentHorizon = u.sentHorizon := rfl
@[simp] theorem completed_teams (i : Instr) (s u : State) : (completed i s u).teams = u.teams := rfl
@[simp] theorem completed_gangs (i : Instr) (s u : State) : (completed i s u).gangs = u.gangs := rfl
@[simp] theorem completed_mxq (i : Instr) (s u : State) : (completed i s u).mxq = u.mxq := rfl
@[simp] theorem completed_cands (i : Instr) (s u : State) : (completed i s u).cands = u.cands := rfl
@[simp] theorem completed_passes (i : Instr) (s u : State) : (completed i s u).passes = u.passes := rfl
@[simp] theorem completed_deadAt (i : Instr) (s u : State) : (completed i s u).deadAt = u.deadAt := rfl
@[simp] theorem completed_cmds (i : Instr) (s u : State) : (completed i s u).cmds = u.cmds := rfl
@[simp] theorem completed_arrivals (i : Instr) (s u : State) : (completed i s u).arrivals = u.arrivals := rfl
@[simp] theorem completed_gridCtr (i : Instr) (s u : State) : (completed i s u).gridCtr = u.gridCtr := rfl
@[simp] theorem completed_grids (i : Instr) (s u : State) : (completed i s u).grids = u.grids := rfl
@[simp] theorem completed_saved (i : Instr) (s u : State) : (completed i s u).saved = u.saved := rfl
@[simp] theorem completed_late (i : Instr) (s u : State) : (completed i s u).late = u.late := rfl
@[simp] theorem completed_prefs (i : Instr) (s u : State) : (completed i s u).prefs = u.prefs := rfl
@[simp] theorem completed_wires (i : Instr) (s u : State) : (completed i s u).wires = u.wires := rfl
@[simp] theorem completed_iocmds (i : Instr) (s u : State) : (completed i s u).iocmds = u.iocmds := rfl
@[simp] theorem completed_hub (i : Instr) (s u : State) : (completed i s u).hub = u.hub := rfl
@[simp] theorem completed_front (i : Instr) (s u : State) : (completed i s u).front = u.front := rfl
@[simp] theorem completed_power (i : Instr) (s u : State) : (completed i s u).power = u.power := rfl
@[simp] theorem completed_nvm (i : Instr) (s u : State) : (completed i s u).nvm = u.nvm := rfl
@[simp] theorem completed_meas (i : Instr) (s u : State) : (completed i s u).meas = u.meas := rfl
@[simp] theorem completed_spdmSide (i : Instr) (s u : State) : (completed i s u).spdmSide = u.spdmSide := rfl
@[simp] theorem completed_spdmPcie (i : Instr) (s u : State) : (completed i s u).spdmPcie = u.spdmPcie := rfl
@[simp] theorem completed_kernel (i : Instr) (s u : State) : (completed i s u).kernel = u.kernel := rfl
@[simp] theorem completed_out (i : Instr) (s u : State) : (completed i s u).out = u.out := rfl
@[simp] theorem completed_nextId (i : Instr) (s u : State) : (completed i s u).nextId = u.nextId := rfl
@[simp] theorem completed_freeCtr (i : Instr) (s u : State) : (completed i s u).freeCtr = u.freeCtr := rfl
@[simp] theorem completed_arg (i : Instr) (s u : State) : (completed i s u).arg = u.arg := rfl
@[simp] theorem completed_sched (i : Instr) (s u : State) : (completed i s u).sched = u.sched := rfl

/-! ### Teams, Prefects, other contexts -/

@[simp] theorem modTeam_g (s : State) (a b : Nat) (f : Team → Team) : (s.modTeam a b f).g = s.g := rfl
@[simp] theorem modTeam_mem (s : State) (a b : Nat) (f : Team → Team) : (s.modTeam a b f).mem = s.mem := rfl
@[simp] theorem modPref_g (s : State) (p : Nat) (f : Prefect → Prefect) : (s.modPref p f).g = s.g := rfl
@[simp] theorem modPref_mem (s : State) (p : Nat) (f : Prefect → Prefect) : (s.modPref p f).mem = s.mem := rfl
@[simp] theorem modCtx_mem (s : State) (c : CtxRef) (f : Ctx → Ctx) : (s.modCtx c f).mem = s.mem := by unfold State.modCtx; split <;> rfl

/-- An update by the name of the issuing context is an update of the issuing context. -/
theorem modCtx_self (s : State) (f : Ctx → Ctx) : s.modCtx s.g.ids.ref f = s.modG f := if_pos rfl

theorem ctx_self (s : State) : s.ctx? s.g.ids.ref = some s.g := if_pos rfl

/-- What a Prefect is after an update of it. -/
theorem pref_modPref (s : State) (p : Nat) (f : Prefect → Prefect) (h : p < s.prefs.length) : (s.modPref p f).pref p = f (s.pref p) := by
  simp [State.modPref, State.pref, List.getD, h]

/-- An update of one Prefect leaves another. -/
theorem pref_modPref_ne (s : State) {p q : Nat} (f : Prefect → Prefect) (h : p ≠ q) : (s.modPref p f).pref q = s.pref q := by
  simp [State.modPref, State.pref, List.getD, h]

end Sys2Proof.Machine
end

