-- ==== Sys2Proof/Laws/Mem.lean ====
section
/-! SUPPORT. Laws of memory: read after write, what a write leaves alone, and that every operation on memory keeps its canonical form. -/

namespace Sys2Proof.Machine

namespace Mem

/-! ### Bytes -/

theorem get_writeB (m : Mem) (l : Nat) (bs : List Byte) (a : Nat) :
    (m.writeB l bs).get 0 a = if l ≤ a ∧ a < l + bs.length then bs.getD (a - l) 0 else m.get 0 a := by
  induction bs generalizing m l with
  | nil => simp only [writeB, List.length_nil]; rw [if_neg (by omega)]
  | cons b t ih =>
    rw [writeB, ih, SMap.get_set]
    by_cases h : a = l
    · subst h; rw [if_neg (by omega), if_pos rfl, if_pos (by simp)]; simp
    · by_cases h2 : l + 1 ≤ a ∧ a < l + 1 + t.length
      · rw [if_pos h2, if_pos (by simp only [List.length_cons]; omega)]
        obtain ⟨k, rfl⟩ : ∃ k, a = l + 1 + k := ⟨a - (l + 1), by omega⟩
        rw [show l + 1 + k - (l + 1) = k by omega, show l + 1 + k - l = k + 1 by omega, List.getD_cons_succ]
      · rw [if_neg h2, if_neg h, if_neg (by simp only [List.length_cons]; omega)]

theorem get_writeB_out {m : Mem} {l a : Nat} {bs : List Byte} (h : a < l ∨ l + bs.length ≤ a) : (m.writeB l bs).get 0 a = m.get 0 a := by
  rw [get_writeB, if_neg (by omega)]

theorem readB_length (m : Mem) (l n : Nat) : (m.readB l n).length = n := by simp [readB]

theorem readB_writeB (m : Mem) (l : Nat) (bs : List Byte) : (m.writeB l bs).readB l bs.length = bs := by
  apply List.ext_getElem (by simp [readB])
  intro i h1 h2
  simp only [readB, List.getElem_map, List.getElem_range, get_writeB]
  rw [if_pos (by omega), show l + i - l = i by omega]
  simp [List.getD, h2]

theorem readB_congr {m m' : Mem} {l n : Nat} (h : ∀ a, l ≤ a → a < l + n → m'.get 0 a = m.get 0 a) : m'.readB l n = m.readB l n := by
  simp only [readB]
  exact List.map_congr_left (fun i hi => h _ (by omega) (by simp at hi; omega))

theorem readN_eq (m : Mem) (l n : Nat) : m.readN l n = ofBytes (m.readB l n) := by
  induction n generalizing l with
  | zero => rfl
  | succ n ih =>
    have e : m.readB l (n + 1) = m.get 0 l :: m.readB (l + 1) n := by
      simp only [readB, List.range_succ_eq_map, List.map_cons, List.map_map, Nat.add_zero]
      exact congrArg _ (List.map_congr_left (fun i _ => by simp only [Function.comp, Nat.succ_eq_add_one]; rw [show l + (i + 1) = l + 1 + i by omega]))
    rw [e, ofBytes, ← ih]; rfl

theorem length_toBytes (n x : Nat) : (toBytes n x).length = n := by
  induction n generalizing x with
  | zero => rfl
  | succ n ih => simp [toBytes, ih]

theorem ofBytes_toBytes (n x : Nat) : ofBytes (toBytes n x) = x % 256 ^ n := by
  induction n generalizing x with
  | zero => simp [toBytes, ofBytes, Nat.mod_one]
  | succ n ih =>
    rw [toBytes, ofBytes, ih, BitVec.toNat_ofNat, show (256 : Nat) ^ (n + 1) = 256 * 256 ^ n from Nat.pow_succ', Nat.mod_mul]

theorem readN_writeN (m : Mem) (l n x : Nat) : (m.writeN l n x).readN l n = x % 256 ^ n := by
  have h := readB_writeB m l (toBytes n x)
  rw [length_toBytes] at h
  rw [readN_eq, writeN, h, ofBytes_toBytes]

/-! ### The canonical form -/

theorem wf_writeB {m : Mem} {l : Nat} {bs : List Byte} (h : m.wf = true) : (m.writeB l bs).wf = true := by
  induction bs generalizing m l with
  | nil => exact h
  | cons b t ih => exact ih (SMap.wf_set l b h)

theorem wf_writeN {m : Mem} {l n x : Nat} (h : m.wf = true) : (m.writeN l n x).wf = true := wf_writeB h

theorem wf_plainWrite {m : Mem} {l : Nat} {bs : List Byte} (h : m.wf = true) : Mem.wf (plainWrite m l bs) = true := by
  unfold plainWrite; split
  · exact wf_writeN (wf_writeB h)
  · exact wf_writeB h

theorem wf_placedMem {m : Mem} {d : BitVec 512} (h : m.wf = true) : Mem.wf (placedMem m d) = true := by
  unfold placedMem
  exact wf_writeN (wf_writeN (wf_writeN (wf_writeN (wf_writeN h))))

/-! ### Plain writes -/

/-- A plain write changes the bytes written, and in local HBM the slot of the line's MAC. -/
theorem get_plainWrite {m : Mem} {l a : Nat} {bs : List Byte} (ha : a < Config.reservedBase ∨ Config.reservedBase ≤ l) :
    (plainWrite m l bs).get 0 a = if l ≤ a ∧ a < l + bs.length then bs.getD (a - l) 0 else m.get 0 a := by
  unfold plainWrite
  by_cases h : l < Config.reservedBase
  · rw [if_pos h, writeN, get_writeB_out (by unfold macSlot; left; have := ha; omega), get_writeB]
  · rw [if_neg h, get_writeB]

end Mem

/-! ### Operations of the state -/

theorem reset_mem_wf : State.reset.mem.wf = true := rfl

theorem sealLine_wf {s : State} {k : KeyMat} {ver l : Nat} {pt : List Byte} (h : s.mem.wf = true) : (s.sealLine k ver l pt).mem.wf = true :=
  Mem.wf_writeB (Mem.wf_writeB h)

@[simp] theorem logError_mem (s : State) (src kind l : Nat) (h : DWord) : (s.logError src kind l h).mem = s.mem := rfl
@[simp] theorem poisonRange_mem (s : State) (l n : Nat) : (s.poisonRange l n).mem = s.mem := rfl
@[simp] theorem rowEvent_mem (s : State) (l : Nat) (ok : Bool) : (s.rowEvent l ok).mem = s.mem := by unfold State.rowEvent; simp only; split <;> rfl
@[simp] theorem macFailed_mem (s : State) (l : Nat) : (s.macFailed l).mem = s.mem := by unfold State.macFailed; simp [logError_mem]
@[simp] theorem markDirty_mem (s : State) (l : Nat) : (s.markDirty l).mem = s.mem := by unfold State.markDirty; simp only; split <;> rfl
@[simp] theorem touchKey_mem (c : Crypt) (s : State) : (State.touchKey c s).mem = s.mem := by unfold State.touchKey; simp only; split <;> rfl
@[simp] theorem modCtx_poison (s : State) (c : CtxRef) (f : Ctx → Ctx) : (s.modCtx c f).poison = s.poison := by unfold State.modCtx; split <;> rfl

theorem wakePoppers_quiet (s : State) (sel : Nat) : (s.wakePoppers sel).mem = s.mem ∧ (s.wakePoppers sel).poison = s.poison := by
  unfold State.wakePoppers
  generalize (List.filter _ _ : List Ctx) = gs
  induction gs generalizing s with
  | nil => exact ⟨rfl, rfl⟩
  | cons g t ih => simpa [State.wake] using ih (s.wake g.ids.ref)

theorem feedNotice_quiet (s : State) (l : Nat) : (s.feedNotice l).mem = s.mem ∧ (s.feedNotice l).poison = s.poison := by
  unfold State.feedNotice; simp only
  split
  · exact ⟨rfl, rfl⟩
  · split
    · exact ⟨rfl, rfl⟩
    · exact wakePoppers_quiet _ _

/-- Telling those who wait for a write changes no memory. -/
@[simp] theorem notice_mem (s : State) (l : Nat) : (s.notice l).mem = s.mem := by
  unfold State.notice; rw [(feedNotice_quiet _ l).1]; split <;> rfl
@[simp] theorem notice_poison (s : State) (l : Nat) : (s.notice l).poison = s.poison := by
  unfold State.notice; rw [(feedNotice_quiet _ l).2]; split <;> rfl
@[simp] theorem markDirty_poison (s : State) (l : Nat) : (s.markDirty l).poison = s.poison := by unfold State.markDirty; simp only; split <;> rfl

/-- A write of one unit keeps the canonical form, whatever its line's key and MAC. -/
theorem poke_wf {s : State} {c : Crypt} {l : Nat} {bs : List Byte} (h : s.mem.wf = true) : (s.poke c l bs).mem.wf = true := by
  unfold State.poke
  simp only
  split
  · split
    · exact h
    · split
      · exact h
      · apply sealLine_wf
        simp only [markDirty_mem]
        split <;> split <;> simpa using h
  · split
    · exact h
    · rw [markDirty_mem]
      split <;> exact Mem.wf_plainWrite h

theorem foldl_wf {β : Type} (f : State → β → State) (hf : ∀ (s : State) (b : β), s.mem.wf = true → (f s b).mem.wf = true) (l : List β) {s : State}
    (h : s.mem.wf = true) : (l.foldl f s).mem.wf = true := by
  induction l generalizing s with
  | nil => exact h
  | cons b t ih => exact ih (hf s b h)

theorem pokeAll_wf {s : State} {c : Crypt} {l : Nat} {bs : List Byte} (h : s.mem.wf = true) : (s.pokeAll c l bs).mem.wf = true := by
  unfold State.pokeAll
  apply foldl_wf _ _ _ h
  intro s b h
  rw [notice_mem]; exact poke_wf h

theorem clearRange_wf {s : State} {l n : Nat} (h : s.mem.wf = true) : (s.clearRange l n).mem.wf = true := by
  have e : (s.clearRange l n).mem = s.mem.keep (fun a => !(decide (l ≤ a) && decide (a < l + n))) := rfl
  rw [e]; exact SMap.wf_keep _ h

theorem afterReset_wf {s : State} (h : s.mem.wf = true) : s.afterReset.mem.wf = true := by
  have e : s.afterReset.mem = s.mem.keep (fun a => decide (2 ^ 50 ≤ a ∧ a < 2 ^ 60)) := rfl
  rw [e]; exact SMap.wf_keep _ h

@[simp] theorem switch_mem (s : State) (c : CtxRef) : (s.switch c).mem = s.mem := by unfold State.switch; split <;> rfl
@[simp] theorem placeCore_mem (s : State) (c : CtxRef) : (s.placeCore c).mem = s.mem := by rw [State.placeCore, modG_mem, switch_mem]
@[simp] theorem placeGroup_mem (s : State) : s.placeGroup.mem = s.mem := rfl

theorem withFetchWord_wf {s : State} {nbits w : Nat} (h : s.mem.wf = true) : (s.withFetchWord nbits w).mem.wf = true := by
  have k := Mem.wf_placedMem (d := sealedLine (BitVec.ofNat 96 w)) h
  have e : (s.withFetchWord nbits w).mem = placedMem s.mem (sealedLine (BitVec.ofNat 96 w)) := by
    unfold State.withFetchWord
    simp only
    split
    · simp only [placeCore_mem]
    · split
      · simp only [placeCore_mem]
      · simp only [placeGroup_mem]
  rw [e]; exact k

/-- With no poison about, a plain write of one unit is that write, which makes its buffer dirty (R416). -/
theorem poke_plain {s : State} {l : Nat} {bs : List Byte} (h : s.poison = []) :
    s.poke {} l bs = ({ s with mem := plainWrite s.mem l bs } : State).markDirty l := by
  have e : SMap.set false ([] : SMap Bool) (l / 8) false = [] := rfl
  unfold State.poke
  simp only [State.poisoned, h, SMap.get_nil, Bool.false_and, Bool.false_eq_true, if_false]
  split <;> simp only [e]

/-- The state after the first `m` pieces of a plain write: its bytes so far are written, nothing else is, and only contexts' watches have changed. -/
theorem pokeAll_part (s : State) (l : Nat) (bs : List Byte) (h : s.poison = []) (m : Nat) (hm : m ≤ (l + bs.length + 7) / 8 - l / 8) :
    let t := ((List.range m).map (fun i =>
      let lo := max l ((l / 8 + i) * 8)
      (lo, min (l + bs.length) ((l / 8 + i) * 8 + 8) - lo))).foldl (fun (s : State) (e : Nat × Nat) => (s.poke {} e.1 ((bs.drop (e.1 - l)).take e.2)).notice e.1) s
    t.poison = [] ∧ ∀ a, a < Config.reservedBase ∨ Config.reservedBase ≤ l →
      t.mem.get 0 a = if l ≤ a ∧ a < l + bs.length ∧ a < (l / 8 + m) * 8 then bs.getD (a - l) 0 else s.mem.get 0 a := by
  induction m with
  | zero => exact ⟨h, fun a _ => by rw [if_neg (by omega)]; rfl⟩
  | succ m ih =>
    have ih := ih (by omega)
    simp only [List.range_succ, List.map_append, List.map_cons, List.map_nil, List.foldl_append, List.foldl_cons, List.foldl_nil] at ih ⊢
    generalize hu : List.foldl _ s _ = u at ih ⊢
    obtain ⟨hp, hg⟩ := ih
    rw [poke_plain hp]
    refine ⟨by rw [notice_poison, markDirty_poison]; exact hp, fun a ha => ?_⟩
    rw [notice_mem, markDirty_mem]
    simp only
    generalize hlo : max l ((l / 8 + m) * 8) = lo
    rw [Mem.get_plainWrite (by omega), hg a ha]
    have hlen : ((bs.drop (lo - l)).take (min (l + bs.length) ((l / 8 + m) * 8 + 8) - lo)).length = min (l + bs.length) ((l / 8 + m) * 8 + 8) - lo := by
      rw [List.length_take, List.length_drop]; omega
    rw [hlen]
    by_cases hin : lo ≤ a ∧ a < lo + (min (l + bs.length) ((l / 8 + m) * 8 + 8) - lo)
    · rw [if_pos hin, if_pos (by omega)]
      simp only [List.getD_eq_getElem?_getD, List.getElem?_take, List.getElem?_drop]
      rw [if_pos (by omega), show lo - l + (a - lo) = a - l by omega]
    · rw [if_neg hin]
      by_cases h2 : l ≤ a ∧ a < l + bs.length ∧ a < (l / 8 + m) * 8
      · rw [if_pos h2, if_pos (by omega)]
      · rw [if_neg h2, if_neg (by omega)]

/-- With no poison about, a plain write of a range changes exactly its bytes (and, in local HBM, MAC slots, which lie above the reserved base). -/
theorem get_pokeAll {s : State} {l a : Nat} {bs : List Byte} (h : s.poison = []) (ha : a < Config.reservedBase ∨ Config.reservedBase ≤ l) :
    (s.pokeAll {} l bs).mem.get 0 a = if l ≤ a ∧ a < l + bs.length then bs.getD (a - l) 0 else s.mem.get 0 a := by
  have k := (pokeAll_part s l bs h _ (Nat.le_refl _)).2 a ha
  rw [show s.pokeAll {} l bs = _ from rfl]
  refine k.trans ?_
  by_cases h2 : l ≤ a ∧ a < l + bs.length
  · rw [if_pos h2, if_pos (by omega)]
  · rw [if_neg h2, if_neg (by omega)]

theorem pokeAll_poison {s : State} {l : Nat} {bs : List Byte} (h : s.poison = []) : (s.pokeAll {} l bs).poison = [] :=
  (pokeAll_part s l bs h _ (Nat.le_refl _)).1

theorem readB_pokeAll {s : State} {l : Nat} {bs : List Byte} (h : s.poison = []) (hl : l + bs.length ≤ Config.reservedBase ∨ Config.reservedBase ≤ l) :
    (s.pokeAll {} l bs).mem.readB l bs.length = bs := by
  apply List.ext_getElem (by simp [Mem.readB])
  intro i h1 h2
  simp only [Mem.readB, List.getElem_map, List.getElem_range]
  rw [get_pokeAll h (by omega), if_pos (by omega), show l + i - l = i by omega]
  simp [List.getD, h2]

end Sys2Proof.Machine
end

