-- ==== Sys2Proof/Tests/Slice0.lean ====
section
/-! SUPPORT. Tests: what each legality check refuses, the spec's own words decoded, one step of an instruction, and a state and operands that meet the hypotheses of each
statement. -/

namespace Sys2Proof.Tests

open Sys2Proof.Machine

/- One theorem after another: theorems checked side by side would take a stack each. -/
set_option Elab.async false

/-! ### Operands and states -/

def hdr (y : Bool) : Hdr := { n := false, gi := 7, y }
def f3 (ty : Ty) (y : Bool := false) (var : Nat := 0) (d a b x : Nat := 0) (rnd : Rnd := .rn) (ib : Bool := false) (imm : Nat := 0) : F3 :=
  { h := hdr y, d := BitVec.ofNat 8 d, a := BitVec.ofNat 8 a, b := BitVec.ofNat 8 b, x := BitVec.ofNat 8 x, ty, rnd, ib, ub := false, ux := false
    var := BitVec.ofNat 5 var, imm := BitVec.ofNat 32 imm }
def fm (space : Space) (width : Width) (y : Bool := false) (data base index wi wo sub : Nat := 0) (ix : Bool := false) (off scale : Nat := 0) (ubase : Bool := false)
    (aon ver : Bool := false) : FM :=
  { h := hdr y, data := BitVec.ofNat 8 data, base := BitVec.ofNat 8 base, index := BitVec.ofNat 8 index, space, width, scale := BitVec.ofNat 2 scale, ix
    wi := BitVec.ofNat 4 wi, wo := BitVec.ofNat 4 wo, sub := BitVec.ofNat 4 sub, aon, ver, ubase, uidx := false, off := BitVec.ofNat 32 off }
def fb (y : Bool) (slot cond : Nat := 0) (ofs : Nat := 0) : FB :=
  { h := hdr y, slot := BitVec.ofNat 3 slot, cond := BitVec.ofNat 2 cond, zero := 0, ofs := BitVec.ofNat 32 ofs }
def fx (y : Bool) (tile band abase bbase idx sca scb bsel kst chain opx : Nat := 0) (fmta fmtb : MFmt := .bf16) : FX :=
  { h := hdr y, tile := BitVec.ofNat 5 tile, band := BitVec.ofNat 2 band, abase := BitVec.ofNat 8 abase, bbase := BitVec.ofNat 8 bbase, idx := BitVec.ofNat 8 idx
    sca := BitVec.ofNat 8 sca, scb := BitVec.ofNat 6 scb, bsel := BitVec.ofNat 3 bsel, fmta, fmtb, kst := BitVec.ofNat 4 kst, chain := BitVec.ofNat 2 chain
    opx := BitVec.ofNat 18 opx }
def fc (fn : Nat) (yc re : Bool := false) (reply sa sb imm : Nat := 0) : FC :=
  { h := hdr true, yc, fn := BitVec.ofNat 7 fn, re, reply := BitVec.ofNat 8 reply, sa := BitVec.ofNat 8 sa, sb := BitVec.ofNat 8 sb, imm := BitVec.ofNat 48 imm }
def fs (y : Bool := true) (d a b sel : Nat := 0) (wf : Nat := 15) (var8 imm : Nat := 0) : FS :=
  { h := hdr y, d := BitVec.ofNat 8 d, a := BitVec.ofNat 8 a, b := BitVec.ofNat 8 b, sel := BitVec.ofNat 12 sel, wf := BitVec.ofNat 4 wf, var8 := BitVec.ofNat 8 var8
    imm := BitVec.ofNat 32 imm }

/-- A page table of one page at 0x10000 with every right, and two lines of code there whose T bits are set. -/
def code : Mem := [(0x2000, 1), (0x2001, 0x20), (0x2008, 0x1F), (0x200C, 1), (0x10000, 0x1F), (0x10040, 0x1F)]
/-- A team with two tiles, on core 0. -/
def tm : Team := { grid := 1, team := 0, size := 2, csize := 65536, bells := List.replicate 24 { expect := 2 }, tiles := [{}, {}] }
/-- A group of that team: two lanes. -/
def grpCtx : Ctx := { ids := { ref := .group 1 0, grid := 1 }, flow := { pc := 0x10004, active := 3, exited := 0xFFFFFFFC }, n := 1, rho := 1, climit := 3 }
/-- The machine in the turn of that group. -/
def grp : State :=
  { State.reset with g := grpCtx, others := [], mem := code, roots := [(0, 0x2001)], teams := [tm], gangs := [{ grid := 1, gang := 0, ksize := 65536 }], grids := [{ gid := 1, addr := 0, asn := 0, world := 0, cap := 7, phase := 2 }] }
/-- The machine in the turn of Prefect 0, and of the security core, started. -/
def sysAt (c : CtxRef) : State :=
  { State.reset with g := { Ctx.core c with sched := {}, flow := { (Ctx.core c).flow with pc := 0x10004 } }, others := [grpCtx], mem := code, roots := [(0, 0x2001)], teams := [tm] }
def prf : State := sysAt (.prefect 0)
def sec : State := sysAt .secure
/-- S registers set. -/
def rs (l : List (Nat × Nat)) (s : State) : State := s.modG fun g => l.foldl (fun g e => g.wrS e.1 (BitVec.ofNat 32 e.2)) g
/-- The issuing context changed. -/
def gw (s : State) (k : Ctx → Ctx) : State := s.modG k

/-- `Clear`, as a test. -/
def clearB (i : Instr) (s : State) : Bool :=
  s.g.able && (staticCheck i s.g).isNone && !(i.shape.regs.any s.g.marked || i.shape.writes.any s.g.locked) && (tileFault i s).isNone &&
    (State.deliverable s.g).isNone && !guardedOff i s.g && deathsOf i s.g == 0 && !lostUniform i s.g

/-- The group after an instruction. -/
def ran (i : Instr) (s : State) : Ctx := match exec i s with | .next t => t.g | _ => s.g

/-- `Reaches`, as a test. -/
def reachB (i : Instr) (s : State) : Bool := match targetsCheck s (targetsOf i s.g) with | .ok _ => true | .error _ => false

theorem clear_of_test (i : Instr) (s : State) (h : clearB i s) : Clear i s := by
  simp only [clearB, Bool.and_eq_true, Bool.not_eq_true', Option.isNone_iff_eq_none, beq_iff_eq] at h
  obtain ⟨⟨⟨⟨⟨⟨⟨a, b⟩, c⟩, d⟩, e⟩, f⟩, g⟩, k⟩ := h
  exact ⟨a, b, c, d, e, f, g, k⟩

theorem clears (l : List Instr) (s : State) (h : l.all (clearB · s) = true) : ∀ i, i ∈ l → Clear i s :=
  fun i m => clear_of_test i s (List.all_eq_true.1 h i m)

/-! ### What the checks refuse: one ill-formed term for each (R62) -/

theorem refuses_reserved_type : (Instr.fadd (f3 .b32 false 0 4 8 12 0)).wf = false := by decide
theorem refuses_variant : (Instr.icmp (f3 .n32 false 30 1 8 12 0)).wf = false := by decide
theorem refuses_predicate_number : (Instr.icmp (f3 .n32 false 0 9 8 12 0)).wf = false := by decide
theorem refuses_odd_pair : (Instr.iadd (f3 .n64 true 0 5 8 12 0)).wf = false := by decide
theorem refuses_uniform_beyond_63 : (Instr.iadd (f3 .n32 true 0 64 8 12 0)).wf = false := by decide
theorem refuses_immediate_unused : (Instr.iadd { f3 .n32 false 0 4 8 12 0 with imm := 1 }).wf = false := by decide
theorem refuses_lane_form_uniform : (Instr.shfl (f3 .b32 true 0 4 8 12 0)).wf = false := by decide
theorem refuses_load_width : (Instr.ld (fm .c .b32 false 4 8 0 15 15 3)).wf = false := by decide
theorem refuses_branch_slot : (Instr.braDiv (fb false 5 0)).wf = false := by decide
theorem refuses_branch_cond : (Instr.braDiv (fb false 0 1)).wf = false := by decide
theorem refuses_copy_lane : (Instr.cpyMove { (fc 0 false true 0 0 0 0) with h := hdr false }).wf = false := by decide
theorem refuses_matrix_option : (Instr.mzero (fx true 0 0 0 0 0 0 0 0 0 0 1)).wf = false := by decide
theorem refuses_system_register : (Instr.srset (fs true 0 0 0 0x0FF)).wf = false := by decide

/-! ### Decoding, reset, the step -/

def decodesTo (w : Slot) (i : Instr) : Bool := match decode w with | .ok j => j == i | .error _ => false
def refusesAs (w : Slot) (e : DecodeErr) : Bool := match decode w with | .ok _ => false | .error x => x == e

theorem witness_EncodingRoundTrip : ([(Instr.nop (fs true 0 0 0 0 15 0 0)), (Instr.iadd (f3 .b32 false 0 4 8 0 0)), (Instr.ld (fm .c .b32 false 4 8 0 15 15 0 false 0 0 false)), (Instr.braDiv (fb false 0 0)), (Instr.mma (fx false 0 0 0 0 0 0 0 0 0 0 0)), (Instr.cpyMove (fc 0 false true 0 0 0 0)), (Instr.fpack (f3 .sx4 false 12 4 8 0 0)), (Instr.rngsSet (f3 .b32 true 0 0 8 0 0)), (Instr.srset (fs true 0 0 0 12 15 0 0)), (Instr.keyopMrd (fs true 0 0 0 0 15 7 0))].all fun i => i.isEvent = false ∧ i.wf = true) ∧
    decodesTo 0x0070000000000F0000000000 (.nop (fs false)) = true ∧ assigned (0xEE00000000000000000000 * 256 / 2 ^ 88) = false := by decide +kernel

def next (r : Res) : Bool := match r with | .next _ => true | _ => false

/-- The group's turn, with this slot at its program counter in the line it has in hand. -/
def turnAt (w : Slot) : State := gw { grp with sched := [.issue (.group 1 0)] } fun g => { g with flow := { g.flow with line := some (0x10000, w.setWidth 512 <<< 32) } }
def fetches (s : State) (a : Nat) : Option Bool := match s.fetchLine s.g a with | .ok (_, _, b) => some b | .error _ => none

theorem witness_StepRunsDecoded :
    (turnAt 0).g.able = true ∧ slotAddr (turnAt 0).g.flow.pc = true ∧ decodesTo 0x0070000000000F0000000000 (.nop (fs false)) = true ∧
    refusesAs 0xEE0000000000000000000000 .illegalOp = true ∧ refusesAs 0x0070000000000F0000000001 .illegalEnc = true ∧ slotAddr 0x10008 = false ∧
    fetches grp 0x10004 = some true ∧ fetches grp 0x20004 = none ∧ fetches { grp with mem := code ++ [(0x10044, 1)] } 0x10040 = some false ∧
    next (exec (.nop (fs false)) (turnAt 0)) = true := by decide +kernel

theorem witness_StepKeepsMemory : (turnAt 0x0070000000000F0000000000).mem.wf = true ∧ next (step (turnAt 0x0070000000000F0000000000)) = true := by decide +kernel

theorem witness_ConstantRegisters : ([Instr.iadd (f3 .b32 true 0 63 8 0 0), .isub (f3 .b32 true 0 63 8 0 0), .andB (f3 .b32 true 0 63 8 0 0), .orB (f3 .b32 true 0 63 8 0 0),
    .xor (f3 .b32 true 0 63 8 0 0), .shl (f3 .b32 true 0 63 8 0 0), .mov (f3 .b32 true 0 63 0 12 0), .imin (f3 .n32 true 0 63 8 0 0), .popc (f3 .b32 true 0 63 8 0 0),
    .wnow (f3 .b32 true 4 15 0 0 0)].all fun i => clearB i grp) := by decide +kernel

/-! ### Issue, faults, signatures -/

/-- A pending load that marks V4. -/
def owed : Pend := { id := 1, kind := .load, marks := [.v 4] }

theorem witness_IssueOrder :
    (gw grp fun g => { g with sched := { g.sched with halted := true } }).g.able = false ∧
    (staticCheck (.iadd { (f3 .b32 false 0 4 8 0 0) with imm := 1 }) grp.g).isSome = true ∧
    ((Instr.iadd (f3 .b32 false 0 4 8 0 0)).shape.regs.any (gw grp fun g => { g with pend := [owed] }).g.marked) = true ∧
    reachB (.braDiv { (fb false 0 0) with ofs := 0x1000000 }) grp = false ∧
    tileFault (.mzero { (fx true 0 0 0 0 0 0 0 0 0 0 0) with tile := 2 }) grp = some 2 ∧
    State.deliverable (gw grp fun g => { g with traps := { g.traps with delivered := [{ cause := 0x40, value := 1, level := 0 }] } }).g ≠ none ∧
    guardedOff (.iadd { f3 .b32 true 0 4 8 0 0 with h := { n := true, gi := 7, y := true } }) grp.g = true := by decide +kernel

theorem witness_PrivilegeAndRole :
    ([(Instr.park (fs true 0 0 0 0 15 0 1)), (Instr.msgsnd (fs true 0 0 0 0 15 0 0)), (Instr.keyopMrd (fs true 0 0 0 0 15 7 0))].all fun i => i.wf = true ∧ (privOp i.shape.op = true ∨ i.shape.op = 0xBF)) ∧
    ([Instr.srget (fs true 4 0 0 0x102), .srset (fs true 0 4 0 0x103), (Instr.srgetHubdata (fs true 0 0 0 269 15 0 0)), (Instr.srsetHubdata (fs true 0 0 0 269 15 0 0)), (Instr.srsetRmapent (fs true 0 0 0 262 15 0 0)), (Instr.srsetAsnroot (fs true 0 0 0 264 15 0 0))].all fun i => i.wf = true) ∧
    ([(Role.copy, (Instr.fadd (f3 .f32 false 0 4 8 0 0))), (.matrix, (Instr.ld (fm .c .b32 false 4 8 0 15 15 0 false 0 0 false))), (.vector, (Instr.mzero (fx true 0 0 0 0 0 0 0 0 0 0 0))), (.matrix, (Instr.cpyMove (fc 0 false true 0 0 0 0)))].all fun e => e.2.wf = true ∧ e.1.may (classOf e.2.shape.op e.2.shape.hdr.y) = false) := by decide +kernel

/-- A vector at the second line of code. -/
def vect (s : State) : State := gw s fun g => { g with traps := { g.traps with tvec1 := 0x10041 + 4, tvec2 := 0x10041 + 4 } }

theorem witness_TakingAFault :
    (State.vector (vect grp).g.traps).getLsbD 0 = true ∧ reachB (.nop (fs false)) (vect grp) ∧
    (match (vect grp).target (State.vectorAddr (State.vector (vect grp).g.traps)) with | .ok _ => true | .error _ => false) = true ∧
    (State.vector grp.g.traps).getLsbD 0 = false ∧ grp.g.sched.killed = false ∧ grp.g.cluster < grp.prefs.length ∧ (grp.pref grp.g.cluster).trapq.length < 64 ∧
    (grp.pref grp.g.cluster).posted = [] ∧ prf.g.isSys = true := by decide +kernel

theorem witness_Signatures : ([0x01, 0x09, 0xB0].map fun op => [0x01, 0x02, 0x03, 0x04, 0x05, 0x06, 0x07, 0x08, 0x0C, 0x0D, 0xB1].contains op) = [true, false, false] := by decide

/-- Lane 1 of V8 is poisoned. -/
def hurt : State := gw grp fun g => g.poisonV 8 1

theorem witness_PoisonKills : ([(Instr.iadd (f3 .b32 false 0 4 8 0 0)), (Instr.isub (f3 .b32 false 0 4 8 0 0)), (Instr.imul (f3 .b32 false 0 4 8 0 0)), (Instr.andB (f3 .b32 false 0 4 8 0 0)), (Instr.orB (f3 .b32 false 0 4 8 0 0)), (Instr.xor (f3 .b32 false 0 4 8 0 0)), (Instr.shl (f3 .b32 false 0 4 8 0 0)), Instr.mov (f3 .b32 false 0 4 0 8 0), (Instr.fadd (f3 .f32 false 0 4 8 0 0)), (Instr.fmul (f3 .f32 false 0 4 8 0 0)), (Instr.ffma (f3 .f32 false 0 4 8 12 16))].all fun i =>
    staticCheck i hurt.g = none ∧ (i.shape.regs.any hurt.g.marked || i.shape.writes.any hurt.g.locked) = false ∧ deathsOf i hurt.g = 2 ∧ guardedOff i hurt.g = false) := by decide +kernel

/-! ### Integer, floating-point and lane instructions -/

theorem witness_IntegerArithmetic : ([(Instr.iadd (f3 .b32 false 0 4 8 0 0)), (Instr.isub (f3 .b32 false 0 4 8 0 0)), (Instr.imul (f3 .b32 false 0 4 8 0 0)), (Instr.imulh (f3 .n32 false 0 4 8 0 0)), (Instr.imad (f3 .b32 false 0 4 8 12 16)), (Instr.imadWide (f3 .n32 false 1 4 8 12 16)), (Instr.idiv (f3 .n32 false 0 4 8 0 0)), (Instr.irem (f3 .n32 false 0 4 8 0 0)), (Instr.imin (f3 .n32 false 0 4 8 0 0)), (Instr.imax (f3 .n32 false 0 4 8 0 0)), (Instr.iabs (f3 .i32 false 0 4 8 0 0)), Instr.iadd (f3 .i32 false 1 255 8 12 0), .iabs (f3 .i32 false 1 4 8 0 0),
    .iadd (f3 .n64 true 0 62 60 58 0)].all fun i => clearB i { grp with g := { grpCtx with n := 6, rho := 6 } } = true ∧ grp.g.gmode.getLsbD 1 = false) ∧
    ([(Instr.idiv (f3 .n32 false 0 4 8 0 0)), (Instr.irem (f3 .n32 false 0 4 8 0 0))].all fun i => clearB i (gw grp fun g => { g with gmode := 2 }) = true) ∧ (actLanes (gw grp fun g => { g with gmode := 2 }).g (hdr false)).any (fun l => (ab (f3 .n32 false 0 4 8 0 0) grp.g l).2 == 0) = true := by
  decide +kernel

theorem witness_IntegerBits : [(Instr.andB (f3 .b32 false 0 4 8 0 0)), (Instr.orB (f3 .b32 false 0 4 8 0 0)), (Instr.xor (f3 .b32 false 0 4 8 0 0)), (Instr.andn (f3 .b32 false 0 4 8 0 0)), (Instr.shl (f3 .b32 false 0 4 8 0 0)), (Instr.shr (f3 .b32 false 0 4 8 0 0)), (Instr.sar (f3 .b32 false 0 4 8 0 0)), (Instr.rotl (f3 .b32 false 0 4 8 0 0)), (Instr.popc (f3 .b32 false 0 4 8 0 0)), (Instr.clz (f3 .b32 false 0 4 8 0 0)), (Instr.brev (f3 .b32 false 0 4 8 0 0)), (Instr.bfx (f3 .n32 false 0 4 8 0 0)), (Instr.bfi (f3 .b32 false 0 4 8 12 16))].all fun i => clearB i grp := by decide +kernel

def fi (ty : Ty) (imm : Nat) : FI := { h := hdr false, d := 4, ty, var := 0, imm := BitVec.ofNat 64 imm }

theorem witness_IntegerMoves : [(Instr.sel (f3 .b32 false 0 4 8 0 0)), (Instr.mov (f3 .b32 false 0 4 0 0 0)), .movi (fi .b32 0xFFFFFFFF), (Instr.lea (f3 .b32 false 0 4 8 0 0)), (Instr.iext (f3 .n32 false 4 4 8 0 0)), (Instr.iaddc (f3 .b32 false 0 4 8 0 0)), (Instr.pset (f3 .b32 false 0 4 0 0 0)), (Instr.icmp (f3 .b32 false 0 4 8 0 0)), Instr.icmp (f3 .n32 false 29 1 8 12 2), .icmp (f3 .n32 true 0 6 8 12 0)].all fun i =>
    clearB i grp := by decide +kernel

def wide (n : Nat) : FS := { fs true with imm := BitVec.ofNat 32 n }

theorem witness_RegisterBlocks :
    ([Instr.xacq (wide 1), .xrel (wide 1), .xrel (wide 0), .xacqTry { wide 1 with d := 1, var8 := 1 }, .xacqTry { wide 6 with d := 1, var8 := 1 }, .xacq (wide 6), (Instr.ixrd (f3 .b32 false 0 4 8 0 0)), (Instr.ixwr (f3 .b32 false 0 0 8 0 0)),
      Instr.ixrd { (f3 .b32 false 0 4 8 0 0) with imm := 96 }].all fun i => clearB i grp) ∧
    1 ≤ grp.g.n ∧ ¬ (6 ≤ grp.g.n) ∧ (lanes (grp.g.exec (hdr false))).all (fun l => (grp.g.rdV 8 l).toNat < grp.g.bound) = true ∧ grp.g.bound = 96 := by decide +kernel

theorem witness_FloatResults : [(Instr.fadd (f3 .f32 false 0 4 8 0 0)), (Instr.fsub (f3 .f32 false 0 4 8 0 0)), (Instr.fmul (f3 .f32 false 0 4 8 0 0)), (Instr.ffma (f3 .f32 false 0 4 8 12 16)), (Instr.fdiv (f3 .f32 false 0 4 8 0 0)), (Instr.fsqrt (f3 .f32 false 0 4 8 0 0)), (Instr.frcp (f3 .f32 false 0 4 8 0 0)), (Instr.frsq (f3 .f32 false 0 4 8 0 0)), (Instr.fex2 (f3 .f32 false 0 4 8 0 0)), (Instr.flg2 (f3 .f32 false 0 4 8 0 0)), (Instr.ftanh (f3 .f32 false 0 4 8 0 0)), (Instr.fsin (f3 .f32 false 0 4 8 0 0)), (Instr.fcos (f3 .f32 false 0 4 8 0 0)), (Instr.fscl (f3 .f32 false 0 4 8 0 0)), (Instr.fmin (f3 .f32 false 0 4 8 0 0)), (Instr.fmax (f3 .f32 false 0 4 8 0 0)), (Instr.fclamp (f3 .f32 false 0 4 8 12 16)), (Instr.frnd (f3 .f32 false 0 4 8 0 0)), (Instr.fcvt (f3 .f64 false 12 4 8 0 0)), (Instr.icvf (f3 .f32 false 4 4 8 0 0)), (Instr.fcvi (f3 .n32 false 12 4 8 0 0)), (Instr.fdot2 (f3 .f16 false 0 4 8 12 16)),
    Instr.fadd (f3 .f64 true 0 4 8 12 0 .rz), .fmul (f3 .bf16 false 0 95 8 12 0 .rs)].all fun i => clearB i grp := by decide +kernel

theorem witness_FloatBlocks : ([(Instr.fcmp (f3 .f32 false 0 4 8 0 0)), (Instr.fcls (f3 .f32 false 0 4 8 0 0)), (Instr.fpack (f3 .sx4 false 12 4 8 0 0)), (Instr.funpk (f3 .f32 false 22 4 8 0 0)), Instr.fcmp (f3 .f32 false 31 1 8 12 2), .fcls (f3 .f32 false 1 1 8 0 0 .rn false 0x3FF)].all fun i => clearB i grp) ∧
    ((f3 .f32 false 0 4 8 0 0)).var = 0 := by decide +kernel

theorem witness_FloatSpecials : FV.read .f32 0x7FC00000 = .nan false ∧ (FV.nan false).isNan = true ∧ (FV.inf true).isNan = false ∧
    FV.read .e5m2 0x7B = .fin false 7 13 ∧ FV.read .f16 1 = .fin false 1 (-24) := by decide +kernel

theorem witness_LaneInstructions : ([(Instr.shfl (f3 .b32 false 0 4 8 0 0)), Instr.lanerd { f3 .b32 false 0 4 8 63 2 with ub := true }, .lanewr { f3 .b32 false 31 4 0 63 0 with ub := true }, (Instr.prmt (f3 .b32 false 0 4 8 12 16)), (Instr.vote (f3 .b32 false 0 4 0 0 0)), Instr.vote (f3 .b32 false 3 4 1 0 0), (Instr.laneMatch (f3 .b32 false 0 4 8 0 0)),
    .laneMatch (f3 .b32 false 1 4 8 0 2), .laneMatch (f3 .b32 false 2 4 8 0 2)].all fun i => clearB i grp) ∧ ((List.range 32).all fun l => !grp.g.vpois 8 l) := by decide +kernel

theorem witness_Reductions : ([(Instr.redux (f3 .b32 false 0 4 8 0 0)), (Instr.scanl (f3 .b32 false 0 4 8 0 0)), Instr.redux (f3 .f32 false 0 4 8 0 0), .scanl (f3 .n32 false 8 4 8 0 0)].all fun i => clearB i grp) ∧
    Ty.n32.isF = false := by decide +kernel

/-! ### Control, traps, system instructions -/

/-- A guard that lane 0 alone meets, and the group with it and this stack. -/
def g1 : Hdr := { n := false, gi := 1, y := false }
def halfway (st : List Entry) : State := gw grp fun g => { g.wrP 1 3 1 with flow := { g.flow with stack := st } }
def call1 : Entry := { kind := .call, addr := 0x10044, mask := 3 }
def split1 (d b : Bool) : Entry := { kind := .split, d, b, addr := 0x10010, mask := 3 }
def pend1 (d : Bool) (aux : Word) : Entry := { kind := .pend, d, addr := 0x10044, mask := 2, aux }
def trap1 : Entry := { kind := .trap, addr := 0x10010, mask := 3 }

theorem witness_BranchesAndJoins :
    ([Instr.braDiv (fb false 0 0), (Instr.braAny (fb false 0 1)), (Instr.braAll (fb false 0 2)), (Instr.brc (fb true 0 0)), (Instr.jmpi (f3 .b32 true 0 0 8 0 0)), (Instr.calli (f3 .b32 true 0 0 8 0 0)), (Instr.call (fb false 0 0)), (Instr.split (fb false 0 0))].all fun i => clearB i grp) ∧
    ([[], [split1 true true], [split1 false true], [call1], List.replicate 30 call1, List.replicate 28 call1].all fun st => [Instr.braDiv { (fb false 0 0) with h := g1 },
      .braAny { (fb false 0 1) with h := g1 }, .call { (fb false 0 0) with h := g1 }, .split { (fb false 0 0) with h := g1 }].all fun i => clearB i (halfway st) ∧ reachB i (halfway st)) ∧
    ((halfway []).g.flow.active &&& (halfway []).g.guardMask g1, nextPc (halfway []).g.flow.pc) = (1, 0x10010) ∧
    ([Instr.jmpi (f3 .b32 true 0 0 8 0 0), .calli (f3 .b32 true 0 0 8 0 0)].all fun i => reachB i (rs [(8, 0x10010)] grp)) ∧
    ([[], [call1], [trap1], [split1 false true], [split1 true true, split1 false true], [pend1 false 0], [pend1 false 2, call1], [pend1 true 1, split1 false true]].all fun st =>
      clearB (Instr.join (fs true 0 0 0 0 15 0 0)) (halfway st) ∧ clearB (Instr.ret (fs true 0 0 0 0 15 0 0)) (halfway st)) ∧
    callOpen [pend1 false 2, call1] = true ∧ callOpen [] = false ∧ reachB (.call { (fb false 0 0) with ofs := 1 }) grp = true := by decide +kernel

theorem witness_PlainControl :
    ([(Instr.nop (fs true 0 0 0 0 15 0 0)), (Instr.yield (fs true 0 0 0 0 15 0 0)), (Instr.brk (fs true 0 0 0 0 15 0 0)), (Instr.sigchk (fs true 0 0 0 0 15 0 0)), (Instr.sigset (fs true 0 0 0 0 15 0 0)), (Instr.elect (f3 .b32 false 0 4 8 0 0)), Instr.sigchk { fs true with imm := 0xFFFFFF }, .yield { fs true with imm := 255 }].all fun i => clearB i grp) ∧
    clearB (Instr.brk (fs true 0 0 0 0 15 0 0)) (gw grp fun g => { g with sched := { g.sched with attached := true } }) = true ∧ grp.g.flow.sig.toNat % 2 ^ 24 = 0xFFFFFF ∧
    ([[], [split1 true true], [split1 false true], [call1], [pend1 true 1], [pend1 false 2], [{ call1 with mask := 1 }, split1 false true]].all fun st =>
      clearB (Instr.exit (fs true 0 0 0 0 15 0 0)) (gw (halfway st) fun g => { g with flow := { g.flow with active := 1 } }) = true) := by decide +kernel

theorem witness_ControlEvents :
    (let s := { gw grp fun g => { g with sched := { g.sched with waited := 224, yieldUntil := some 9 } } with clock := 9, arg := { c := .group 1 0 } }
     (s.ctx? s.arg.c).isSome = true ∧ s.g.isSys = false ∧ s.g.sched.promoted = false ∧ 224 ≤ s.g.sched.waited ∧ s.g.sched.yieldUntil = some 9 ∧
       (gw s fun g => { g with sched := { g.sched with yieldUntil := none } }).g.able = true) ∧
    fetches grp 0x10004 = some true ∧ fetches { grp with mem := code ++ [(0x10044, 1)] } 0x10044 = some false ∧
    (let s := gw (turnAt 0x0070000000000F0000000000) fun g => { g with traps := { g.traps with delivered := [{ cause := 0x40, value := 1, level := 0 }] } }
     State.deliverable s.g ≠ none ∧ s.g.able = true ∧ s.g.wait.ending = false ∧ decodesTo (lineSlot ((0x0070000000000F0000000000 : BitVec 512) <<< 32) (slotIx s.g.flow.pc)) (.nop (fs false)) = true ∧
       ((0x0070000000000F0000000000 : BitVec 512) <<< 32).toNat / 2 ^ 9 % 2 ^ 7 = 0) := by
  decide +kernel

theorem witness_TrapAndReturn :
    ([[], List.replicate 30 call1].all fun st => clearB (Instr.trap (fs false 0 0 0 0 15 0 0)) (halfway st) ∧ reachB (Instr.trap (fs false 0 0 0 0 15 0 0)) (halfway st)) ∧ (halfway []).g.exec (hdr false) ≠ 0 ∧
    clearB (.trap { (fs false 0 0 0 0 15 0 0) with h := g1 }) grp = true ∧ grp.g.exec g1 = 0 ∧
    grp.g.storesFormed = true ∧ grp.g.slot.mode = .idle ∧ (grp.pref grp.g.cluster).posted = [] ∧
    ([0, 1, 2].all fun lv => [[trap1], [call1]].all fun st => clearB (Instr.tret (fs true 0 0 0 0 15 0 0)) (gw (halfway st) fun g => { g with traps := { g.traps with level := lv, epc1 := 0x10010, epcw1 := true } }) = true) ∧
    (match grp.target 0x10010 with | .ok _ => true | .error _ => false) = true := by decide +kernel

theorem witness_SystemRegisters :
    ([0x000, 0x001, 0x002, 0x003, 0x004, 0x005, 0x007, 0x008, 0x009, 0x00A, 0x00B, 0x00C, 0x00D, 0x00E, 0x00F, 0x010, 0x011, 0x012, 0x013, 0x014, 0x015, 0x016, 0x017, 0x018].all fun k =>
      clearB (.srget (fs (k != 0) 4 0 0 k)) grp = true) ∧
    clearB (.srget (fs false 4 0 0 0x20)) grp ∧ grp.g.vPending = false ∧
    ([0x101, 0x102, 0x103, 0x104, 0x105, 0x106, 0x107, 0x108, 0x109, 0x10A, 0x10B, 0x10C].all fun k => clearB (.srget (fs true 4 0 0 k)) prf) ∧
    ([0x00B, 0x00C, 0x011, 0x012, 0x013, 0x014, 0x015, 0x016, 0x017, 0x018].all fun k => clearB (.srset (fs true 0 4 0 k)) grp) ∧
    ([0x103, 0x104, 0x105, 0x107, 0x10C].all fun k => clearB (.srset (fs true 0 4 0 k)) prf) ∧
    ([(Instr.srgetHubdata (fs true 0 0 0 269 15 0 0)), (Instr.srsetHubdata (fs true 0 0 0 269 15 0 0)), (Instr.srsetAsnroot (fs true 0 0 0 264 15 0 0)), (Instr.srsetRmapent (fs true 0 0 0 262 15 0 0))].all fun i => clearB i prf) ∧ prf.regionBusy 0 = false := by decide +kernel

/-- Prefect 0 with the handle of the group in S8, and the group trapped. -/
def past (mask : Word) : State :=
  { rs [(8, 0), (9, 1), (12, mask.toNat)] prf with
    others := [{ grpCtx with slot := { mode := .any, rem := 3, va := 8, wd := 1 }, flow := { grpCtx.flow with stack := [trap1] }, wait := { kind := 6 } }] }

theorem witness_Resume :
    ([(1 : Word), 3, 4].all fun m => clearB (.resumeLanes (fs true 4 8 12 0)) (past m)) ∧
    (((past 1).resident 0x100000000).map fun g => (g.trapped 1, g.trapped 3, g.trapped 4)) = some (true, true, false) ∧ (past 1).resident 0x100000001 = none ∧
    (past 1).limit (past 1).g .c = 2 ^ 18 ∧ (((past 1).accs).all fun a => a.owner ≠ some (past 1).g.ids.ref) ∧
    clearB (.resumeLanes (fs true 4 8 12 0 15 0 1)) (past 1) ∧ clearB (.resumeLog (fs true 4 8 12 0 15 1 0)) (past 1) ∧
    clearB (.resumeLog (fs true 4 8 12 0 15 1 1)) (past 1) ∧
    ((past 1).resident 0x100000000).map ((past 1).faultWaits · 0 0) = some false ∧
    (gw grp fun g => { g with log := [{ ix := 0, state := 1, op := { kind := .load, space := .g, width := .b32, uni := false } }] }).faultWaits
      { grpCtx with log := [{ ix := 0, state := 1, op := { kind := .load, space := .g, width := .b32, uni := false } }] } 0 0 = true ∧
    [trap1].any Entry.open_ = false ∧ [pend1 false 0, trap1].any Entry.open_ = true := by decide +kernel

theorem witness_SavesAndKills :
    ([Instr.ctxsv (fs true 4 8 12 0), .ctxsv (fs true 4 8 12 0 15 2), .ctxsv (fs true 4 2 12 0), .ctxld (fs true 4 2 0 0), .gkillGrp (fs true 4 8 0 0), .gkillTeam (fs true 4 8 0 0 15 1),
      .gkillGrid (fs true 4 8 12 0 15 2)].all fun i => clearB i (past 64)) ∧
    (past 64).g.rdS64 12 = 64 ∧ ((past 64).resident 0x100000000).map (·.atPoint) = some true ∧ ((past 64).resident 0x100000000).map (·.over) = some false ∧
    ((past 64).resident 0x100000000).map ((past 64).settledGroup false) = some true ∧ prf.resident 0x100000000 = some grpCtx ∧ grpCtx.atPoint = false ∧
    ((past 64).targets fun g => g.ids.ref == .group 1 0).length = 1 ∧ ((past 64).targets fun g => g.ids.ref == .group 2 0) = [] ∧
    (match ((past 64).openImage 0x20000).2 with | .error _ => true | .ok _ => false) = true ∧ (past 64).rangeBad ((past 64).place (past 64).g .c 64) 64 = false := by decide +kernel

theorem witness_SystemOperations :
    ([Instr.haltgHalt (fs true 4 8), .haltgGo (fs true 4 8 0 0 15 1), .haltgAtt (fs true 4 8 0 0 15 2), .haltgDet (fs true 4 8 0 0 15 3), .haltgRel (fs true 4 8 0 0 15 4),
      (Instr.park (fs true 0 0 0 0 15 0 1)), (Instr.worldSet (fs true 0 0 0 0 15 0 0)), (Instr.worldGet (fs true 0 0 0 0 15 1 0)), (Instr.icsync (fs true 0 0 0 0 15 0 0)), Instr.icsync (fs true 0 0 0 0 15 1), (Instr.tlbinvPage (fs true 0 0 0 0 15 0 0)), (Instr.tlbinvAsn (fs true 0 0 0 0 15 1 0)), (Instr.tlbinvAll (fs true 0 0 0 0 15 2 0)), (Instr.trqpop (fs true 0 0 0 0 15 0 0)), Instr.trqpop (fs true 1 8 0 0 15 1)].all fun i => clearB i prf) ∧
    ((rs [(8, 0), (9, 1)] prf).resident 0x100000000).isSome = true ∧ prf.resident 0 = none ∧
    (prf.pref 0).evpend = 0 ∧ ({ (prf.pref 0) with trapq := [{ typ := 1 }] } : Prefect).evpend &&& 0xFF ≠ 0 ∧ prf.satisfied 0 prf.g.dom = true ∧
    (let s := { gw grp fun g => { g with sched := { g.sched with haltReq := true, expiry := true } } with arg := { c := .group 1 0 } }
     (s.ctx? s.arg.c).isSome = true ∧ s.g.sched.ended = false ∧ s.arrivals = [] ∧ s.g.over = false ∧ s.g.sched.expiredAt + s.g.sched.delay ≤ s.clock) ∧
    firstPosted [{ tick := 0, core := 0, slot := 0, rcd := {} }] ≠ none := by decide +kernel

theorem witness_Witnesses :
    ([(Instr.wmrgMrg (f3 .b32 true 0 4 8 0 0)), (Instr.wmrgGet (f3 .b32 true 1 4 8 0 0)), (Instr.wmrgPut (f3 .b32 true 2 4 8 0 0)), (Instr.wmark (f3 .b32 true 0 4 0 0 0)), (Instr.wwait (f3 .b32 true 0 0 8 0 0)), (Instr.wtest (f3 .b32 true 0 4 8 0 0)), Instr.wtest (f3 .b32 true 1 1 8 0 0), .wnow (f3 .b32 true 4 3 0 0 0)].all fun i => clearB i grp) ∧
    grp.g.storesFormed = true ∧ (gw grp fun g => { g with pend := [{ owed with store := true, ready := false }] }).g.storesFormed = false ∧
    wValid 0 = true ∧ wValid (mkWit { scope := 5, id := 0 } 0) = true ∧ wValid (BitVec.ofNat 64 (2 ^ 64 - 1)) = false ∧ grp.satisfied 0 grp.g.dom = true ∧
    wScope (mkWit { scope := 1, id := 7 } 3) ≠ 0 ∧ expired 5 (wTick (mkWit { scope := 1, id := 7 } 3)) = false ∧
    (let a : Acc := { id := 1, owner := none, op := .store [1] false, loc := 0x30000, n := 1, tick := 2, org := { scope := 1, id := 7 }, dst := { scope := 4, id := 0 } }
     ({ grp with clock := 9, accs := [a] } : State).satisfied (mkWit { scope := 1, id := 7 } 3) grp.g.dom = false) ∧
    ({ grp with clock := 256 } : State).lastExchange + 256 ≤ 256 ∧ ({ grp with peers := [(3, { state := 1 })] } : State).peerUp 3 = true := by decide +kernel

/-! ### Memory and synchronisation -/

/-- `Begins` can hold: every unit is admitted. -/
def beginsB (s : State) (op : MemOp) (p : Pend) : Bool :=
  (State.admitAll { op with pend := s.nextId } op.reqs ({ s with nextId := s.nextId + 1 }.modG fun g =>
    { g with pend := g.pend ++ [{ p with id := s.nextId, level := g.traps.level }] })).2.isEmpty
/-- Lane 1's address in V8. -/
def to1 (a : Nat) : State := gw grp fun g => g.wrV 8 1 (BitVec.ofNat 32 a)
/-- A C access of four bytes; a G one. -/
def c4 : FM := fm .c .b32 false 4 8 0 15 15
def g4 : FM := fm .g .b32 false 4 8 0 15 15
def d4 : FM := fm .d .b32 false 4 8 0 15 15

theorem witness_AddressChecks :
    fmAddr (to1 5).g c4 false 1 % 4 ≠ 0 ∧ fmAddr (to1 65536).g c4 false 1 = 65536 ∧ (to1 65536).limit (to1 65536).g .c = 65536 ∧ fmAddr (to1 65532).g c4 false 1 + 4 ≤ 65536 ∧
    fmAddr (to1 0x10000000).g d4 false 1 + 4 > 2 ^ 28 ∧ fmAddr (gw (to1 0x10000) fun g => g.wrV 9 1 0x01000000).g g4 false 1 ≥ (2 ^ 56 : Nat) ∧
    ([(Instr.ld (fm .c .b32 false 4 8 0 15 15 0 false 0 0 false)), (Instr.st (fm .c .b32 false 4 8 0 15 15 0 false 0 0 false)), (Instr.ldlk (fm .c .b32 false 4 8 0 15 15 0 false 0 0 false)), (Instr.stul (fm .c .b32 false 4 8 0 15 15 0 false 0 0 false)), (Instr.atom (fm .k .b32 false 4 8 0 15 15 0 false 0 0 false)), (Instr.atomc (fm .c .b32 false 4 8 0 15 15 0 false 0 0 false)), (Instr.ldw (fm .c .b32 false 4 8 0 15 15 0 false 0 0 false))].all fun i => clearB i (to1 5) && clearB i (to1 65536)) ∧
    (to1 5).laneCheck (to1 5).g c4 .load false 1 = some 0x13 ∧ (to1 5).laneCheck (to1 5).g c4 .load false 0 = none ∧ (to1 65536).laneCheck (to1 65536).g c4 .store false 1 = some 0x12 ∧
    beginsB grp (loadOp c4 grp.g) (loadPend c4 1) ∧ (loadOp c4 grp.g).reqs.length = 2 ∧ grp.g.pend = [] ∧
    beginsB { grp with g := (grp.g.wrV 8 0 0x10000).wrV 8 1 0x10004 } (loadOp g4 ((grp.g.wrV 8 0 0x10000).wrV 8 1 0x10004)) (loadPend g4 1) := by decide +kernel

theorem witness_LoadsAndStoresBegin :
    ([(Instr.ld (fm .c .b32 false 4 8 0 15 15 0 false 0 0 false)), (Instr.st (fm .c .b32 false 4 8 0 15 15 0 false 0 0 false)), (Instr.ldw (fm .c .b32 false 4 8 0 15 15 0 false 0 0 false)), (Instr.ldlk (fm .c .b32 false 4 8 0 15 15 0 false 0 0 false)), (Instr.tld (fm .c .b32 false 4 8 0 15 15 0 false 0 0 true)), (Instr.tst (fm .c .b32 false 4 8 0 15 15 0 false 0 0 true)), (Instr.stul (fm .c .b32 false 4 8 0 15 15 0 false 0 0 false)), (Instr.atom (fm .k .b32 false 4 8 0 15 15 0 false 0 0 false)), (Instr.atomc (fm .c .b32 false 4 8 0 15 15 0 false 0 0 false))].all fun i => clearB i grp) ∧ actLanes grp.g (hdr false) = [0, 1] ∧ grp.g.ld < 63 ∧ grp.g.logHolds .c .load = false ∧
    wValid (grp.g.rdW 1) ∧ grp.satisfied (grp.g.rdW 1) grp.g.dom ∧ beginsB grp (loadOp (fm .c .b32 false 4 8 0 15 15 0 false 0 0 false) grp.g) (loadPend (fm .c .b32 false 4 8 0 15 15 0 false 0 0 false) ((fm .c .b32 false 4 8 0 15 15 0 false 0 0 false)).width.regs) ∧
    (lockKeys (fm .c .b32 false 4 8 0 15 15 0 false 0 0 false) grp).all (fun k => !grp.lockedFor (some grp.g.ids.ref) k) ∧ (lockKeys (fm .c .b32 false 4 8 0 15 15 0 false 0 0 false) grp).length = 1 ∧
    beginsB grp { loadOp (fm .c .b32 false 4 8 0 15 15 0 false 0 0 true) grp.g with reqs := tileReqs (fm .c .b32 false 4 8 0 15 15 0 false 0 0 true) grp.g false } (loadPend (fm .c .b32 false 4 8 0 15 15 0 false 0 0 true) (((fm .c .b32 false 4 8 0 15 15 0 false 0 0 true)).rows * ((fm .c .b32 false 4 8 0 15 15 0 false 0 0 true)).width.regs)) ∧ ((fm .c .b32 false 4 8 0 15 15 0 false 0 0 true)).ver = false ∧ grp.g.exec (hdr false) ≠ 0 ∧
    beginsB grp (storeOp (fm .c .b32 false 4 8 0 15 15 0 false 0 0 false) grp.g) (storePend (fm .c .b32 false 4 8 0 15 15 0 false 0 0 false) grp) ∧ beginsB grp { storeOp (fm .c .b32 false 4 8 0 15 15 0 false 0 0 true) grp.g with reqs := tileReqs (fm .c .b32 false 4 8 0 15 15 0 false 0 0 true) grp.g true, aon := none } { storePend (fm .c .b32 false 4 8 0 15 15 0 false 0 0 true) grp with ready := true } ∧
    beginsB grp (atomOp (fm .k .b32 false 4 8 0 15 15 0 false 0 0 false) grp.g) { storePend (fm .k .b32 false 4 8 0 15 15 0 false 0 0 false) grp with kind := .atomic } ∧ beginsB grp (storeOp (fm .c .b32 false 4 8 0 15 15 0 false 0 0 false) grp.g) (storePend (fm .c .b32 false 4 8 0 15 15 0 false 0 0 false) grp) ∧
    (gw grp fun g => { g with pend := List.replicate 63 { owed with countLd := true, marks := [] } }).g.ld = 63 ∧
    clearB (Instr.ld (fm .c .b32 false 4 8 0 15 15 0 false 0 0 false)) (gw grp fun g => { g with pend := List.replicate 63 { owed with countLd := true, marks := [] } }) ∧
    (lockKeys (fm .c .b32 false 4 8 0 15 15 0 false 0 0 false) grp).any (({ grp with locks := (lockKeys (fm .c .b32 false 4 8 0 15 15 0 false 0 0 false) grp).map (·, some (.detached 9)) } : State).lockedFor (some grp.g.ids.ref)) := by decide +kernel

/-- TLD.VER of one word at C address 64, whose version word lies before it; the word is odd in `torn`. -/
def ver : FM := { (fm .c .b32 false 4 8 0 15 15 0 false 0 0 true) with ver := true, off := 64 }
def torn (tries : Nat) : State := { gw grp fun g => { g with sched := { g.sched with tries } } with mem := code ++ [(grp.place grp.g .c 56, 1)] }

theorem witness_LoadsAndStoresBegin_careful :
    clearB (Instr.ldk (fm .c .b32 false 4 8 0 15 15 0 false 0 0 false)) grp ∧ ((fm .c .b32 false 4 8 0 15 15 0 false 0 0 false)).width.regs = 1 ∧ ([(ldkLane (fm .c .b32 false 4 8 0 15 15 0 false 0 0 false) (to1 5) 1), ldkLane (fm .c .b32 false 4 8 0 15 15 0 false 0 0 false) (to1 5) 0].map fun r => match r with | .error c => c | .ok _ => 0) = [0x13, 0] ∧
    clearB (.ldk { (fm .c .b32 false 4 8 0 15 15 0 false 0 0 false) with h := g1 }) grp ∧ actLanes grp.g g1 = [] ∧
    ([torn 0, torn 63, grp].all fun s => clearB (.tld ver) s && (actLanes s.g ver.h).all (fun l => (s.laneCheck s.g ver .load true l).isNone) && decide (s.g.exec ver.h ≠ 0) &&
      s.satisfied (s.g.rdW 1) s.g.dom && s.accs.isEmpty && s.tiles.isEmpty) ∧
    (fmAddr grp.g ver true 0).toNat = 64 ∧ (torn 0).mem.readN ((torn 0).place (torn 0).g .c 64 - 8) 8 % 2 = 1 ∧ grp.mem.readN (grp.place grp.g .c 64 - 8) 8 % 2 = 0 := by decide +kernel

/-- One access in flight. -/
def acc1 (op : AccOp) (loc n : Nat) : Acc := { id := 7, owner := some (.group 1 0), op, loc, n, tick := 0, org := { scope := 1, id := 0 }, dst := { scope := 4, id := 0 } }
def flying (op : AccOp) (loc n : Nat) : State := { grp with accs := [acc1 op loc n], arg := { id := 7, c := .group 1 0 } }

theorem witness_AccessesPerform :
    ([flying (.store [1, 2, 3, 4] false) 0x30000 4, flying (.store [1, 2, 3, 4] false) (grp.place grp.g .c 0) 4, flying (.atomic 1 0 4 0 5 0) 0x30000 4].all fun s =>
      (s.accs.find? (·.id == 7)).isSome && s.accs.all fun a => !s.blocked a) ∧ 0x30000 < Config.reservedBase ∧ (0xFFFFFFFF : Nat) < 2 ^ (8 * 4) := by decide +kernel

/-- A result with both lanes' data back. -/
def back (kind : PendKind) (store : Bool) : State :=
  let p : Pend := { id := 7, kind, marks := [.v 4], units := [0, 1].map fun l => { lane := l, addr := 0, reg := 4, width := .b32, got := some (5, false) }, store, wreg := 1 }
  { gw grp fun g => { g with pend := [p], wait := { kind := 4, addr := 7 } } with arg := { id := 7, c := .group 1 0 } }
/-- A load from G, of a page without a translation. -/
def away : FM := { g4 with h := hdr false }

theorem witness_ResultsReturn :
    ([back .load false, back .peer false, back .atomic true].all fun s => s.g.pend.all fun p => p.complete && p.ready && p.status.isEmpty && p.units.all fun e => decide (e.lane < 32)) ∧
    (gw grp (·.holdAtIssue)).g.sched.stalled ∧
    ([grp, { prf with roots := [] }].all fun s => clearB (.ld (if s.g.isSys then fm .g .b32 true 4 8 0 15 15 else away)) s) ∧
    ((State.admitAll { loadOp away grp.g with pend := 1 } (loadOp away grp.g).reqs grp).2.map (·.2)) = [0x10, 0x10] ∧
    grp.g.log.length < 4 ∧ grp.g.cluster < grp.prefs.length ∧
    (let e : LogEntry := { ix := 0, state := 2, op := { kind := .load, space := .g, width := .b32, uni := false, pend := 7, reqs := [{ lane := 0, addr := 0x10000, reg := 4 }] } }
     let s := gw (back .load false) fun g => { g with log := [e] }
     (s.g.log.find? (·.state == 2)) = some e ∧ (State.admitAll e.op e.op.reqs s).2.isEmpty) := by decide +kernel

/-- The group at a bell that has seen `n` arrivals. -/
def atBell (n : Nat) (ranked : List Ranked := []) : State := { grp with teams := [{ tm with bells := { arrived := n, expect := 2, amask := if n = 0 then 0 else 2, ranked } :: List.replicate 23 {} }] }
def met (s : State) : State := { gw s fun g => { g with wait := { kind := 1, addr := 0, comparand := 0xFFFFFFFF, sat := true } } with arg := { c := .group 1 0 } }

theorem witness_Bells :
    ([(Instr.binit (fs true 0 0 0 0 15 0 1)), (Instr.binitNow (fs true 0 0 0 0 15 1 1)), (Instr.barr (fs true 0 0 0 0 15 0 0)), (Instr.bwait (fs true 0 0 0 0 15 0 0)), (Instr.bsync (fs true 0 0 0 0 15 0 0)), (Instr.barrm (fs true 0 0 0 0 15 0 0))].all fun i => [atBell 0, atBell 1, met (atBell 0)].all (clearB i)) ∧ (grp.team? grp.g).isSome ∧
    ((atBell 0).bell 0).arrived = 0 ∧ ((atBell 1).bell 0).expect ≤ ((atBell 1).bell 0).arrived + 1 ∧ wValid (grp.g.rdW 15) ∧ grp.g.storesFormed ∧
    bit ((atBell 1).bell 0).amask grp.g.ids.gpos = false ∧
    bit (({ atBell 1 with teams := [{ tm with bells := List.replicate 24 { arrived := 1, expect := 2, amask := 1 } }] } : State).bell 0).amask 0 ∧
    (Instr.binit { (fs true 0 0 0 0 15 0 1) with sel := 23, imm := 32 }).wf ∧ (Instr.binitNow (fs true 0 0 0 0 15 1 1)).wf := by decide +kernel

def mw : FM := { fm .c .b32 true 4 8 0 15 15 with ubase := true }

theorem witness_WaitsAndSleeps :
    ([(Instr.mwait (fm .c .b32 true 4 8 0 15 15 0 false 0 0 false)), (Instr.wait (fs true 0 0 0 0 15 0 0)), (Instr.sleep (fs true 0 0 0 0 15 0 0))].all fun i => clearB i grp) ∧ ((actLanes grp.g ((fm .c .b32 true 4 8 0 15 15 0 false 0 0 false)).h).all fun l => (grp.laneCheck grp.g (fm .c .b32 true 4 8 0 15 15 0 false 0 0 false) .load false l).isNone) ∧
    grp.mem.readN (grp.place grp.g .c 0) 4 = grp.g.rd true 4 0 1 ∧ grp.mem.readN (grp.place grp.g .c 0) 4 ≠ (rs [(4, 1)] grp).g.rd true 4 0 1 ∧
    clearB (Instr.mwait (fm .c .b32 true 4 8 0 15 15 0 false 0 0 false)) (rs [(4, 1)] grp) ∧ grp.g.ld ≤ 0 ∧ grp.g.cmds.sc ≤ 0 ∧ clearB (Instr.wait (fs true 0 0 0 0 15 0 0)) (gw grp fun g => { g with cmds := { g.cmds with cp := 1 } }) ∧
    (let s := { gw (turnAt (encode (Instr.mwait (fm .c .b32 true 4 8 0 15 15 0 false 0 0 false)))) fun g => { g with wait := { kind := 5 }, sched := { g.sched with watch := some 0, recheck := true } } with arg := { c := .group 1 0 } }
     decodesTo (lineSlot ((encode (Instr.mwait (fm .c .b32 true 4 8 0 15 15 0 false 0 0 false))).setWidth 512 <<< 32) (slotIx s.g.flow.pc)) (Instr.mwait (fm .c .b32 true 4 8 0 15 15 0 false 0 0 false)) ∧ s.g.sched.recheckAt ≤ s.clock) ∧
    clearB (Instr.sleep (fs true 0 0 0 0 15 0 0)) (gw grp fun g => { g with wait := { kind := 10, sat := true } }) ∧ (Instr.sleep { (fs true 0 0 0 0 15 0 0) with imm := 0x7FFFFFFF }).wf := by decide +kernel

/-! ### Matrix engine, copy and scan engines, populations -/

/-- The team with its first tile in affine mode. -/
def aff : State := { grp with teams := [{ tm with tiles := [{ aff := true }, {}] }] }
def drn : FX := (fx true 0 0 0 0 0 0 0 0 0 0 0)
/-- A drain to C address 0 with rows of 256 bytes. -/
def wideS (s : State) : State := rs [(0, 0), (2, 256)] s
/-- The team's operation in its turn. -/
def op1 (what : MxWhat) (phase : Nat := 0) : MxOp := { id := 7, c := .group 1 0, grid := 1, team := 0, core := 0, tile := 0, cls := 0, level := 0, what, wreg := 1, phase }
def inTurn (what : MxWhat) (phase : Nat := 0) : State := { aff with mxq := [op1 what phase], arg := { id := 7, c := .group 1 0 } }

theorem witness_MatrixIssue :
    ([(Instr.mzero (fx true 0 0 0 0 0 0 0 0 0 0 0)), (Instr.mlda (fx true 0 0 0 0 0 0 0 0 0 0 0)), (Instr.msta (fx true 0 0 0 0 0 0 0 0 0 0 0)), (Instr.mdrn (fx true 0 0 0 0 0 0 0 0 0 0 0)), (Instr.mma (fx false 0 0 0 0 0 0 0 0 0 0 0)), (Instr.mafm (fx true 0 0 0 0 0 0 0 0 0 0 0)), (Instr.mgain (fx true 0 0 0 0 0 0 0 0 0 0 0)), (Instr.mset (fx true 0 0 0 0 0 0 0 0 0 0 1)), (Instr.mscan (fx true 0 0 0 0 0 0 0 0 0 0 0)), (Instr.mcryGet (fx false 0 0 0 0 0 0 0 0 0 0 0)), (Instr.mcryPut (fx false 0 0 0 0 0 0 0 0 0 0 1)), (Instr.mcryUfg (fx false 0 0 0 0 0 0 0 0 0 0 2)), (Instr.mcryUfc (fx false 0 0 0 0 0 0 0 0 0 0 3)), Instr.mma { (fx false 0 0 0 0 0 0 0 0 0 0 0) with h := g1 }, .mcryGet { (fx false 0 0 0 0 0 0 0 0 0 0 0) with h := g1 },
      .mma { (fx false 0 0 0 0 0 0 0 0 0 0 0) with idx := 20 }].all fun i => clearB i aff && clearB i grp) ∧
    aff.limit aff.g .c = 65536 ∧ grp.g.cmds.mx < 31 ∧ (gw grp fun g => { g with cmds := { g.cmds with mx := 31 } }).g.cmds.mx = 31 ∧ clearB (Instr.mzero (fx true 0 0 0 0 0 0 0 0 0 0 0)) (gw grp fun g => { g with cmds := { g.cmds with mx := 31 } }) ∧
    modeAt aff 0 ∧ modeAt grp 0 = false ∧ drainFault drn (wideS grp) (drainOf drn (wideS grp).g) = none ∧ clearB (Instr.mdrn (fx true 0 0 0 0 0 0 0 0 0 0 0)) (wideS grp) ∧ (drainFault drn (rs [(0, 8)] grp) (drainOf drn (rs [(0, 8)] grp).g)).isSome ∧
    mxFormat (mmaOf (fx false 0 0 0 0 0 0 0 0 0 0 0) grp.g) = none ∧ mmaFault grp (mmaOf (fx false 0 0 0 0 0 0 0 0 0 0 0) grp.g) (mmaRows (fx false 0 0 0 0 0 0 0 0 0 0 0) grp.g) = none ∧ (mmaFault (rs [(0, 8)] grp) (mmaOf (fx false 0 0 0 0 0 0 0 0 0 0 0) (rs [(0, 8)] grp).g) (mmaRows (fx false 0 0 0 0 0 0 0 0 0 0 0) (rs [(0, 8)] grp).g)).isSome ∧
    grp.g.exec ((fx false 0 0 0 0 0 0 0 0 0 0 0)).h ≠ 0 ∧ grp.g.exec g1 = 0 ∧
    (rs [(0, 65472)] grp).g.rdS 0 % 64 = 0 ∧ clearB (Instr.mlda (fx true 0 0 0 0 0 0 0 0 0 0 0)) (rs [(0, 65472)] grp) ∧ clearB (Instr.msta (fx true 0 0 0 0 0 0 0 0 0 0 0)) (rs [(0, 1)] grp) ∧ ((fx true 0 0 0 0 0 0 0 0 0 0 1)).opx.getLsbD 0 := by decide +kernel

theorem witness_TilesAndTables :
    ([(Instr.macq (fx true 0 0 0 0 0 0 0 0 0 0 0)), (Instr.macqTry (fx true 0 0 0 0 0 0 0 0 0 0 64)), (Instr.mrel (fx true 0 0 0 0 0 0 0 0 0 0 0)), (Instr.mtab (fx true 0 0 0 0 0 0 0 0 0 0 0)), (Instr.mcls (fx true 0 0 0 0 0 0 0 0 0 0 0)), (Instr.mchk (fx true 0 0 0 0 0 0 0 0 0 0 0)), Instr.macq { (fx true 0 0 0 0 0 0 0 0 0 0 0) with opx := 2 }, .macq { (fx true 0 0 0 0 0 0 0 0 0 0 0) with opx := 32 }, .macqTry { (fx true 0 0 0 0 0 0 0 0 0 0 64) with opx := 64 + 32 }, .mrel { (fx true 0 0 0 0 0 0 0 0 0 0 0) with opx := 2 },
      .mchk { (fx true 0 0 0 0 0 0 0 0 0 0 0) with opx := 1 }].all fun i => clearB i grp) ∧ (grp.team? grp.g).map (·.tiles.length) = some 2 ∧ grp.waiters 0 1 = [] ∧ grp.freeTiles 0 = 30 ∧
    (grp.place grp.g .c 0, grp.rangeBad (grp.place grp.g .c 0) 1040) = (2 ^ 60, false) ∧ ((grp.tile 1 0 0).check 0).isNone ∧ ((({ pr := [(0, 1)] } : Tile)).check 0).isSome ∧
    signedOf 32 0 = 0 ∧ (FV.read .f32 0).special = false ∧
    (let s := gw grp fun g => { g with wait := { kind := 7, addr := 1, comparand := 3 * 2 ^ 58 } }
     s.g.wait.count = 3 ∧ (oldest s.now (s.waiters 0 1)).isSome ∧ s.g.wait.count - 2 ≤ s.freeTiles 0 ∧ s.teamBlocked tm ∧ s.teamHolds tm ∧ (s.deadlockOf 0).isSome) ∧
    (let s := { gw grp fun g => { g with wait := { kind := 7, addr := 1, comparand := 3 * 2 ^ 58 } } with teams := [{ tm with tiles := List.replicate 2 {} }, { tm with team := 1, tiles := List.replicate 30 {} }] }
     s.starved 0 ∧ s.deadAt.get 0 0 ≤ s.clock) := by decide +kernel

theorem witness_MatrixSums : ([(-128 : Int), 127, 0].all fun x => x.natAbs ≤ 128) ∧ (List.range 32).length = 32 ∧ ([0, 63].Nodup) ∧ (63 < 64) := by decide

/-- A candidate of one MMA of one step on tile 0. -/
def mmaOp : Mma := { z := true, nf := false, a0 := 0, stride := 64, b0 := 4096, fa := .i8, fb := .i8, steps := 1, bands := [0], bscale := [], bsel := false,
                     rows := [{ row := 0, idx := 0, scale := 0, first := 0, bad := false }] }
def opened (closed : Bool) : State := { inTurn (.mma mmaOp) with clock := 4, cands := [{ id := 0, core := 0, opened := 0, closed, bands := [0], mmas := [7] }], arg := { id := 0 } }

theorem witness_Passes :
    (opened false).cands.all (fun c => decide (c.opened + 4 ≤ (opened false).clock)) ∧ ((opened true).cands.map fun c => ((opened true).members c).length) = [1] ∧ (opened true).accs = [] ∧
    ((opened true).nextPass 0).isSome ∧ (opened true).passes = [] ∧ ({ opened true with passes := [{ core := 0, cand := 0, rows := [(7, 0, 0, false)] }] } : State).passes.any (·.core == 0) ∧
    (opened true).teams.any (fun t => decide (t.grid = 1 ∧ t.team = 0 ∧ 0 < t.tiles.length)) := by decide +kernel

theorem witness_TilePortTurns :
    ([MxWhat.zero, .load 0 true, .store 0 false, .gain 0 true true, .set (some 1) none 0 63, .scan true true (-20), .mode true, .putH [(31, 5)], .clearU 1].all fun w =>
      let s := inTurn w
      (s.mxq.find? (·.id == s.arg.id)).isSome && s.mxq.all (s.turn ·) && s.accs.isEmpty && s.tiles.isEmpty && decide ((op1 w).c = s.g.ids.ref)) ∧
    [(31, (5 : DWord))].map (·.1) = [31] ∧
    (let s := gw (inTurn (.getH 7)) fun g => { g with pend := [{ id := 7, kind := .load, marks := [.v 4], units := [{ lane := 0, addr := 0, reg := 4, width := .b64 }] }] }
     (s.g.pend.find? (·.id == 7)).isSome ∧ (s.tile 1 0 0).hp = 0 ∧ s.g.flow.dead = 0) ∧
    (let d := drainOf drn (wideS grp).g
     let s := inTurn (.drain d)
     ((s.tile 1 0 0).check 0).isNone ∧ d.space = .c ∧ d.nck = false ∧ (s.mxq.all (s.turn ·)) ∧ ((inTurn (.drain d) 3).mxq.find? fun o => o.id == 7 && o.phase == 3).isSome) := by decide +kernel

/-- A copy of 8 bytes within C from S8.., its parameters in S8 to S15. -/
def cpy : FC := { (fc 0 false true 0 0 0 0) with sa := 8, reply := 1 }
def par (s : State) (n rows : Nat) : State := rs [(8, 0), (9, 0), (10, 4096), (11, 0), (12, n), (13, rows), (14, 64), (15, 64)] s

theorem witness_CommandsIssue :
    ([Instr.cpyMove cpy, .cpyGath { cpy with fn := 1 }, .cpyScat { cpy with fn := 2 }, .cpyFill { cpy with fn := 3 }, .scn { (fc 0 false true 0 0 0 12) with sa := 8 }, (Instr.cpqLast (fc 0 false false 0 0 0 0)), (Instr.cpqQry (fc 1 false false 0 0 0 0)), (Instr.cpqCan (fc 2 false false 0 0 0 0)), (Instr.cpqCanall (fc 3 false false 0 0 0 0))].all fun i =>
      clearB i (par grp 8 2) && clearB i (par grp 0 0)) ∧
    cpyFault cpy (par grp 8 2) (cpyCmd cpy (par grp 8 2)) = none ∧ (cpyCmd cpy (par grp 8 2)).empty = false ∧ (cpyCmd cpy (par grp 0 0)).empty ∧
    (cpyFault cpy (rs [(8, 2)] (par grp 8 2)) (cpyCmd cpy (rs [(8, 2)] (par grp 8 2)))).isSome ∧ grp.g.cmds.cp < 31 ∧
    reachB (.cpyMove { cpy with yc := true }) (par grp 8 2) ∧ clearB (.cpyMove { cpy with yc := true }) (par grp 8 2) ∧
    clearB (.cpyMove cpy) (gw (par grp 8 2) fun g => { g with cmds := { g.cmds with cp := 31 } }) ∧
    scnFault { (fc 0 false true 0 0 0 12) with sa := 8 } (par grp 0 0) (scnCmd { (fc 0 false true 0 0 0 12) with sa := 8 } (par grp 0 0)) = none ∧
    (scnFault { (fc 0 false true 0 0 0 12) with sa := 8 } (rs [(10, 8)] (par grp 0 0)) (scnCmd { (fc 0 false true 0 0 0 12) with sa := 8 } (rs [(10, 8)] (par grp 0 0)))).isSome ∧
    grp.myCmd 0 = none ∧ (({ par grp 8 2 with cmds := [cpyCmd cpy (par grp 8 2)] } : State).myCmd 0).isSome := by decide +kernel

/-- A command in the list of core 0's engine. -/
def cmd1 (k : EngCmd → EngCmd) : State := { par grp 8 2 with cmds := [k { cpyCmd cpy (par grp 8 2) with id := 7 }], arg := { id := 7, c := .group 1 0 } }
def scn1 (k : EngCmd → EngCmd) : State := { par grp 8 2 with cmds := [k { scnCmd { (fc 0 false true 0 0 0 12) with sa := 8 } (par grp 0 0) with id := 7 }], arg := { id := 7, c := .group 1 0 } }

theorem witness_CommandsRun :
    (let s := { cmd1 id with arg := { id := 0 } }
     ((s.cmds.filter fun x => x.core == 0).find? (·.phase == 0)).isSome ∧ s.cmds.all fun c => c.dsp == .c && c.ssp == .c && !c.gath && !c.scat) ∧
    ([cmd1 fun c => { c with phase := 1 }, cmd1 fun c => { c with phase := 1, row := 1 }, cmd1 fun c => { c with phase := 1, cancelled := true }].all fun s =>
      (s.cmds.find? fun x => x.id == s.arg.id && !x.scn).isSome && s.cmds.all fun c => decide (c.phase = 1 ∧ c.row < c.rows ∧ c.rows = 2 ∧ c.c = s.g.ids.ref ∧ c.aon = false)) ∧
    ([scn1 fun c => { c with phase := 3 }, scn1 fun c => { c with phase := 1 }, scn1 fun c => { c with phase := 1, cancelled := true }].all fun s =>
      (s.cmds.find? fun x => x.id == s.arg.id && x.scn).isSome && s.cmds.all fun c => c.dsp == .c && !c.aon && (scanRows s c).isSome) ∧
    (let s := { gw grp fun g => { g with wait := { kind := 8, addr := 0x10010 } } with arg := { c := .group 1 0 } }
     (s.ctx? s.arg.c).map (·.wait.kind) = some 8 ∧ s.cmds = [] ∧ s.satisfied s.g.wait.witness s.g.dom) := by decide +kernel

/-- The group in a population of its own. -/
def pop : State := { grp with grids := [{ gid := 1, addr := 0, asn := 0, world := 0, cap := 7, phase := 2, desc := { flags := 1 } }] }
def rsmp : FS → Instr := fun _ => .rsmp { f3 .f32 false 0 1 8 20 2 with ub := true }
def arr (n : Nat) (ready : Bool) : State := { pop with arrivals := [{ c := .group 1 0, gid := 1, n, weights := [(0, 0x3F800000), (1, 0x3F800000)], mark := 0, pd := 1, wx := 2, ready }], arg := { id := 1 } }

theorem witness_Populations :
    ([(Instr.linrd (f3 .b32 false 0 4 0 0 0)), (Instr.popq (f3 .b32 true 0 4 0 0 0)), (Instr.rngsSet (f3 .b32 true 0 0 8 0 0)), (Instr.rngsGetk (f3 .b32 true 1 4 0 0 0)), (Instr.rngsGetn (f3 .b32 true 2 4 0 0 0)), (Instr.rng (f3 .b32 false 0 4 0 0 0)), rsmp (fs true), Instr.popq (f3 .b32 true 2 4 0 0 0), .linrd (f3 .b32 false 3 4 0 0 0)].all fun i => clearB i pop && clearB i grp) ∧
    pop.g.isSys = false ∧ pop.isPop pop.g.ids.grid ∧ grp.isPop 1 = false ∧ pop.g.quiet ∧ clearB (rsmp (fs true)) { halfway [call1] with grids := pop.grids } ∧
    ((arr 2 false).collective 1).isSome ∧ ((arr 2 false).collective 1).bind rsmpVerdict = none ∧ ((arr 64 false).collective 1).bind rsmpVerdict = some 1 ∧ ((arr 2 true).collective 1).isSome ∧
    (arr 2 true).others = [] ∧ (particles [(pop.g, { c := .group 1 0, gid := 1, n := 2, weights := [(0, 0x3F800000), (1, 0x3F800000)], mark := 0, pd := 1, wx := 2 })]).any (·.live) := by decide +kernel

/-! ### Launches, feed queues, messages, I/O, keys -/

/-- Feed queue 0 with four slots, `n` records in it, enabled or not. -/
def fed (n : Nat) (on : Bool := true) (s : State := grp) : State :=
  { s with mem := code ++ [(feedAt 0 + 4, 4)] ++ (if on then [(feedAt 0 + 8, 1)] else []) ++ (if n = 0 then [] else [(feedAt 0 + 0x18, BitVec.ofNat 8 n)]), arg := { id := 0, c := .group 1 0 } }

theorem witness_LaunchInstructions :
    ([(Instr.launch (fs true 0 0 0 0 15 0 0)), (Instr.wpush (fs true 0 0 0 0 15 0 0)), (Instr.wpop (fs true 0 0 0 0 15 0 0)), (Instr.wdone (fs true 0 0 0 0 15 0 0)), (Instr.dlchk (fs true 0 0 0 0 15 0 0)), Instr.wpush { (fs true 0 0 0 0 15 0 0) with var8 := 1 }, .wpop { (fs true 0 0 0 0 15 0 0) with var8 := 1 }].all fun i => clearB i grp && clearB i (rs [(0, 8)] grp) && clearB i (fed 1)) ∧
    wValid (grp.g.rdW 15) ∧ grp.launchFull = false ∧ grp.g.storesFormed ∧ (64 ≤ grp.limit grp.g .c) ∧
    ((fed 0).feed 0).map (fun q => (q.enabled, q.world, q.count, q.cap)) = some (true, 0, 0, 4) ∧ ((fed 4).feed 0).map (·.count) = some 4 ∧ (grp.feed 0).isNone ∧
    ((fed 1).feed 0).map (·.world) ≠ some (gw (fed 1) fun g => { g with ids := { g.ids with world := 1 } }).g.ids.world ∧
    ((fed 1).place (fed 1).g .c 0, feedAt 0) = (2 ^ 60, 2 ^ 62 + 0x1FFC000) ∧
    ({ grp with grids := List.replicate 4096 { gid := 2, addr := 0, asn := 0, world := 0, cap := 7 } } : State).launchFull ∧
    (let op : MemOp := { kind := .store, space := .g, width := .b64, uni := true, wo := 0, pend := 1, reqs := [{ lane := 0, addr := 0x10100, reg := 0 }] }
     ((State.admitOp op grp).map fun x => x.2.2.isEmpty) = some true) ∧
    wValid ((gw grp fun g => g.wrW 3 (BitVec.ofNat 64 (2 ^ 64 - 1))).g.rdW 3) = false ∧ (Instr.wdone { (fs true 0 0 0 0 15 0 0) with wf := 3 }).wf := by decide +kernel

/-- A grid in the launch queue; one placeable, of one team of one group. -/
def queued (k : Grid → Grid) : State := { grp with grids := [k { gid := 1, addr := 0x10080, asn := 0, world := 0, cap := 7, desc := { gx := 1, gy := 1, gz := 1, gang := 1, ngrp := 1, cls := [0] } }], teams := [], arg := { id := 1 } }

theorem witness_LaunchEvents :
    ((queued id).grid? 1).map (·.phase) = some 0 ∧ (queued id).satisfied 0 { scope := 4, id := 0 } ∧ ((queued id).readVa hubCluster 0 0 0x10080 128).isSome ∧
    ((queued fun x => { x with phase := 1 }).grid? 1).map (fun x => (x.phase, x.verdict, x.desc.teams != 0)) = some (1, 0, true) ∧ (queued id).depMet 0 ∧
    ((queued fun x => { x with phase := 1, verdict := 3 }).grid? 1).map (·.verdict) = some 3 ∧
    ((queued fun x => { x with phase := 2 }).grid? 1).map (·.waiting) = some true ∧
    (((queued fun x => { x with phase := 2 }).grid? 1).bind fun x => State.placeGangs x [] 1 0 (queued fun x => { x with phase := 2 })).isSome ∧
    (((queued fun x => { x with phase := 2, desc := { x.desc with cspad := 2 ^ 30 } }).grid? 1).bind fun x => State.placeGangs x [] 1 0 (queued id)).isNone ∧
    (let s := { queued fun x => { x with phase := 2, blockedAt := some 0 } with clock := 12500 }
     (s.grid? 1).map (·.blockedAt) = some (some 0) ∧ 0 + 12500 ≤ s.clock) ∧
    (let s := gw (fed 1) fun g => { g with wait := { kind := 2, addr := 0 } }
     (s.feed 0).isSome ∧ (firstParked ((s.poppers 0).filter (!·.wait.sat))).isSome ∧ ((s.poppers 0).filter (·.wait.sat)).length < 1) ∧
    ((fed 0 false).feed 0).map (·.enabled) = some false ∧ (fed 0 false).poison = [] := by decide +kernel

theorem witness_GroupsStartAndEnd :
    (((queued id).grid? 1).bind fun x => (queued id).placeTeam x 0 0).isSome ∧
    (let s := { gw grp fun g => { g with sched := { g.sched with finalWait := true } } with arg := { c := .group 1 0 }, gangs := [] }
     s.g.isSys = false ∧ s.drained s.g ∧ (s.team? s.g).isSome ∧ s.savedAlone 1 0 = false ∧ s.others = [] ∧ s.grids.all (fun x => decide (x.killed = false ∧ x.teamsOver + 1 ≠ x.desc.teams)) ∧
     ({ s with others := [{ grpCtx with ids := { grpCtx.ids with ref := .group 1 1 } }] } : State).others.any fun o => o.inTeam 1 0 && !o.sched.ended) := by decide +kernel

/-- A message of type 1 under way to a mailbox. -/
def wire1 (dst : Nat) (mgmt : Bool) : Wire := { id := 7, src := 3, dst, mgmt, due := 0, bytes := toBytes 2 1 ++ List.replicate 62 0 }
def posting (dst : Nat) (mgmt : Bool := false) : State := { { State.reset with wires := [wire1 dst mgmt] } with arg := { id := 7 } }

theorem witness_Messages :
    ([(Instr.msgsnd (fs true 0 0 0 0 15 0 0)), (Instr.msgrcv (fs true 0 0 0 0 15 0 0)), Instr.msgsnd { (fs true 0 0 0 0 15 0 0) with b := 4, var8 := 1 }, .msgsnd { (fs true 0 0 0 0 15 0 0) with sel := 254, var8 := 2 }, .msgrcv { (fs true 0 0 0 0 15 0 0) with var8 := 2 }, .msgrcv { (fs true 0 0 0 0 15 0 0) with var8 := 1 }].all fun i => clearB i prf && clearB i (rs [(0, 8)] prf)) ∧
    80 ≤ ((rs [(4, 80)] prf).g.rdS 4).toNat ∧ clearB (.msgsnd { (fs true 0 0 0 0 15 0 0) with b := 4, var8 := 1 }) (rs [(4, 80)] prf) ∧ (64 ≤ prf.limit prf.g .c) ∧ (prf.pref 0).mailbox.length + prf.underWay 0 false < 128 ∧ (prf.modPref 0 fun q => { q with mailbox := List.replicate 128 [] }).pref 0 ≠ prf.pref 0 ∧
    ([posting 0, posting 0 true, posting 254].all fun s => s.wires.all fun w => decide (w.due ≤ s.clock) && decide (w.dst = 254 ∨ w.dst < s.prefs.length)) ∧
    State.reset.prefs.length = 93 ∧ State.reset.g.sched.held ∧ field (wire1 0 false).bytes 0 2 = 1 := by decide +kernel

theorem witness_DirectIo :
    ([(Instr.iosubNvme (fs true 0 0 0 0 15 0 0)), (Instr.iosubTx (fs true 0 0 0 0 15 1 0)), (Instr.iosubRx (fs true 0 0 0 0 15 2 0)), (Instr.iopoll (fs true 0 0 0 0 15 0 0)), Instr.iosubNvme { (fs true 0 0 0 0 15 0 0) with var8 := 4 }, .iopoll { (fs true 0 0 0 0 15 0 0) with var8 := 1 }].all fun i => clearB i prf) ∧
    prf.g.own = 0 ∧ prf.iocmds.length < 64 ∧ (32 ≤ prf.limit prf.g .c) ∧ 0 ∉ prf.hub.up ∧ (prf.pref 0).completions = [] ∧
    (State.ioPages prf 0 0 0 .load (pagesOf [(0x10000, 4096)])).isSome ∧ (State.ioPages prf 0 0 0 .load (pagesOf [(0x20000, 4096)])).isNone := by decide +kernel

/-- A descriptor of the identity page at the hub: a drive's read (op 2) or write (op 1), or a packet's. -/
def io1 (cls op : Nat) (sent : Bool) : IoCmd :=
  { id := 7, pref := 0, port := 0, cls, wit := 0, sent, pages := [(1, { asn := 0, vpage := 1, pages := 1, entry := 0x10000001F })]
    desc := if cls = 0 then toBytes 1 op ++ List.replicate 23 0 ++ toBytes 8 0x10000 ++ List.replicate 32 0 else toBytes 8 64 ++ toBytes 8 0x10000 ++ List.replicate 48 0 }
def hubbed (c : IoCmd) : State := { prf with iocmds := [c], hub := { up := [0, 8] }, arg := { id := 7, ok := true } }

theorem witness_IoEvents_page : 0 < (io1 0 2 true).len ∧ (io1 0 2 true).len ≤ 2 ^ 16 := by
  have h : (io1 0 2 true).len = 2 ^ (9 + (Config.lbaShift 0).val) := by simp [IoCmd.len, IoCmd.op, IoCmd.word, io1, toBytes, field, ofBytes]
  have := (Config.lbaShift 0).isLt
  refine ⟨by rw [h]; exact Nat.pow_pos (by decide), by rw [h]; exact Nat.pow_le_pow_right (by decide) (by omega)⟩

theorem witness_IoEvents :
    ([io1 0 2 false, io1 0 9 false, io1 1 0 false, { io1 0 2 false with fail := some 0x701 }].all fun c => (((hubbed c).iocmds.find? fun x => x.id == 7 && !x.sent).isSome) && (hubbed c).satisfied c.wit { scope := 4, id := 0 } &&
      decide (((hubbed c).pref c.pref).completions.length < 256)) ∧
    ([io1 0 2 true, io1 0 9 true, io1 1 0 true].all fun c => ((hubbed c).iocmds.find? fun x => x.id == 7 && x.sent).isSome) ∧
    ((io1 1 0 true).va, (io1 1 0 true).len, (io1 0 9 true).va, (io1 0 9 true).len, (io1 0 2 true).writes, (io1 0 9 true).writes) = (0x10000, 64, 0x10000, 16, true, false) ∧ (leafTgt 0x10000001F = 0) ∧ ({ asn := 0, vpage := 1, pages := 1, entry := 0x10000001F } : Tr).crypt.enc = false ∧
    (let s := { hubbed (io1 2 0 false) with arg := { id := 0, ok := true, bytes := List.replicate 60 0 } }
     s.arg.id < 8 ∧ 8 ∈ s.hub.up ∧ s.hub.frames = [] ∧ (s.iocmds.find? fun x => x.cls == 2 && x.port == 0 && x.pref == steer s.arg.bytes).isSome) ∧
    steer (List.replicate 12 0 ++ [8, 0, 0x45] ++ List.replicate 8 0 ++ [17] ++ List.replicate 12 0 ++ [1, 0]) = 256 % 80 := by decide +kernel

/-- The security core with an operand at C 0. -/
def keyed (op : List Byte) (x : Nat) : State := { rs [(8, 0), (12, x)] sec with mem := code.writeB (sec.place sec.g .c 0) op }
def bset (flags : Nat) : List Byte := toBytes 8 0x100 ++ toBytes 4 2 ++ [1, 5] ++ toBytes 1 flags ++ List.replicate 17 0

theorem witness_KeyOperations :
    ([Instr.keyopWset (fs true 4 8 12), .keyopKset (fs true 4 8 12 0 15 1), .keyopKdel (fs true 4 0 12 0 15 2), .keyopBset (fs true 4 8 12 0 15 3), .keyopSweep (fs true 4 8 12 0 15 4),
      .keyopSqry (fs true 4 0 12 0 15 5), .keyopMext (fs true 4 8 0 0 15 6), .keyopMrd (fs true 4 8 0 15 15 7)].filter (fun i => i.wf)).length = 8 ∧
    ([Instr.keyopWset (fs true 4 8 12), .keyopKset (fs true 4 8 12 0 15 1), .keyopKdel (fs true 4 0 12 0 15 2), .keyopBset (fs true 4 8 12 0 15 3), .keyopSweep (fs true 4 8 12 0 15 4),
      .keyopSqry (fs true 4 0 12 0 15 5)].all fun i => clearB i (keyed (bset 1) 1) && clearB i (rs [(8, 4)] sec)) ∧
    (keyed (bset 1) 1).worldBusy 5 = false ∧ (keyed (bset 1) 1).bsetBusy 1 (bset 1) = false ∧ (keyed (bset 1) 1).tags = [] ∧ sec.sweepUnits.length < 16 ∧
    (field (bset 1) 0 8, field (bset 1) 8 4, field (bset 1) 12 1, field (bset 1) 13 1, field (bset 1) 14 1) = (0x100, 2, 1, 5, 1) ∧
    ({ sec with bufs := [(1, { base := 0x100, frames := 2, world := 1, key := 5, valid := true })] } : State).bufs.get {} 1 ≠ {} ∧ (sec.measOf 0).length = 32 ∧
    (96 ≤ sec.limit sec.g .c) := by decide +kernel

/-! ### The security ring, the responder, the host, start-up, management, the kernel -/

/-- A sweep of one frame at a line whose MAC slot is right only for no key; the key is resident. -/
def swp (line : Nat) : State :=
  { State.reset with sweeps := [{ id := 7, buf := 1, line }], bufs := [(1, { base := 1, frames := 1, world := 1, key := 2, valid := true })], keys := [(130, some { k1 := [], k2 := [], km := [] })]
                     keyCache := [130], arg := { id := 7 } }
/-- The ring at 0x10000 with one entry: MEAS extension of register 5. -/
def ring (s : Nat) : State := { State.reset with roots := [(0, 0x2001)], hub := { secring := 0x10000 }, mem := [(0x2000, 1), (0x2001, 0x20), (0x2008, 0x1F), (0x200C, 1), (0x10000, 1)] ++
  (if s = 0 then [] else [(0x10040, 6), (0x10041, 5)]), arg := { ok := true } }

theorem witness_SweepsAndSecurityRing :
    ((swp 0x10000).sweeps.find? (·.id == 7)).isSome ∧ (swp 0x10000).sweeps.all ((swp 0x10000).sweepRuns ·) ∧ 0x10000 < (1 + 1) * 2 ^ 16 ∧
    (swp 0x10000).keyAway { enc := true, world := 1, key := 2 } = false ∧ ((swp 0x10000).keys.get none 130).isSome ∧
    (swp 0x20000).sweeps.filter (fun x => (swp 0x20000).sweepUnit x == (swp 0x20000).sweepUnit { id := 7, buf := 1, line := 0x20000 }) = (swp 0x20000).sweeps ∧
    ({ swp 0x10000 with keyCache := [], arg := { id := 130 } } : State).keyCache = [] ∧ ((List.range 128).find? fun x => !(swp 0x10000).keySwept x).isSome ∧
    ((ring 1).readVa hubCluster 0 0 0x10000 16).isSome ∧ ((ring 1).readVa hubCluster 0 0 0x10040 128).isSome ∧
    ((ring 1).mem.readN 0x10000 8, (ring 1).mem.readN 0x10008 8, (ring 1).mem.readN 0x10040 2) = (1, 0, 0x506) := by decide +kernel

def ask (m : List Byte) (phase : Nat := 3) (ok : Bool := true) : State := { State.reset with spdmSide := { phase }, arg := { bytes := m, via := .sideband, ok } }

theorem witness_SpdmResponder :
    ([(0x84, 4), (0xE1, 20), (0xE3, 32), (0x81, 4), (0x82, 8), (0x83, 36), (0xE0, 37)].all fun (e : Nat × Nat) =>
      let m := (if e.1 = 0x84 then 0x10 else 0x12) :: BitVec.ofNat 8 e.1 :: 0 :: 0 :: List.replicate (e.2 - 4) 4
      (ask m).arg.ok && decide (field m 1 1 = e.1 ∧ e.2 ≤ m.length ∧ field m 0 1 = if e.1 = 0x84 then 0x10 else 0x12)) ∧
    (field (List.replicate 36 (4 : Byte)) 8 4).testBit 2 ∧ field (List.replicate 4 (0 : Byte) ++ List.replicate 4 4) 2 1 % 16 = 0 ∧ (ask [0x11, 0x81]).spdmSide.phase = 3 ∧
    field ([0x11, 0x81] : List Byte) 0 1 ≠ 0x12 ∧ (ask [0x12, 0x81] 1).spdmSide.phase < 3 ∧ field ([0x12, 0xEE] : List Byte) 1 1 = 0xEE ∧ (ask [] 1 false).arg.ok = false := by decide +kernel

/-- User queue 0 at 0x20000, its ring at VA 0x10000, in a state, with `wr` packets written. -/
def uq (state wr : Nat) (pkt : Mem := []) : State :=
  { State.reset with roots := [(0, 0x2001)], hub := { ready := true, qcbbase := 0x20000 }, arg := { id := 0, x := 1 }
                     mem := [(0x2000, 1), (0x2001, 0x20), (0x2008, 0x1F), (0x200C, 1)] ++ pkt ++ [(0x20002, 1), (0x20008, 2)] ++ (if wr = 0 then [] else [(0x20014, BitVec.ofNat 8 wr)]) ++
                       (if state = 0 then [] else [(0x20020, BitVec.ofNat 8 state)]) }
def evented (kind : Nat) (s : State) : State := { s with front := { s.front with events := [{ q := 0, kind }] } }
def serving (pkt : Mem) : State := { uq 3 1 pkt with front := { budget := [(0, 16)], slots := [(0, some 0)] } }

theorem witness_UserQueues :
    0x20000 + 64 ≤ Config.reservedBase ∧ ((uq 1 0).mem.readN 0x20020 1, (uq 1 0).mem.readN 0x20014 4, (uq 3 5).mem.readN 0x20014 4, (uq 3 5).mem.readN 0x20008 1) = (1, 0, 5, 2) ∧
    (uq 1 0).front.events = [] ∧ (evented 1 (uq 0 0)).front.events ≠ [] ∧ (evented 0 (uq 1 5)).front.pendSince = [] ∧ (2 ^ 2 < 5) ∧
    ([[], [(0x10000, 1)], [(0x10000, 2), (0x10008, 0), (0x1000A, 1)]].all fun (p : Mem) => (serving p).front.budget.get 0 0 != 0 && ((serving p).readVa hubCluster 0 0 0x10000 64).isSome &&
      (serving p).mem.wf == (p.length < 3)) ∧
    (uq 3 1).launchFull = false ∧ ((serving [(0x10000, 2), (0x1000A, 1)]).readVa hubCluster 0 0 0x10000 64).isSome ∧ ((uq 3 1).feed 0x7FF).isNone := by decide +kernel

theorem witness_HostAndPeers :
    (let s := { State.reset with hub := { ready := true, bar4base := 0x40000000 }, arg := { id := 4, x := 0x10, units := 0x80000000 } }
     s.hub.ready ∧ s.arg.x + 4 ≤ s.hub.window ∧ s.hub.bar4base + s.arg.x + 4 ≤ Config.reservedBase ∧ ((List.range 4).all fun i => !s.poisoned (s.hub.bar4base + s.arg.x + i))) ∧
    State.reset.hub.ready = false ∧ 0x200000 + 8 * 12 < 0x200068 ∧ (3 % 4 = 3) ∧
    (let s := { State.reset with peers := [(3, { state := 1 })], peerSeen := [(3, some (0, 0))], clock := 1250000, arg := { id := 3, x := 0 } }
     s.peerUp 3 ∧ s.peerSeen.get none 3 = some (0, 0) ∧ 0 + 1250000 ≤ s.clock ∧ (s.peers.get { state := 0 } 5).state ≠ 1 ∧ s.peerUp 5 = false) ∧
    0x20 / 8 = (0x20 + ([1, 2] : List Byte).length - 1) / 8 ∧ 0 < Config.hbmBytes ∧ State.reset.nvm.repairs.length < 4096 := by decide +kernel

theorem witness_ResetsAndStartUp :
    2 ≤ State.reset.meas.length ∧ (State.reset.ctx? (.prefect 0)).map (·.sched.held) = some true ∧
    (let s := { State.reset with hub := { step := 5, bootAt := some 0, go := true, todo := [3], goAt := 0 }, clock := 1250000000, arg := { id := 3, ok := true } }
     s.hub.step = 5 ∧ s.hub.fail = false ∧ s.poison = [] ∧ s.hub.ready = false ∧ 0 + 1250000000 ≤ s.clock ∧ s.mailRoom 254 false ∧ 3 ∈ s.hub.todo ∧ s.hub.goAt + 1250000000 ≤ s.clock) ∧
    State.reset.arg.start.sigOk ∧ State.reset.arg.start.linksOk ∧ State.reset.arg.start.sparesOk ∧ State.reset.arg.start.trainOk := by decide +kernel

theorem witness_Management :
    ([(0, toBytes 2 0x200 ++ List.replicate 62 0), (0, toBytes 2 0x200 ++ List.replicate 14 0 ++ [1] ++ List.replicate 47 0), (3, toBytes 2 0x201 ++ List.replicate 62 0)].map
      fun (e : Nat × List Byte) => (e.1, field e.2 0 2, field e.2 16 4)) = [(0, 0x200, 0), (0, 0x200, 1), (3, 0x201, 0)] ∧
    ({ resetAsked := true } : Hub).resetAsked = true ∧ ({ resetAt := some 5 } : Hub).resetAt = some 5 ∧ State.reset.hub.resetAt = none ∧ State.reset.power.sag.get false 79 = false ∧
    ({ sag := [(3, true)], skip := [(3, 4)] } : Power).skip.get 0 3 ≠ 0 ∧ ({ sag := [(3, true)], skip := [(3, 4)] } : Power).next.get 0 3 ≤ 0 ∧
    ({ State.reset with clock := 1250000 } : State).power.evalAt + 1250000 ≤ 1250000 := by decide

/-- Prefect 0 with one record in its queue, a heap with a freed range, a file that it owns and descriptors of it and of a socket; another shard's descriptors have numbers above 2^24. -/
def rec1 (code : Nat) (args : List Nat) : TrapRec := { typ := 0, code, mask := 1, body := args.map (BitVec.ofNat 64), handle := 0x100000000 }
def kern (r : TrapRec) (k : Kernel → Kernel := id) : State :=
  { prf with prefs := { trapq := [r] } :: prf.prefs.drop 1, mem := code ++ [(0x10080, 65)]
             kernel := k { heaps := [(0, some { base := 0x10000, limit := 0x1000, top := 0x10000, freed := [(0x10100, 32)], slices := [(0x10000, 16)] })]
                           files := [{ path := [65], data := [1, 2] }], fds := [{ shard := 0, asn := 0, slot := 0, what := .file [65] true }, { shard := 0, asn := 0, slot := 1, what := .sock 80 }] }
             arg := { ok := true } }
/-- A CALL message of one lane in the mailbox of Prefect 0. -/
def mailed (code : Nat) (args : List Nat) : State :=
  (kern {} ).modPref 0 fun q => { q with trapq := [], mailbox := [toBytes 2 0x100 ++ [5, 0] ++ toBytes 4 9 ++ toBytes 8 0 ++ toBytes 8 0x100000000 ++ toBytes 4 1 ++ toBytes 4 code ++ (args.map (toBytes 8)).flatten] }
def errOf {α : Type} (r : Except Nat α) : Nat := match r with | .error x => x | .ok _ => 0
/-- A READ under way: its buffer, an offset and a length that are no whole blocks, its command, and its completion. -/
def job1 (k : Job → Job := id) (done : Bool := false) : State :=
  let c : Call := { owner := 0, handle := 0x100000000, lanes := [0], code := 0x22, args := [0, 0x10100, 2, 0], asn := 0, world := 0 }
  let s := kern {} fun x => { x with jobs := [k { id := 7, call := c, write := false, path := [65], ofs := 0, len := 2, va := 0x10100, direct := false, frame := 3 }] }
  if done then s.modPref 0 fun q => { q with completions := [List.replicate 8 0 ++ toBytes 2 9 ++ List.replicate 22 0] } else s

theorem witness_KernelCalls_calls :
    ([(0x11, [16, 0]), (0x11, [0, 0]), (0x10, [0x10000]), (0x10, [0x10008]), (0x20, [0x10080, 2]), (0x20, [0x10080, 3]), (0x21, [0]), (0x21, [2]), (0x22, [0, 0x10100, 2, 0]), (0x23, [0, 0x10080, 1, 1]),
        (0x30, [80, 17]), (0x30, [80, 6]), (0x31, [1, 0x10080, 1, 0]), (0x32, [1, 0x10100, 4, 0])].all fun (e : Nat × List Nat) => let s := kern (rec1 e.1 e.2)
      (s.recordAt 0 (·.calls e.1)).isSome && (s.takeMail 0 fun _ => true).isNone && lanes (rec1 e.1 e.2).mask == [0] && (s.jobDue 0 fun _ => true).isNone) ∧
    (fdOwner prf (rec1 0x21 [0x05000000]) 0, fdOwner prf (rec1 0x21 [0x50000000]) 0, fdOwner prf (rec1 0x21 [0x1000]) 0, portOwner prf (rec1 0x30 [81]) 0, portOwner prf (rec1 0x30 [0x10000]) 0) =
      (some 5, none, none, some 1, none) ∧ prf.mailRoom 5 false ∧ ({ prf with wires := List.replicate 128 { id := 0, src := 0, dst := 5, mgmt := false, due := 9, bytes := [] } } : State).mailRoom 5 false = false ∧
    ((mailed 0x21 [0]).takeMail 0 fun b => field b 0 2 == 0x100 && field b 0x1C 2 == 0x21).isSome ∧ (batches (alone (rec1 0x10 [])) [0, 3]).length = 2 := by decide +kernel

/-- A call with its arguments. -/
def callOf (args : List Nat) : Call := (rec1 0x20 args).call 0 [0]

theorem witness_KernelCalls_serve :
    (let s := kern {}
     let c := callOf [0x10080, 2]
     errOf ((s.readPath c 4096 0x10080).map (·.2)) = 0 ∧ errOf (s.readPath c 4096 0x30000) = 14 ∧ (match s.readPath c 4096 0x10080 with | .ok x => x.2 | .error _ => []) = [65] ∧
     (s.fd? (callOf [0])).map (·.what) = some (.file [65] true) ∧ (s.fd? (callOf [1])).map (·.what) = some (.sock 80) ∧ (s.fd? (callOf [2])).isNone ∧
     (s.reach c 0x10100 2 .store).isNone ∧ s.reach c 0x30000 2 .store = some 14 ∧ s.reach c (2 ^ 56 - 1) 2 .store = some 14 ∧
     (s.readVa 0 0 0 0x10080 1).map (·.2) = some ([65], false)) ∧
    ([({ base := 0, limit := 64, top := 64, freed := [(0, 32)] } : Heap), { base := 0, limit := 64, top := 64 }].map fun h => h.fit 16 16) = [some (0, 32), none] ∧ roundUp 17 16 = 32 ∧
    ([job1, job1 (fun j => { j with direct := true }), job1 (fun j => { j with cmd := some 9 }) true].all fun s => (s.jobDue 0 fun j => !j.write && j.fill.isNone).isSome) ∧
    ((job1 (fun j => { j with cmd := some 9 }) true).jobDue 0 fun j => !j.write && j.fill.isNone).bind (job1 (fun j => { j with cmd := some 9 }) true).jobEntry = some (List.replicate 8 0 ++ toBytes 2 9 ++ List.replicate 22 0) ∧
    ((job1 (fun j => { j with write := true, cmd := some 9 }) true).jobDue 0 (·.write)).isSome ∧ ((job1).writeVa 0 0 0 0x10100 [1, 2]).isSome ∧ ((job1).writeVa 0 0 0 0x30000 [1, 2]).isNone := by decide +kernel

theorem witness_KernelServices_answers :
    (let c : Call := { owner := 0, handle := 0x100000000, lanes := [0], code := 0x32, args := [1, 0x10100, 4, 0], asn := 0, world := 0 }
     let s := { kern {} fun k => { k with recvs := [{ call := c, until_ := some 0 }] } with arg := { x := 80, bytes := [7, 7] } }
     (s.kernel.recvs.find? fun v => s.recvPort v == some 80).isSome ∧ (s.kernel.recvs.find? fun v => v.call.owner == 0 && (v.until_.map fun t => decide (t ≤ s.clock)).getD false).isSome ∧ (s.reach c 0x10100 2 .store).isNone ∧
       (s.writeVa 0 0 0 0x10100 [7, 7]).isSome ∧ (s.reach { c with args := [1, 0x30000, 4, 0] } 0x30000 2 .store).isSome) ∧
    (let c : Call := { owner := 0, handle := 0x100000000, lanes := [0], code := 0x21, args := [0], asn := 0, world := 0 }
     let s := { past 1 with kernel := { replies := [{ call := c, rows := [(0, 5, 0)] }], sent := [{ pref := 0, tag := 9, call := c }] } }
     (s.kernel.replies.find? (·.call.owner == 0)).isSome ∧ (s.ctx? (refOf 0x100000000)).map (·.trapped (maskOf [0])) = some true ∧ s.savedAt (.group 9 0) = none ∧ (s.ctx? (.group 9 0)).isNone ∧
     s.underWay 5 false + (s.pref 5).mailbox.length + 1 ≤ 128 ∧
     ((({ s with kernel := { s.kernel with replies := [] } } : State).modPref 0 fun q => { q with mailbox := [toBytes 2 0x101 ++ [5, 0] ++ toBytes 4 9 ++ List.replicate 56 0] }).takeMail 0
       fun b => field b 0 2 == 0x101 && s.kernel.sent.any fun v => v.pref == 0 && v.tag == field b 4 4).isSome) ∧
    ((kern (rec1 0x7F [])).pref 0).trapq.map (fun r => (r.typ, callCodes.contains r.code)) = [(0, false)] := by decide +kernel

theorem witness_KernelServices_policies :
    ([(0x11000, none), (0x20000, some ()), (0x31000, some ())].all fun (e : Nat × Option Unit) =>
     let r : TrapRec := { typ := 1, handle := 0x100000000, value := BitVec.ofNat 64 e.1, world := 0 }
     let s := { kern r with g := { grpCtx with log := [{ state := 1, op := { kind := .load, space := .g, width := .b32, uni := false } }] }
                            kernel := { heaps := [(0, some { base := 0x20000, limit := 0x10000, top := 0x20000 })], regions := [{ asn := 0, base := 0x30000, len := 0x10000, world := 0, w := false }] } }
     s.g.ids.ref == refOf r.handle.toNat && (s.recordAt 0 (·.typ == 1)).isSome && s.faultWaits s.g 0 0 && (nextTable (s.roots.get 0 0).toNat == some 0x2000) && (s.regionOf r).isSome == e.2.isSome &&
     (s.entryFor e.1 3 0x2000 []).isSome && (e.2.isNone || s.mem.readN (((s.entryFor e.1 3 0x2000 []).map (·.2)).getD 0) 8 == 0)) ∧
    (let f : Fix := { pref := 0, rcd := { typ := 1, handle := 0x100000000 }, stage := .sweeping [] }
     let s := kern {} fun k => { k with fixes := [f] }
     (s.kernel.fixes.find? s.fixReady) = some f) ∧ (leafOk 0x1F) ∧ leafOk 0 = false ∧
    (killBlockOf { typ := 2, handle := 0x100000000 }).length = 64 ∧ (grp.grid? 1).map (·.phase) = some 2 ∧ ((kern { typ := 2 }).recordAt 0 fun r => [2].contains r.typ).isSome ∧
    ([5, 6, 7].all fun t => ((kern { typ := t, handle := 0x100000000 }).recordAt 0 fun r => [5, 6, 7].contains r.typ).isSome) ∧ (kern { typ := 5, handle := 0x100000000 }).resident 0x100000000 = some grpCtx ∧
    (({ kern { typ := 5, handle := 0x100000000 } with arg := { units := 0x10000 } } : State).asKernel 0 0 0 fun s => s.saveTarget 0x100000000 0x10000 false false).2.map (·.1) = some 1 ∧
    (let v : Saved := { isTeam := false, addr := 0x10000, asn := 0, world := 0, cluster := 0, ctxs := [(grpCtx, 0)] }
     let s := { prf with others := [], saved := [v], arg := { c := .group 1 0 } }
     (s.savedAt (.group 1 0)).isSome ∧ s.restoreTurn v ∧ v.retry ≤ s.clock ∧ (match (s.openImage 0x10000).2 with | .error x => x | .ok _ => 0) = 4 ∧ prf.savedAt (.group 1 0) = none) := by decide +kernel

/-! ### What the statements say beside their main cases -/

/-- The page table with page 2 in a peer's memory, by peer 3. -/
def afar : Mem := [(0x2000, 1), (0x2001, 0x20), (0x2008, 0x1F), (0x200C, 1), (0x2010, 0x5F), (0x2013, 3), (0x2014, 1), (0x10000, 0x1F)]

theorem witness_LoadsAndStoresBegin_peer :
    (let s := { gw grp fun g => (g.wrV 8 0 0x20000).wrV 8 1 0x20000 with mem := afar, peers := [(3, { state := 1 })] }
     let f := { ver with space := .g, off := 64 }
     (match s.translate 0 0x20040 .load with | .ok (_, tr) => onPeer (tr.loc 0x20040) | .error _ => false) = true ∧ leafTgt 0x15F = 2 ∧
     clearB (.tld f) s ∧ s.g.ld < 63 ∧ s.g.log = [] ∧ s.g.wait.kind ≠ 4) := by decide +kernel

theorem witness_TilePortTurns_more :
    ((inTurn (.drain (drainOf drn (wideS grp).g)) 4).mxq.all (inTurn (.drain (drainOf drn (wideS grp).g)) 4).faultNext) ∧
    ([MxWhat.store 0 false, .store 0 true].all fun w => (inTurn w 3).mxq.all fun o => o.phase == 3 && (inTurn w 3).turn o) ∧
    ({ inTurn (.drain (drainOf drn (wideS grp).g)) 3 with accs := [{ acc1 (.store [1] false) 0x30000 1 with job := some 7 }] } : State).accs.any (·.job == some 7) ∧
    (({ pr := [(0, 1)] } : Tile)).check 0 ≠ none := by decide +kernel

theorem witness_CommandsRun_more :
    (let s := cmd1 fun c => { c with phase := 3 }
     (s.cmds.find? fun x => x.id == s.arg.id && !x.scn).isSome && s.cmds.all (fun c => !c.lost && !c.aon) && s.accs.isEmpty) ∧
    (let s := scn1 fun c => { c with phase := 4 }
     (s.cmds.find? fun x => x.id == s.arg.id && x.scn).isSome && s.cmds.all (fun c => !c.lost && c.dst % 16 == 0)) ∧
    clearB (.scn { (fc 0 false true 0 0 0 12) with sa := 8 }) (gw (par grp 0 0) fun g => { g with cmds := { g.cmds with sc := 15 } }) = true := by decide +kernel

/-- A saved member of the population. -/
def savedMember : Saved := { isTeam := true, addr := 0x10000, asn := 0, world := 0, cluster := 0, ctxs := [({ grpCtx with ids := { grpCtx.ids with ref := .group 1 1 } }, 0)] }
def arrived2 : State := { arr 2 false with saved := [savedMember], arrivals := (arr 2 false).arrivals ++ (arr 2 false).arrivals.map fun a => { a with c := .group 1 1 } }

theorem witness_Populations_more :
    arrived2.collective 1 = none ∧ ((arrived2.membersOf 1 ++ arrived2.savedMembers 1).all fun g => arrived2.arrivals.any fun a => a.c == g.ids.ref) ∧ (arrived2.savedMembers 1).length = 1 ∧
    ((arr 2 false).ctxs.map (·.ids.ref)).Nodup ∧ ((arr 2 false).collective 1).map (·.all fun m => !m.2.ready) = some true ∧ ((arr 2 true).collective 1).map (·.all fun m => m.2.ready) = some true ∧
    pop.g.flow.stack = [] ∧ pop.g.sched.expiry = false ∧ pop.g.sched.killed = false ∧ pop.g.pend = [] ∧ (gw pop fun g => { g with pend := [owed] }).g.quiet = false ∧
    clearB (rsmp (fs true)) (gw pop fun g => { g with pend := [{ owed with marks := [] }] }) = true ∧ (rsmpVerdict [(pop.g, { c := .group 1 0, gid := 1, n := 2, weights := [], mark := 0, pd := 1, wx := 2 }),
      (pop.g, { c := .group 1 1, gid := 1, n := 3, weights := [], mark := 0, pd := 1, wx := 2 })]) = some 2 := by decide +kernel

theorem witness_LaunchEvents_more :
    (let s := { gw grp fun g => { g with wait := { kind := 2, addr := 0 } } with
                grids := [{ gid := 9, addr := 0x10080, asn := 0, world := 0, cap := 7, phase := 2, desc := { gx := 1, gy := 1, gz := 1, gang := 1, ngrp := 1, cls := [0], prio := 3 } }] }
     (s.victims 3 0).length = 1 ∧ (s.victims 0 0).length = 0 ∧ s.teams.all (s.victim 3)) ∧
    (let s := { queued (fun x => { x with phase := 2 }) with saved := [{ savedMember with awaits := true }] }
     s.saved.all fun v => v.awaits && !v.around s.clock) := by decide +kernel

theorem witness_SweepsAndSecurityRing_more :
    (let m := (ring 1).mem.writeB 0x10050 (toBytes 8 (mkWit { scope := 4, id := 0 } 0).toNat)
     let s := { ring 1 with mem := m, clock := 1000 }
     let w := BitVec.ofNat 64 (s.mem.readN 0x10050 8)
     wValid w ∧ wScope w = 4 ∧ w ≠ s.ringWit.get 0 0 ∧ s.satisfied w { scope := 4, id := 0 } ∧ (s.mem.readN 0x10048 4).testBit 31 = false ∧ s.mem.readN 0x10000 8 ≠ s.mem.readN 0x10008 8) ∧
    wScope (BitVec.ofNat 64 ((ring 1).mem.readN 0x10050 8)) = 0 ∧ ((List.range 128).find? fun x => !({ swp 0x10000 with keyCache := List.range 128 } : State).keySwept x).isSome ∧
    (field (bset 3) 14 1 = 3) ∧ (SMap.set ([] : List Byte) [] 5 [1]).get [] 5 = [1] := by decide +kernel

/-- Requests that the responder answers, with the phase that each needs. -/
def requests : List (List Byte × Nat) :=
  [([0x10, 0x84, 0, 0], 0), ([0x12, 0xE1, 0, 0, 0, 0, 0, 0, 0, 0, 0, 0] ++ toBytes 4 64 ++ toBytes 4 64, 1),
    ([0x12, 0xE3, 0, 0, 32, 0, 1, 0, 4, 0, 0, 0, 1, 0, 0, 0] ++ List.replicate 16 0, 2), ([0x12, 0x81, 0, 0], 3), ([0x12, 0x82, 0, 0, 0, 0, 16, 0], 3), ([0x12, 0x83, 0, 255] ++ List.replicate 32 7, 3),
    ([0x12, 0xE0, 0, 255], 3), ([0x12, 0xE0, 1, 1] ++ List.replicate 33 0, 3)]

theorem witness_SpdmResponder_sound :
    (requests.map fun (m, _) => (field m 1 1, m.length)) = [(0x84, 4), (0xE1, 20), (0xE3, 32), (0x81, 4), (0x82, 8), (0x83, 36), (0xE0, 4), (0xE0, 37)] ∧
    (requests.all fun (m, p) => decide (field m 1 1 = 0x84 ∨ field m 0 1 = 0x12) && decide (p ≤ 3) && decide (field m 1 1 ≠ 0x82 ∨ field m 4 2 = 0 ∧ field m 2 1 % 16 = 0) &&
      decide (field m 1 1 ≠ 0xE3 ∨ field m 4 2 = m.length ∧ (field m 8 4).testBit 2) && decide (field m 1 1 ≠ 0xE1 ∨ 42 ≤ field m 12 4 ∧ field m 12 4 ≤ field m 16 4)) ∧
    (ask [0x12, 0x81] 1).spdmSide.phase = 1 ∧ (ask ((requests.getD 2 ([], 0)).1.set 4 33) 2).arg.bytes.length = 32 := by decide +kernel

theorem witness_SpdmResponder_chain : 0 < Der.chain.length := by
  simp only [Der.chain, List.length_append, List.length_cons]; omega

theorem witness_IoEvents_more :
    (let s := hubbed (io1 0 2 false)
     (s.iocmds.filter fun x => x.sent && x.cls == 0).length < max 1 (s.hub.depth.get 0 0 - 1)) ∧
    (((job1 (fun j => { j with cmd := some 9 }) true).jobOf { id := 9, pref := 0, port := 0, cls := 0, desc := [], wit := 0, job := some 7 })).isSome ∧
    steer (List.replicate 12 0 ++ [0x81, 0, 0, 5, 8, 0, 0x45] ++ List.replicate 8 0 ++ [17] ++ List.replicate 12 0 ++ [1, 0]) = 256 % 80 ∧
    steer (List.replicate 12 0 ++ [0x86, 0xDD, 0x60] ++ List.replicate 5 0 ++ [17] ++ List.replicate 33 0 ++ [0, 0, 1, 0]) = 256 % 80 ∧
    steer (List.replicate 12 0 ++ [0x86, 0xDD, 0x60] ++ List.replicate 5 0 ++ [0] ++ List.replicate 33 0 ++ [17, 0] ++ List.replicate 6 0 ++ [0, 0, 1, 0]) = 256 % 80 ∧
    steer (List.replicate 12 0 ++ [8, 6] ++ List.replicate 40 0) = 0 := by decide +kernel

theorem witness_UserQueues_more :
    (let s := { uq 1 0 with arg := { id := 0, x := 1, ok := true } }
     s.arg.ok ∧ s.hub.ready ∧ s.mem.readN (0x20000 + 24) 8 = 0 ∧ s.mem.readN 0x20020 1 ≠ 0 ∧ s.arg.x ≠ s.mem.readN 0x20014 4) ∧
    (let s := { uq 1 0 with front := { notified := [0], snoop := [(0, 0x2008)] } }
     0 ∈ s.front.notified ∧ s.front.snoop.find? (·.1 == 0) = some (0, 0x2008) ∧ s.mem.readN 0x2008 8 % 2 ^ 32 ≠ s.mem.readN 0x20014 4) := by decide +kernel

theorem witness_HostAndPeers_more :
    (let s := { State.reset with rowErr := [(6, 2)], arg := { x := 3, ok := true } }
     2 ≤ s.rowErr.get 0 (2 * s.arg.x) ∧ s.nvm.repairs = []) ∧ ([2, 3, 4].contains ({ kind := 2, unit := 0, place := 0, row := 0 } : Repair).kind) ∧
    (let s := { State.reset with peers := [(3, { state := 1 })], arg := { id := 3, access := .atomic 0x30000 4 0 0 1 } }
     s.peerUp 3 ∧ s.arg.access = .atomic 0x30000 4 0 0 1 ∧ 0x30000 + 4 ≤ Config.reservedBase) ∧ 0x30000 < Config.hbmBytes ∧
    (State.bar0Read State.reset 0x200000 < 2 ^ 64) := by decide +kernel

theorem witness_ResetsAndStartUp_more :
    (let s := { State.reset with kernel := { ready := (List.range 80).map fun c => (c, if c = 3 then 1 else 0) }, hub := { step := 5, bootAt := some 0 } }
     ((List.range 80).filter fun c => match s.kernel.ready.find? (·.1 == c) with | some e => e.2 != 0 | none => false) = [3]) ∧
    (let s := { State.reset with hub := { go := true, todo := [3], goAt := 0 }, arg := { id := 3, ok := true, nums := [64, 1024] } }
     s.hub.go ∧ 3 ∈ s.hub.todo ∧ (min 80 (s.arg.nums.getD 0 1), min 256 (s.arg.nums.getD 1 2)) = (64, 256)) ∧
    ({ State.reset with hub := { resetAt := some 5 }, arg := { id := 1 }, clock := 5 } : State).hub.resetAt = some 5 ∧ State.reset.nvm.training = [] := by decide +kernel

/-! ### The clauses that reach further: images, blocks, the order in a clock, messages -/

theorem witness_StepKeepsMemory_tables : (turnAt 0x0070000000000F0000000000).Canonical := by constructor <;> decide +kernel

/-- A context's order, as a test. -/
def orderedB (g : Ctx) : Bool :=
  decide (g.traps.level ≤ 2) && decide (g.flow.stack.length ≤ 30 + g.traps.level) && g.flow.active &&& g.flow.exited == 0 && g.flow.stack.all fun e => (e.mask ||| e.aux) &&& g.flow.exited == 0

theorem witness_ContextsStayOrdered : (turnAt 0x0070000000000F0000000000).ctxs.all orderedB = true ∧ (State.reset.ctxs.all orderedB) ∧ orderedB (gw (halfway (List.replicate 30 call1)) fun g => { g with traps := { g.traps with level := 1 } }).g ∧
    orderedB { grpCtx with flow := { grpCtx.flow with active := 7, exited := 4 } } = false := by decide +kernel

/-- The same with this instruction of each kind: one whose result stays pending, one that leaves none, one whose stored data it is. -/
theorem witness_PoisonKills_all :
    ([Instr.shl (f3 .b32 false 0 4 12 8 0), .imad (f3 .b32 false 0 4 12 16 8), .sel (f3 .b32 false 0 4 8 12 0), .fcvt (f3 .f64 false 12 4 8 0 0), .st (fm .c .b32 false 8 4 0 15 15), .ld (fm .c .b32 false 12 8 0 15 15), .shfl (f3 .b32 false 20 4 8 1 0 .rn true 1)].map (deathsOf · hurt.g)) =
      [2, 2, 2, 2, 2, 2, 3] ∧
    deathsOf (.shfl (f3 .b32 false 0 4 8 0 0 .rn true 0)) hurt.g = 2 ∧ hurt.g.regs.up = [] ∧ grp.g.pend = [] ∧ hurt.g.sched.finalWait = false ∧
    (let g := ran (.shl (f3 .b32 false 0 4 12 8 0)) (hurt.modG (·.kill 2))
     (g.flow.pc, g.wait, g.traps.level, g.pend.length) = (0x10010, {}, 0, 0)) ∧
    (ran (.ld (fm .c .b32 false 12 8 0 15 15)) (gw grp (·.kill 2))).pend.map (·.kind) = [.load] ∧
    (let g := { hurt.g with regs := { hurt.g.regs with up := [(5, true)] } }
     (g.upois (.s 5), deathsOf (.iadd { f3 .b32 false 0 4 12 5 0 with ub := true }) g)) = (true, 3) := by decide +kernel

theorem witness_RegisterBlocks_waits :
    (let s := gw grp fun g => { g with pend := [owed] }
     clearB (.ixwr (f3 .b32 false 0 0 8 12 0)) s ∧ clearB (.ixwr { f3 .b32 false 0 0 8 12 0 with imm := 96 }) s ∧ clearB (.ixrd (f3 .b32 false 0 12 8 0 0)) s ∧ (s.g.pend.any fun p => p.marks.contains (.v 4))) ∧
    (let e : LogEntry := { ix := 0, state := 1, op := { kind := .load, space := .g, width := .b32, uni := false }, locks := [.v 0] }
     clearB (.ixwr (f3 .b32 false 0 0 8 12 0)) (gw grp fun g => { g with log := [e] }) ∧ (gw grp fun g => { g with log := [e] }).g.locked (.v 0)) ∧
    clearB (.xrel (wide 0)) (gw grp fun g => { g with pend := [{ owed with marks := [.v 64] }] }) := by decide +kernel

/-- Blocks: one with a NaN, one of zeros, one whose largest magnitude is 1.5 x 2^3. -/
def vals (n : Nat) (v : FV) : List FV := v :: List.replicate (n - 1) (.fin true 3 2)

theorem witness_FloatBlocks_blocks :
    Ty.mxe4m3.isMX ∧ Ty.mxi8.isMX ∧ Ty.sx4.isSX ∧ (vals 32 (.nan false)).length = 32 ∧ (vals 16 (.inf true)).length = 16 ∧ ((List.replicate 32 (FV.fin true 0 5)).all (·.isZero)) ∧
    packBlock .mxe4m3 .rn (fun _ => 0) (vals 32 (.nan false)) = (0, 0xFF, fIV) ∧ (packBlock .sx4 .rz (fun _ => 0) (vals 16 (.fin false 1 0))).2.1 / 256 = 3 + 127 ∧
    (3 * 2 ^ 2 < 2 ^ 4 ∧ ¬ 3 * 2 ^ 2 < 2 ^ 3) ∧ (packBlock .mxi8 .rd (fun _ => 0) (vals 32 (.fin false 1 (-3)))).2.1 = 3 + 127 := by decide +kernel

/-- Values on each side of the largest finite number of F16, and between two of its encodings. -/
theorem witness_FloatSpecials_rounding :
    Fmt.f16.mag (Fmt.f16.emin - Fmt.f16.fb) Fmt.f16.maxBits = 65504 * 2 ^ 24 ∧ ((RoundCtl.exact { f := Fmt.f16, mode := .rn } false 2049 0).1, (RoundCtl.exact { f := Fmt.f16, mode := .rp } false 2049 0).1) = (0x6800, 0x6801) ∧
    ((RoundCtl.exact { f := Fmt.f16, mode := .rz } true 65536 0).1, (RoundCtl.exact { f := Fmt.f16, mode := .rn } true 65536 0).1) = (0xFBFF, 0xFC00) ∧ (RoundCtl.exact { f := Fmt.e4m3', mode := .rn } false 1000 0).1 = Fmt.e4m3'.maxBits ∧
    RoundsTo .rn 0 false 5 (-1) 2 ∧ RoundsTo .rd 0 true 5 (-1) 3 ∧ toIntegral .rn false 5 (-1) = (2, false) ∧
    (fvDiv { f := Fmt.f32, mode := .rn } (.fin false 1 0) (.fin false 3 0)).1 = 0x3EAAAAAB ∧ (fvSqrt { f := Fmt.f32, mode := .rn } (.fin false 2 0)).1 = 0x3FB504F3 ∧
    (fvRsqrt { f := Fmt.f32, mode := .rn } (.fin false 1 2)).1 = 0x3F000000 := by
  refine ⟨?_, ?_, ?_, ?_, ?_, ?_, ?_, ?_, ?_, ?_⟩
  case _ => decide +kernel
  all_goals first | decide +kernel | (simp only [RoundsTo]; decide)

theorem witness_PlainControl_exit :
    (let s := gw (halfway [{ trap1 with mask := 1 }, split1 false true]) fun g => { g with flow := { g.flow with active := 1 }, traps := { g.traps with level := 1 } }
     clearB (.exit (fs true)) s ∧ reachB (.exit (fs true)) s ∧ (ran (.exit (fs true)) s).traps.level = 0) ∧
    (let s := gw (halfway []) fun g => { g with traps := { g.traps with level := 2, delivered := [{ cause := 0x40, value := 1, level := 1 }] } }
     clearB (.exit (fs true)) s ∧ s.g.log = [] ∧ s.g.sched.killed = false) := by decide +kernel

theorem witness_BranchesAndJoins_overflow :
    ([(List.replicate 29 call1), (split1 false true :: List.replicate 29 call1)].all fun st => clearB (.braDiv { fb false 0 0 with h := g1 }) (halfway st) && reachB (.braDiv { fb false 0 0 with h := g1 }) (halfway st)) ∧
    (ran (.braDiv { fb false 0 0 with h := g1 }) (vect (halfway (List.replicate 29 call1)))).traps.ecause1 = 0x0B ∧ (ran (.braDiv { fb false 0 0 with h := g1 }) (halfway (List.replicate 28 call1))).flow.stack.length = 30 := by decide +kernel

/-- TLD and TST of C, their base in S8. -/
def tl : FM := fm .c .b32 false 4 8 0 15 15 0 false 0 0 true

theorem witness_AddressChecks_more :
    (let s := { to1 0x10000 with rmap := [(0, 0x0107), (1, 0x0103), (2, 0x0003)] }
     (s.laneCheck s.g d4 .load false 0, s.laneCheck s.g d4 .load false 1, s.laneCheck s.g d4 .store false 1, s.laneCheck s.g { d4 with off := 0x20000 } .load false 1) = (some 0x14, some 0x14, some 0x12, some 0x12)) ∧
    (let s := gw { grp with rmap := [(0, 0x0207), (1, 0x0003)] } fun g => { g with ids := { g.ids with world := 2 } }
     (s.laneCheck s.g d4 .load false 0, s.laneCheck s.g { d4 with off := 0x10000 } .load false 0, s.laneCheck s.g { d4 with off := 0xFFFE } .load false 0) = (none, none, some 0x13)) ∧
    [Instr.tld tl, .tst tl].all fun i => clearB i (rs [(8, 5)] grp) && clearB i (rs [(8, 0)] grp) ∧
    ((rs [(8, 5)] grp).laneCheck (rs [(8, 5)] grp).g tl .load true 0, grp.laneCheck grp.g tl .store true 0) = (some 0x13, some 0x12) ∧
    clearB (.ldw c4) (to1 5) ∧ clearB (.mwait (fm .c .b32 true 4 8 0 15 15)) (to1 5) ∧ grp.g.wait.seen = none ∧
    (let t : FM := { tl with space := .g, off := 0xFF90 }
     grp.laneCheck (rs [(9, 0), (8, 0x10000)] grp).g t .load true 0 = some 0x13) := by decide +kernel

theorem witness_LoadsAndStoresBegin_ldk :
    (let s := gw grp fun g => ((g.wrV 8 0 0x20000).wrV 8 1 0x10000)
     ldkCodes away [0, 1] s = [(0, 0x10), (1, 0)] ∧ clearB (.ldk away) s ∧ s.g.logHolds .g .load = false) := by decide +kernel

theorem witness_AccessesPerform_stops :
    (let s := flying (.store [1, 2, 3, 4] false) (Loc.peer 3 64) 4
     onPeer (Loc.peer 3 64) = true ∧ s.peerUp (peerOf (Loc.peer 3 64)) = false) ∧
    (let c : Crypt := { enc := true, world := 0, key := 2 }
     let s := { grp with accs := [{ acc1 (.store [1, 2, 3, 4] false) 0x30000 4 with crypt := c }], keys := [(2, some { k1 := [], k2 := [], km := [] })], arg := { id := 7 } }
     s.keyAway c = true ∧ ({ s with keyCache := [2] } : State).keyAway c = false ∧ ({ s with keys := [] } : State).keyAway c = false ∧ (({ s with keys := [] } : State).lineKey c 0x30000).isNone ∧
       s.accs.all fun a => !s.blocked a) ∧
    (let s := { flying (.store [1, 2, 3, 4] false) 0x30000 4 with poison := [(0x6000, true)] }
     s.poisoned 0x30000 = true ∧ (s.accs.all fun a => !s.blocked a)) := by decide +kernel

theorem witness_ResultsReturn_causes :
    (let s := gw { grp with worlds := [(0, { active := true }), (9, {})] } fun g => ((g.wrV 8 0 0x20000).wrV 8 1 0x10000)
     ((State.admitAll { loadOp away s.g with pend := 1 } (loadOp away s.g).reqs s).2.map (·.2)) = [0x10]) := by decide +kernel

theorem witness_Bells_clock :
    (let x : Chosen := { core := 0, slot := 1, c := .group 1 0, ports := [], todo := true, turn := turnOf grp.g (.bwait (fs true)) }
     let y : Chosen := { x with c := .group 1 1, turn := turnOf { grp.g with ids := { grp.g.ids with gpos := 1 } } (.barr (fs true)) }
     x.precedes y ∧ y.precedes x = false ∧ ({ grp with chosen := [x, y] } : State).mayIssue = [.group 1 0] ∧ ({ x with turn := turnOf grp.g (.barr (fs true)) } : Chosen).precedes y ∧
       ({ x with turn := turnOf grp.g (.binit (fs true)) } : Chosen).precedes y) := by decide +kernel

theorem witness_WaitsAndSleeps_more :
    (let s := gw grp fun g => { g with wait := { kind := 5, seen := some 3, sat := true } }
     clearB (.mwait (fm .c .b32 true 4 8 0 15 15)) s) ∧
    (let s := rs [(8, 0x20000), (9, 0)] grp
     let f := fm .g .b32 true 4 8 0 15 15
     clearB (.mwait f) s ∧ (fmAddr s.g f false 0).toNat = 0x20000 ∧ (match s.translate 0 0x20000 .load with | .error c => c | .ok _ => 0) = 0x10 ∧ (match s.translate 0 0x10100 .load with | .error c => c | .ok _ => 0) = 0) := by decide +kernel

theorem witness_MatrixIssue_faults :
    (drainFault drn (rs [(0, 65536 - 16)] grp) (drainOf drn (rs [(0, 65536 - 16)] grp).g)).isSome ∧
    (let f := { (fx false 0 0 0 0 0 0 0 0 0 0 0) with fmtb := .sx4, fmta := .sx4 }
     let s := (List.range 8).foldl (fun s i => rs [(f.scb.toNat + i, 0xFF01FF01)] s) grp
     (mxFormat (mmaOf f s.g)).isSome) := by decide +kernel

theorem witness_CommandsRun_ends :
    (let c := { cpyCmd cpy (par grp 8 2) with id := 7, fn := 1, list := 0, idx := [0, 9000] }
     let s := { par grp 8 2 with cmds := [c], arg := { id := 0 } }
     ((s.cmds.filter fun x => x.core == 0).find? (·.phase == 0)).isSome ∧ (indexFault s c).map (·.1) = some 0x12 ∧ s.g.sched.finalWait = false) ∧
    (let c := { cpyCmd cpy (par grp 8 2) with id := 7, ssp := .g, src := 0x10100 }
     let s := { par grp 8 2 with cmds := [c], arg := { id := 0 } }
     indexFault s c = none ∧ (match cmdPages s c .load c.reads (pagesOf c.reads) with | .ok (_, ts) => ts.map (·.1) | .error _ => []) = [1] ∧
       (match cmdPages s { c with src := 0x20000 } .load [(0x20000, 8)] [2] with | .ok _ => (0, 0) | .error e => e) = (0x10, 0x20000)) ∧
    (let s := cmd1 fun c => { c with phase := 3, lost := true, va := 64 }
     (s.cmds.all fun c => s.accs.all fun a => a.job != some c.id) ∧ s.cmds.all (·.lost)) ∧
    [cmd1 fun c => { c with phase := 1, aon := true, dst := 64 }, cmd1 fun c => { c with phase := 1, cancelled := true, aon := true }].all fun s => s.cmds.all fun c => c.aon && (c.row == 0) ∧
    ([scn1 fun c => { c with phase := 4, cancelled := true }, scn1 fun c => { c with phase := 3, cancelled := true }].all fun s => s.cmds.all (·.cancelled)) ∧
     (par grp 8 2).g.isSys = false := by decide +kernel

theorem witness_Populations_poison :
    (let s := gw pop fun g => g.poisonV 8 1
     clearB (rsmp (fs true)) s ∧ s.g.quiet ∧ s.g.vpois 8 1 ∧ (maskWhere fun l => bit (s.g.exec (hdr false)) l && (readsBad (rsmp (fs true)) s.g || s.g.vpois 8 l)) = 2) ∧
    (let g := { grp.g with regs := { grp.g.regs with up := [(65, true)] } }
     g.upois (.p 1) = true) ∧
    rsmpVerdict [(pop.g, { c := .group 1 0, gid := 1, n := 65, weights := [], mark := 0, pd := 1, wx := 2 })] = some 1 := by decide +kernel

theorem witness_LaunchInstructions_more :
    [(Instr.wpop (fs true)), .wpush (fs true)].all fun i => clearB i (rs [(0, 8)] (fed 1)) && clearB i (rs [(0, 65536)] (fed 1)) && clearB i (gw (fed 1) fun g => { g with sched := { g.sched with shut := true } }) := by decide +kernel

theorem witness_LaunchEvents_order :
    (let tms : List Team := [{ tm with prio := 1, placed := 5 }, { tm with grid := 2, prio := 0, placed := 3 }, { tm with grid := 3, prio := 1, placed := 9 }]
     let s := { grp with teams := tms, g := { grpCtx with wait := { kind := 2 } } }
     (s.victims 2 0).map (fun u => u.map (·.grid)) = [[2], [3], [1]] ∧ (s.victims 1 0).map (fun u => u.map (·.grid)) = [[2]]) := by decide +kernel

/-- The oldest record of a full feed queue expires at tick 1; its block would go to `done`. -/
def expiring (done : Nat) : State := { fed 1 with mem := ((fed 1).mem.writeB (2 ^ 62) (toBytes 8 1)).writeB (2 ^ 62 + 0x30) (toBytes 8 done), clock := 9 }

theorem witness_LaunchInstructions_expired :
    (let s := expiring 0
     (s.feed 0).map (fun q => (q.slot q.head, q.count, s.mem.readN (q.slot q.head) 8)) = some (2 ^ 62, 1, 1) ∧ (s.now + 2 ^ 50 - 1) % 2 ^ 50 < 2 ^ 49 ∧ (((State.retireExpired 4 0 s).feed 0).map fun q => (q.count, q.expired, q.fails)) = some (0, 1, 0) ∧
       ((((State.retireExpired 4 0 (expiring 8)).feed 0).map fun q => (q.count, q.fails)) = some (0, 1)) ∧ ((s.feed 0).bind (s.expireBlock · 0x10100)).isSome ∧ ((s.feed 0).bind (s.expireBlock · 0x20000)).isNone) ∧
    (let s := { fed 1 with poison := [(2 ^ 59, true)] }
     (s.feed 0).map (fun q => s.rangeBad (q.slot q.head) 64) = some true ∧ clearB (.wpop (fs true)) s) := by decide +kernel

theorem witness_GroupsStartAndEnd_commands :
    (let s := { gw grp fun g => { g with sched := { g.sched with finalWait := true } } with cmds := [{ cpyCmd cpy (par grp 8 2) with id := 7, c := .group 1 1 }] }
     s.drained s.g = true ∧ s.cmds.any fun c => c.c != s.g.ids.ref) := by decide +kernel

theorem witness_UserQueues_order :
    (let s := { uq 1 5 with front := { events := [{ q := 0, kind := 0 }], budget := (List.range 12).map fun i => (i + 1, 16) } }
     ((s.front.budget.map (·.1)).filter s.serving).length < 12 ∧ s.front.events.head? = some { q := 0, kind := 0 }) ∧
    (let s := { uq 3 5 with front := { budget := [(0, 16)], slots := [(0, some 0)] } }
     s.serving 0 = true) := by decide +kernel

theorem witness_HostAndPeers_window :
    (match step { State.reset with sched := [.make (.window 3)], hub := { bar4base := 0x340000000 } } with | .next u => u.hub.window == 2 ^ 33 && u.hub.bar4base == 0x200000000 | _ => false) = true ∧
    (let tr : Tr := { asn := 0, vpage := 2, pages := 1, entry := 0x10300005F }
     let s := { State.reset with peers := [(3, { state := 1 })], peerSeen := [(3, some (0, 0))], clock := 1250000, arg := { id := 3 }
                                 accs := [{ acc1 (.store [1, 2] false) (tr.loc 0x20040) 2 with job := some 7 }] }
     ({ cpyCmd cpy (par grp 8 2) with id := 7, phase := 1, dsp := .g, dst := 0x20040, trs := [(2, tr)] } : EngCmd).unsent s 3 = [0x20040]) := by decide +kernel

theorem witness_ResetsAndStartUp_reset :
    (let s := { State.reset with nvm := { training := [5], crc := Crypto.crc32c (toBytes 8 5), repairs := [{ kind := 3, unit := 1, place := 2, row := 3 }] } }
     Crypto.crc32c ((s.nvm.training.map fun x => toBytes 8 x.toNat).flatten) = s.nvm.crc ∧ (s.nvm.repairs.find? fun e => e.state == 0 && (e.kind == 3 || e.kind == 4)).isSome) ∧
    (let s := { State.reset with hub := { step := 5, bootAt := some 0 }, kernel := { ready := [(3, 1)] } }
     ((s.modCtx (.prefect 0) fun g => { g with sched := { g.sched with escalated := true } }).ctx? (.prefect 0)).map (·.sched.escalated) = some true ∧ s.mailRoom 254 false) ∧
    ran .warmReset { State.reset with arg := { id := 2 } } = State.reset.g ∧
    (match exec .warmReset { State.reset with arg := { id := 2 } } with | .next u => u.hub.inReset | _ => false) = true := by decide +kernel

theorem witness_Management_report :
    (match exec .report { State.reset with hub := { step := 5, inbound := [(0, toBytes 2 0x200 ++ List.replicate 62 0)] } } with | .next u => u.hub.step == 6 && u.hub.inbound.length == 1 | _ => false) = true ∧
    ({ inReset := true } : Hub).inReset = true := by decide +kernel

theorem witness_KernelCalls_shards :
    ((mailed 0x21 [0x05017000]).takeMail 0 fun b => field b 0 2 == 0x100 && field b 0x1C 2 == 0x21).map (fun e => (e.1.callOf 0 e.2).asn) = some 0x17 ∧
    lanes ({ rec1 0x21 [] with mask := 5 } : TrapRec).mask = [0, 2] ∧ portOwner prf (rec1 0x30 [81]) 0 = some 1 ∧ prf.mailRoom 1 false := by decide +kernel

theorem witness_KernelServices_stages :
    (let f := fun (st : FixStage) => ({ pref := 0, rcd := { typ := 1, handle := 0x100000000 }, stage := st } : Fix)
     let s := kern {}
     ([FixStage.sweeping [], .failed, .filled 0, .asked 3, .filling 7].map fun st => s.fixReady (f st)) = [true, true, true, false, false]) ∧
    (let s := job1 fun j => { j with fill := some 3, path := [65], direct := true }
     (s.jobDue 0 (·.fill.isSome)).map (·.fill) = some (some 3) ∧ (s.jobDue 0 fun j => j.write == false && j.fill.isNone).isNone) ∧
    (match refOf 0x100000000 with | .group g i => (g, i) | _ => (0, 9)) = (1, 0) ∧ 0 + 64 ≤ Config.sysSpad ∧ 0x100 + 64 ≤ Config.sysSpad ∧
    (let v : Saved := { isTeam := false, addr := 0x10000, asn := 0, world := 0, cluster := 0, ctxs := [(grpCtx, 0)], asked := true }
     let s := { prf with saved := [v], others := [], arg := { c := .group 1 0 } }
     v.asked && !v.tried && s.restoreTurn v) ∧
    (let st : Sent := { pref := 0, tag := 9, call := { owner := 5, handle := 0x100000000, lanes := [0, 1], code := 0x21, args := [0], asn := 0, world := 0 } }
     let s := { kern {} with kernel := { sent := [st] } }
     ((s.modPref 0 fun q => { q with trapq := [], mailbox := [toBytes 2 0x101 ++ [5, 0] ++ toBytes 4 9 ++ List.replicate 8 0 ++ toBytes 8 0x100000000 ++ toBytes 4 1 ++ List.replicate 36 0] }).takeMail 0
       fun b => field b 0 2 == 0x101 && s.kernel.sent.any fun v => v.pref == 0 && v.tag == field b 4 4).isSome) := by decide +kernel

/-! ### Words that the spec writes out, with the instructions it names beside them (02 to 18, 21 to 26), in every family -/

def words (l : List (Slot × Instr)) : Bool := l.all fun e => decodesTo e.1 e.2 && encode e.2 == e.1
def hg (n : Bool) (g : Nat) : Hdr := { n, gi := BitVec.ofNat 3 g, y := false }

theorem test_words_integer : words [(0x1A7001000300404200000000, .icmp { f3 .n32 false 2 1 0 3 0 with ub := true }), (0x1A7002120000408000000000, .icmp (f3 .n32 false 0 2 18 0 0 .rn true)),
    (0x157003010200200000000000, .idiv (f3 .i32 false 0 3 1 2 0)), (0x307800000000 * 2 ^ 48 + 0x0F0000000004, .xacq (wide 4))] := by decide +kernel
theorem test_words_lanes : words [(0x507004020003009600000001, .shfl (f3 .b32 false 22 4 2 0 3 .rn true 1)), (0x532004030000600000000000, .redux { f3 .f32 false 0 4 3 0 0 with h := hg false 2 })] := by
  decide +kernel
theorem test_words_float : decodesTo 0x497014280013B80C00000000 (.fpack (f3 .sx4 false 12 20 40 0 19)) = true := by decide +kernel
theorem test_words_control : words [(0x097800000000 * 2 ^ 48 + 0x0F0000000000, .exit (fs true)), (0x01A04800 * 2 ^ 64 + 2, .braAny { fb false 2 1 with h := hg true 2, ofs := 2 }),
    (0x07702000 * 2 ^ 64 + 1, .split (fb false 1 0 1)), (0x7878000000001F0100000003, .binitNow (fs true 0 0 0 1 15 1 3)), (0x7978090000000F0000000000, .barr (fs true 9)),
    (0x7B78010000002F0000000000, .bsync (fs true 1 0 0 2)), (0x7A78060900000F0000000000, .bwait (fs true 6 9)), (0x7E7800000000 * 2 ^ 48 + 0x0F000F1F1F00, .wait (fs true 0 0 0 0 15 0 0x0F1F1F00)),
    (0x7F7800000000 * 2 ^ 48 + 0x0F00000004E2, .sleep (wide 1250)), (0xB07000100000040100000011, .trap (fs false 0 16 0 0 4 1 0x11)), (0xB1780000 * 2 ^ 64 + 0x0F0000000000, .tret (fs true)),
    (0xB27804000000CF0000000000, .srget (fs true 4 0 0 0x00C)), (0xB37800030000BF0000000000, .srset (fs true 0 3 0 0x00B)), (0xB27818000001 * 2 ^ 48 + 0x2F0000000000, .srget (fs true 24 0 0 0x012)),
    (0xA0780A040000020000000000, .launch (fs true 10 4 0 0 2)), (0xA178070800102F0100000000, .wpush (fs true 7 8 0 0x102 15 1)), (0xA278000400102100 * 2 ^ 32, .wpop (fs true 0 4 0 0x102 1)),
    (0xA378030609000F0000000000, .wdone (fs true 3 6 9)), (0xA478020600000F00000030D4, .dlchk (fs true 2 6 0 0 15 0 12500))] := by decide +kernel
theorem test_words_system : words [(0xB47814080C00020000000000, .resumeLanes (fs true 20 8 12 0 2)), (0xB478140A0C00020000000001, .resumeLanes (fs true 20 10 12 0 2 0 1)),
    (0xB578010200000F0100000000, .trqpop (fs true 1 2 0 0 15 1)), (0xB67814080A00030000000000, .ctxsv (fs true 20 8 10 0 3)), (0xB678140E0800030100000000, .ctxsv (fs true 20 14 8 0 3 1)),
    (0xB77814081000 * 2 ^ 48 + 0x0F0000000000, .ctxld (fs true 20 8 16)), (0xB878140E1000 * 2 ^ 48 + 0x0F0200000000, .gkillGrid (fs true 20 14 16 0 15 2)),
    (0xBA78020800000F0100000000, .msgrcv (fs true 2 8 0 0 15 1)), (0xBB78000400003F0000000000, .iosubNvme (fs true 0 4 0 3)), (0xBC78010600000F0100000000, .iopoll (fs true 1 6 0 0 15 1)),
    (0xBF78140406000F0400000000, .keyopSweep (fs true 20 4 6 0 15 4)), (0xBF78140400003F0600000000, .keyopMext (fs true 20 4 0 3 15 6)),
    (0xBD7800040001230000000000, .tlbinvPage (fs true 0 4 0 0x012 3))] := by decide +kernel
theorem test_words_memory : words [(0x7D7808020060FF0000000100, .mwait (fm .k .b32 true 8 2 0 15 15 0 false 0x100)), (0x6120001000E0FF0000000000, .st { fm .g .b32 false 0 16 0 15 15 with h := hg false 2 }),
    (0x6170020A05E5FF0200000080, .st (fm .g .b32 false 2 10 5 15 15 0 true 128 2 true)), (0x6178140C0028FF0000000000, .st (fm .c .b64 true 20 12 0 15 15)),
    (0x6278060200E81F0000000000, .ldw (fm .g .b64 true 6 2 0 1 15)), (0x6A7803010200000000000000, .wmrgMrg (f3 .b32 true 0 3 1 2 0)), (0x6A78020A0000000200000000, .wmrgPut (f3 .b32 true 2 2 10 0 0)),
    (0x6C7800020000000000000000, .wwait (f3 .b32 true 0 0 2 0 0)), (0x6E7804000000000300000000, .wnow (f3 .b32 true 3 4 0 0 0))] := by decide +kernel
theorem test_words_matrix : words [(0x827828000000000000000000, .mzero (fx true 5)), (0x887800000000000000000002, .mcls (fx true 0 0 0 0 0 0 0 0 0 0 2)),
    (0x837000141804000000040000, .mma { fx false 0 0 10 12 2 0 0 0 0 1 with h := hdr false }), (0x86780000000000800030016F, .mdrn (fx true 0 0 0 0 0 0 16 0 3 0 0x0016F)),
    (0x8C7810000000000000000001, .mafm (fx true 2 0 0 0 0 0 0 0 0 0 1)), (0x897810000C00000020000000, .mgain { fx true 2 0 0 6 with fmta := .f32 }), (0x8E7810100000000000003F13, .mset (fx true 2 0 8 0 0 0 0 0 0 0 0x3F13)),
    (0x8A7810000000000000000002, .mscan (fx true 2 0 0 0 0 0 0 0 0 0 2)), (0x8B7018000014000000000000, .mcryGet (fx false 3 0 0 0 10)), (0x8B700000000C000000000002, .mcryUfg (fx false 0 0 0 0 6 0 0 0 0 0 2))] := by
  decide +kernel
theorem test_words_engines : words [(0x91780103100C000000000430, .scn (fc 0 false true 3 16 12 0x430)), (0x927805140600 * 2 ^ 48, .cpqCan (fc 2 false true 20 6)),
    (0x907C0102080000000120000C, .cpyMove (fc 0 true true 2 8 0 0x0120000C)), (0x987001081402604000000000, .rsmp { f3 .f32 false 0 1 8 20 2 with ub := true }),
    (0x997003000000000200000000, .linrd (f3 .b32 false 2 3 0 0 0)), (0x9A7800020400000000000000, .rngsSet (f3 .b32 true 0 0 2 4 0)), (0x9B700A000000680000000000, .rng (f3 .f64 false 0 10 0 0 0)),
    (0x9C7804000000000100000000, .popq (f3 .b32 true 1 4 0 0 0))] := by decide +kernel

/-! ### One step, on the worked examples of the spec (02 to 15) -/

/-- Registers of a lane. -/
def lane (l : Nat) (vs : List (Nat × Nat)) (s : State) : State := gw s fun g => vs.foldl (fun g e => g.wrV e.1 l (BitVec.ofNat 32 e.2)) g

theorem test_iadd_saturates : (ran (.iadd (f3 .i32 false 1 4 8 12 0)) (lane 0 [(8, 0x7FFFFFF0), (12, 0x20)] grp)).rdV 4 0 = 0x7FFFFFFF := by decide +kernel
theorem test_imulh : (ran (.imulh (f3 .n32 false 0 4 8 8 0)) (lane 0 [(8, 0xFFFFFFFF)] grp)).rdV 4 0 = 0xFFFFFFFE ∧
    (ran (.imulh (f3 .i32 false 0 4 8 8 0)) (lane 0 [(8, 0xFFFFFFFF)] grp)).rdV 4 0 = 0 := by decide +kernel
theorem test_division : ([(0xFFFFFFF9, 2), (0x80000000, 0xFFFFFFFF), (0xFFFFFFFB, 0)].map fun e =>
      ((ran (.idiv (f3 .i32 false 0 4 8 12 0)) (lane 0 [(8, e.1), (12, e.2)] grp)).rdV 4 0, (ran (.irem (f3 .i32 false 0 4 8 12 0)) (lane 0 [(8, e.1), (12, e.2)] grp)).rdV 4 0)) =
    [(0xFFFFFFFD, 0xFFFFFFFF), (0x80000000, 0), (0x80000000, 0xFFFFFFFB)] := by decide +kernel
theorem test_divide_trap : (ran (.idiv (f3 .i32 false 0 4 8 12 0)) (vect (gw (lane 0 [(12, 1)] grp) fun g => { g with gmode := 2 }))).traps.eval1 = 2 ∧
    (ran (.idiv (f3 .i32 false 0 4 8 12 0)) (vect (gw grp fun g => { g with gmode := 2 }))).traps.ecause1 = 0x08 := by decide +kernel
theorem test_bfx : ([0x0404, 0x0408].map fun b => (ran (.bfx (f3 .i32 false 0 4 8 12 0)) (lane 0 [(8, 0x0F30), (12, b)] grp)).rdV 4 0) = [3, 0xFFFFFFFF] := by decide +kernel
theorem test_iaddc_carry : (ran (.iaddc { (f3 .b32 false 0 4 8 0 0) with d := 0, a := 0, b := 2, x := 4 }) (lane 0 [(0, 0xFFFFFFFF), (2, 1)] grp)).rdV 0 0 = 0 ∧
    bit ((ran (.iaddc { (f3 .b32 false 0 4 8 0 0) with d := 0, a := 0, b := 2, x := 4 }) (lane 0 [(0, 0xFFFFFFFF), (2, 1)] grp)).rdP 4) 0 = true := by decide +kernel
theorem test_ixrd_bound : (ran (.ixrd { (f3 .b32 false 0 4 8 0 0) with d := 2, a := 5, imm := 95 }) (vect (lane 1 [(5, 1)] grp))).traps.eval1 = 0x100000060 ∧
    (ran (.ixrd { (f3 .b32 false 0 4 8 0 0) with d := 2, a := 5, imm := 95 }) (vect (lane 1 [(5, 1)] grp))).traps.ecause1 = 0x07 := by decide +kernel
theorem test_fcvi : ([0x4F32D05E, 0xC02CCCCD].map fun x => ((ran (.fcvi { (f3 .n32 false 12 4 8 0 0) with ty := .i32, rnd := .rz, a := 8, d := 4 }) (lane 0 [(8, x)] grp)).rdV 4 0)) = [0x7FFFFFFF, 0xFFFFFFFE] := by decide +kernel
theorem test_fadd : (ran (.fadd (f3 .f32 false 0 4 8 12 0)) (lane 0 [(8, 0x3F800000), (12, 0x40000000)] grp)).rdV 4 0 = 0x40400000 := by decide +kernel
theorem test_fpack : (let g := ran (.fpack (f3 .sx4 false 12 20 40 0 19)) (lane 0 [(40, 0x40400000), (41, 0xBF400000), (42, 0x3DCCCCCD), (43, 0x3D4CCCCD)] grp)
    (g.rdV 19 0, g.rdV 20 0, g.rdV 21 0, g.gstat &&& 0x10)) = (0x80FE, 0x066C, 0, 0x10) := by decide +kernel
theorem test_prmt : ([0x76543210, 0x10325476, 0x01234567].map fun x => (ran (.prmt (f3 .b32 false 0 4 8 12 16)) (lane 0 [(8, 0x12345678), (16, x)] grp)).rdV 4 0) =
    [0x12345678, 0x78563412, 0x87654321] := by decide +kernel
theorem test_match_rank : (let s := [(0, 5), (1, 7), (2, 5), (3, 5)].foldl (fun s e => lane e.1 [(1, e.2)] s) (gw grp fun g => { g with flow := { g.flow with active := 15 } })
    let g := ran (.laneMatch { (f3 .b32 false 0 4 8 0 0) with d := 2, a := 1, x := 1, var := 2 }) s
    [0, 1, 2, 3].map (g.rdV 2 ·)) = [0x300, 0x100, 0x301, 0x302] := by decide +kernel
theorem test_redux : (let s := [(0, 0x4B800000), (1, 0x3F800000), (2, 0x3F800000), (3, 0xCB800000)].foldl (fun s e => lane e.1 [(1, e.2)] s) (gw grp fun g => { g with flow := { g.flow with active := 15 } })
    (ran (.redux (f3 .f32 false 0 2 1 0 0)) s).rdV 2 0) = 0x3F800000 := by decide +kernel
theorem test_shfl_slide : (let s := lane 1 [(2, 310)] (lane 0 [(2, 10)] grp)
    let g := ran (.shfl (f3 .b32 false 22 4 2 0 3 .rn true 1)) s
    (g.rdV 4 0, g.rdV 4 1, g.rdP 3)) = (310, 310, 1) := by decide +kernel
theorem test_wmrg : (ran (.wmrgMrg (f3 .b32 true 0 3 1 2 0)) { gw grp fun g => (g.wrW 1 0x200C000000001000).wrW 2 0x4004000000000F00 with clock := 0x2000 }).rdW 3 = 0x6000000000001000 := by decide +kernel
theorem test_rng : (let g := ran (.rng (f3 .f64 true 0 6 0 0 0)) (gw grp fun g => { g with ns := 1 })
    (g.rdS64 6, g.ns)) = (0x3FEC4415072F63B9, 2) := by decide +kernel
theorem test_narrowing : ([Rnd.rn, .rz, .rd, .rp].map fun r => (ran (.fcvt { (f3 .f64 false 12 4 8 0 0) with ty := .bf16, rnd := r, a := 8, d := 4 }) (lane 0 [(8, 0x3F808000)] grp)).rdV 4 0) = [0x3F80, 0x3F80, 0x3F80, 0x3F81] := by
  decide +kernel
theorem test_guard_read_before_write : ((ran (.icmp { f3 .n32 false 0 2 8 12 0 with h := hg false 2 }) (gw grp fun g => g.wrP 2 3 2)).rdP 2) = 2 := by decide +kernel

end Sys2Proof.Tests
end

/-! ### What reset leaves (O3) -/

namespace Sys2Proof.Machine

/-! #### The system cores -/

theorem mem_systemCores (c : CtxRef) :
    c ∈ systemCores ↔ (∃ p, p < 80 ∧ c = .prefect p) ∨ (∃ f, f < 12 ∧ c = .front f) ∨ c = .secure := by
  simp [systemCores, eq_comm]

theorem length_systemCores : systemCores.length = 93 := by
  simp [systemCores]

theorem isSys_of_mem_systemCores {c : CtxRef} (h : c ∈ systemCores) : c.isSys = true := by
  obtain ⟨p, -, rfl⟩ | ⟨f, -, rfl⟩ | rfl := (mem_systemCores c).mp h <;> rfl

theorem Ctx.core_ordered (c : CtxRef) : (Ctx.core c).Ordered where
  level := Nat.zero_le 2
  depth := Nat.zero_le 30
  apart := (by decide : (1 : Word) &&& 0xFFFFFFFE = 0)
  entries := List.forall_mem_nil _

/-! #### The state after reset -/

/-- Prefect 0, the first system core, is the issuing context. -/
theorem reset_ctxs : State.reset.ctxs = systemCores.map Ctx.core := rfl

theorem forall_mem_reset_ctxs {P : Ctx → Prop} : (∀ g ∈ State.reset.ctxs, P g) ↔ ∀ c ∈ systemCores, P (Ctx.core c) := by
  rw [reset_ctxs, List.forall_mem_map]

theorem length_reset_ctxs : State.reset.ctxs.length = 93 := by
  rw [reset_ctxs, List.length_map, length_systemCores]

theorem reset_ctxs_ref : State.reset.ctxs.map (·.ids.ref) = systemCores := by
  rw [reset_ctxs, List.map_map]
  exact List.map_id _

theorem reset_prefs : State.reset.prefs = List.replicate 93 {} := rfl

theorem reset_pref (p : Nat) : State.reset.pref p = {} := by
  rw [State.pref, reset_prefs, List.getD_eq_getElem?_getD, List.getElem?_replicate]
  split <;> rfl

theorem reset_worlds_get_ne {w : Nat} (h : w ≠ 0) : State.reset.worlds.get {} w = {} :=
  if_neg h

theorem reset_canonical : State.reset.Canonical where
  mem := reset_mem_wf
  poison := rfl
  locks := rfl
  roots := rfl
  rmap := rfl
  worlds := by decide
  keys := rfl
  bufs := rfl
  tags := rfl
  peers := rfl

/-- Settles O3: the contexts are `Ctx.core` of each system core, so what reset gives a core is read off there for all 93 at once;
every other field is the value that `State.reset` writes. -/
theorem resetState : Obligations.ResetState := by
  unfold Obligations.ResetState
  have cores : ∀ g ∈ State.reset.ctxs, g.isSys = true ∧ g.sched.held = true ∧ g.flow.active = 1 ∧ g.flow.exited = 0xFFFFFFFE ∧
      g.flow.dead = 0 ∧ g.flow.stack = [] ∧ g.flow.sig = 0xFFFFFFFF ∧ g.traps.level = 0 ∧ g.ids.world = 0 ∧ g.ids.asn = 0 ∧
      g.n = 0 ∧ g.ids.role = .general ∧ g.gmode = 0x0C020000 :=
    forall_mem_reset_ctxs.mpr fun _ hc =>
      ⟨isSys_of_mem_systemCores hc, rfl, rfl, rfl, rfl, rfl, rfl, rfl, rfl, rfl, rfl, rfl, rfl⟩
  have prefects : ∀ p, p < 80 → (State.reset.pref p).slice = 1250000 ∧ (State.reset.pref p).forcedly = 2500000 ∧
      (State.reset.pref p).trapq = [] ∧ (State.reset.pref p).mailbox = [] := fun p _ => by
    rw [reset_pref]
    exact ⟨rfl, rfl, rfl, rfl⟩
  have ordered : ∀ g ∈ State.reset.ctxs, g.Ordered := forall_mem_reset_ctxs.mpr fun c _ => Ctx.core_ordered c
  exact ⟨reset_mem_wf, fun _ => rfl, rfl, rfl, length_reset_ctxs, cores, mem_systemCores, reset_ctxs_ref,
    -- world 0 and the other worlds (R410), the Prefects
    rfl, rfl, fun _ => reset_worlds_get_ne, prefects,
    -- the hub's registers (R440, R444), the error log (R434), the measurement registers
    rfl, rfl, rfl, rfl, rfl, rfl, rfl, rfl,
    -- the tables that start empty, from the teams to the protected buffers
    rfl, rfl, rfl, rfl, rfl, rfl, rfl,
    reset_canonical, ordered⟩

end Sys2Proof.Machine

/-! ### Every step goes on (O5) -/

namespace Sys2Proof.Machine

@[simp] theorem goesOn_next (t : State) : goesOn (.next t) := ⟨t, rfl⟩

theorem goesOn_onward {f : State → State} {r : Res} (h : goesOn r) : goesOn (onward f r) := by
  obtain ⟨t, rfl⟩ := h
  exact goesOn_next (f t)

/-! #### The turns that several events share -/

theorem recheckEvent_goesOn (due : Ctx → Bool) (s : State) : goesOn (recheckEvent due s) := by
  unfold recheckEvent
  split
  · exact goesOn_next _
  · dsimp only
    split
    · split <;> exact goesOn_next _
    · exact goesOn_next _

/-- A turn of a command that goes on still does when it may end a killed grid. -/
theorem cmdTurn_goesOn {scn : Bool} {turn : State → EngCmd → Res} (h : ∀ s c, goesOn (turn s c)) (s : State) :
    goesOn (cmdTurn scn turn s) := by
  unfold cmdTurn
  split
  · exact goesOn_next _
  next c _ =>
    obtain ⟨t, ht⟩ := h s c
    rw [ht]
    exact goesOn_next _

theorem copyTurn_goesOn (s : State) (c : EngCmd) : goesOn (copyTurn s c) := by
  unfold copyTurn State.cmdEnd
  repeat' split
  all_goals simp

theorem scanTurn_goesOn (s : State) (c : EngCmd) : goesOn (scanTurn s c) := by
  unfold scanTurn State.cmdEnd
  repeat' split
  all_goals simp

@[simp] theorem kernelCall_goesOn (s : State) (code : Nat) (key : TrapRec → Nat → List Nat)
    (owner : State → TrapRec → Nat → Option Nat) (f : Serve) : goesOn (kernelCall s code key owner f) := by
  unfold kernelCall
  dsimp only
  split
  · exact goesOn_next _
  · split <;> exact goesOn_next _

theorem fileCall_goesOn (s : State) (code : Nat) (write : Bool) (key : TrapRec → Nat → List Nat) (f : Serve) :
    goesOn (fileCall s code write key f) := by
  unfold fileCall
  split <;> simp

@[simp] theorem qctlEvent_goesOn (s : State) (kind : Nat) (f : State → State) : goesOn (qctlEvent s kind f) := by
  unfold qctlEvent
  split <;> simp

/-! #### The events that look at several things in turn -/

theorem bar0RegisterWrite_goesOn (s : State) : goesOn (execBar0RegisterWrite s) := by
  unfold execBar0RegisterWrite
  split <;> simp

theorem kick_goesOn (s : State) : goesOn (execKick s) := by
  unfold execKick
  split <;> simp

theorem loadDataReturn_goesOn (s : State) : goesOn (execLoadDataReturn s) := by
  unfold execLoadDataReturn
  dsimp only
  repeat' split
  all_goals simp

theorem peerLoadReturn_goesOn (s : State) : goesOn (execPeerLoadReturn s) := by
  unfold execPeerLoadReturn
  dsimp only
  repeat' split
  all_goals simp

theorem lineFetch_goesOn (s : State) : goesOn (execLineFetch s) := by
  unfold execLineFetch
  repeat' split
  all_goals simp

theorem deliveredCauseTaken_goesOn (s : State) : goesOn (execDeliveredCauseTaken s) := by
  unfold execDeliveredCauseTaken
  repeat' split
  all_goals simp

theorem passStart_goesOn (s : State) : goesOn (execPassStart s) := by
  unfold execPassStart
  extract_lets
  repeat' split
  all_goals simp

theorem passRetire_goesOn (s : State) : goesOn (execPassRetire s) := by
  unfold execPassRetire
  repeat' split
  all_goals simp

theorem drainComplete_goesOn (s : State) : goesOn (execDrainComplete s) := by
  unfold execDrainComplete
  repeat' split
  all_goals simp

theorem rsmpCollectiveReady_goesOn (s : State) : goesOn (execRsmpCollectiveReady s) := by
  unfold execRsmpCollectiveReady
  repeat' split
  all_goals simp

theorem rsmpComplete_goesOn (s : State) : goesOn (execRsmpComplete s) := by
  unfold execRsmpComplete
  repeat' split
  all_goals simp

theorem ioBufferDispatch_goesOn (s : State) : goesOn (execIoBufferDispatch s) := by
  unfold execIoBufferDispatch
  repeat' split
  all_goals simp

theorem securityRingRequest_goesOn (s : State) : goesOn (execSecurityRingRequest s) := by
  unfold execSecurityRingRequest
  dsimp only
  repeat' split
  all_goals simp

theorem frontendEvent_goesOn (s : State) : goesOn (execFrontendEvent s) := by
  unfold execFrontendEvent
  extract_lets
  repeat' split
  all_goals simp

theorem packetPush_goesOn (s : State) : goesOn (execPacketPush s) := by
  unfold execPacketPush
  dsimp only
  repeat' split
  all_goals simp

theorem callRecv_goesOn (s : State) : goesOn (execCallRecv s) := by
  unfold execCallRecv
  split <;> simp

theorem reply_goesOn (s : State) : goesOn (execReply s) := by
  unfold execReply
  extract_lets
  repeat' split
  all_goals simp

theorem faultService_goesOn (s : State) : goesOn (execFaultService s) := by
  unfold execFaultService
  dsimp only
  repeat' split
  all_goals simp

theorem restoreRetry_goesOn (s : State) : goesOn (execRestoreRetry s) := by
  unfold execRestoreRetry
  repeat' split
  all_goals simp

/-! #### The meaning of every row of the opcode table -/

/-- A row's meaning is an `issue` (R340, R343) or an `event`, at once or after it has looked whether there is anything to do. -/
theorem exec_goesOn (i : Instr) (s : State) : goesOn (exec i s) := by
  cases i
  -- What the machine does of itself where it finds the thing that the event is about, and else nothing:
  case xacqGrant | storePerform | operandLogReplay | witnessSatisfiedWake | linkDown | bellWake | sleepWake | macqGrant |
      deadlockReport | tilePortOpComplete | copyCommandStart | ycContinue | wpopWake | feedQueueDisable | feedQueueEnable |
      trapRecordAdmit | haltTakesEffect | sliceExpiry | forcedlyExpiry | tlbinvSweepDone | messageArrive | prefect0Start |
      bootTimeout | ioCommandComplete | rxFrame | report | note | capset | sweepLine | sweepComplete |
      packetNop | packetLaunch | gangPlacement | placementHoldExpiry | groupEnd | recvTimeout | escalateKillPolicy |
      pendingWriteComplete | descriptorRead | gridDependenciesSatisfied =>
    conv => arg 1; whnf
    split <;> exact goesOn_next _
  case mwaitRecheck | mwaitIntervalExpiry => exact recheckEvent_goesOn _ s
  case copyCommandComplete => exact cmdTurn_goesOn copyTurn_goesOn s
  case scnComplete => exact cmdTurn_goesOn scanTurn_goesOn s
  case qctlCreate => simp [exec, execQctlCreate]
  case qctlDestroy => simp [exec, execQctlDestroy]
  case qctlResume => simp [exec, execQctlResume]
  case callAlloc | callFree | callOpen | callClose | callSocket | callSend => exact kernelCall_goesOn ..
  case callRead | callWrite => exact fileCall_goesOn ..
  case callRecv => exact callRecv_goesOn s
  case loadDataReturn => exact loadDataReturn_goesOn s
  case peerLoadReturn => exact peerLoadReturn_goesOn s
  case bar0RegisterWrite => exact bar0RegisterWrite_goesOn s
  case kick => exact kick_goesOn s
  case lineFetch => exact lineFetch_goesOn s
  case deliveredCauseTaken => exact deliveredCauseTaken_goesOn s
  case passStart => exact passStart_goesOn s
  case passRetire => exact passRetire_goesOn s
  case drainComplete => exact drainComplete_goesOn s
  case rsmpCollectiveReady => exact rsmpCollectiveReady_goesOn s
  case rsmpComplete => exact rsmpComplete_goesOn s
  case ioBufferDispatch => exact ioBufferDispatch_goesOn s
  case securityRingRequest => exact securityRingRequest_goesOn s
  case frontendEvent => exact frontendEvent_goesOn s
  case packetPush => exact packetPush_goesOn s
  case reply => exact reply_goesOn s
  case faultService => exact faultService_goesOn s
  case restoreRetry => exact restoreRetry_goesOn s
  -- What the machine does of itself as one `event`:
  case auxPowerReset | bar4Read | bar4Write | candidatePassClose | challenge | getCapabilities | getCertificate | getDigests |
      getMeasurements | getVersion | groupPromotion | horizonExchange | horizonValueReceive | iocfgGo | keyMissLoad | ldlkRetry |
      negotiateAlgorithms | notifyWordWrite | patrolScrub | peerDeviceAccess | peerStateWrite | pldmFirmwareUpdate | pldmGetSensor |
      pldmSetPowerCap | pldmWarmReset | portBringupDone | portBringupTimeout | powerCapEval | pwrcapWrite | repairEntryAppend |
      resetpend | sagSkipStep | spdmUnsupportedRequest | supplyRecovers | supplySag | warmReset | yieldWindowEnd =>
    exact goesOn_next _
  -- The instructions of programs:
  all_goals exact issue_isNext _ _ _

/-! #### The step -/

theorem runNext_goesOn (s : State) : goesOn s.runNext := by
  unfold State.runNext
  dsimp only
  split
  · exact goesOn_next _
  split
  · exact goesOn_next _
  split
  · exact goesOn_next _
  split
  · exact exec_goesOn ..
  · exact goesOn_next _

theorem runCtx_goesOn (s : State) (c : CtxRef) : goesOn (s.runCtx c) := by
  unfold State.runCtx
  dsimp only
  split
  · exact goesOn_onward (runNext_goesOn _)
  · exact goesOn_next _

theorem runEvent_goesOn (s : State) (i : Instr) (a : EvArg) : goesOn (s.runEvent i a) := goesOn_onward (exec_goesOn i _)

/-- Settles O5: every row of the table answers a next state, and so do the faults that stand for a slot that is no instruction (R340, R343);
what the schedule chooses is one of these or the passing of time. -/
theorem stepGoesOn : Obligations.StepGoesOn := by
  unfold Obligations.StepGoesOn
  intro s
  unfold step
  split
  case h_1 => split <;> simp [runCtx_goesOn]
  case h_2 => split <;> simp [runEvent_goesOn]
  case h_3 =>
    split
    · exact goesOn_next _
    split
    · exact runCtx_goesOn ..
    · split <;> exact goesOn_next _
  case h_4 => exact goesOn_next _
  case h_5 => exact goesOn_next _
  case h_6 =>
    split
    · exact runEvent_goesOn ..
    · split
      · exact runCtx_goesOn ..
      · exact goesOn_next _

end Sys2Proof.Machine

/-! ### The signature and the event latch (O12) -/

namespace Sys2Proof.Machine

/-- SIGUPDATE takes the bits of its record from bit 0 upward (R125). -/
theorem crcBits_eq_foldl (n : Nat) (x : Word) (r : Nat) :
    Crypto.crcBits n x r = (List.range n).foldl (fun x k => Crypto.crcBit x (r.testBit k)) x := by
  induction n generalizing x r with
  | zero => rfl
  | succ n ih =>
    rw [Crypto.crcBits, ih, List.range_succ_eq_map, List.foldl_cons, List.foldl_map]
    simp [Nat.testBit_succ, Nat.testBit_zero]

/-- The hashed opcodes by the list of those that are not (R124). -/
theorem hashedOp_eq (op : Nat) :
    hashedOp op = !([0x01, 0x02, 0x03, 0x04, 0x05, 0x06, 0x07, 0x08, 0x0C, 0x0D, 0xB1].contains op) := by
  rw [Bool.eq_iff_iff]
  simp [hashedOp]
  omega

theorem hashInto_of_not_hashed {op : Nat} (h : hashedOp op = false) (f0 f : Flow) : hashInto op f0 f = f := by
  simp [hashInto, h]

theorem hashInto_sig {op : Nat} (h : hashedOp op = true) (f0 f : Flow) :
    (hashInto op f0 f).sig = Crypto.crcBits 64 f.sig (sigRecord op f0) := by
  unfold hashInto
  rw [if_pos h]
  dsimp only
  split <;> rfl

/-- All but EXIT, which keeps what it has set itself, leave an empty latch. -/
theorem hashInto_latch {op : Nat} (h : hashedOp op = true) (hx : op ≠ 0x09) (f0 f : Flow) :
    (hashInto op f0 f).lSplit = false ∧ (hashInto op f0 f).lJoin = false ∧ (hashInto op f0 f).lResume = false := by
  unfold hashInto
  rw [if_pos h]
  dsimp only
  rw [if_neg hx]
  exact ⟨rfl, rfl, rfl⟩

theorem completed_sig (i : Instr) (s u : State) :
    (completed i s u).g.flow.sig = (hashInto i.shape.op s.g.flow u.g.flow).sig := rfl

theorem completed_latch (i : Instr) (s u : State) :
    (completed i s u).g.flow.lSplit = (hashInto i.shape.op s.g.flow u.g.flow).lSplit ∧
    (completed i s u).g.flow.lJoin = (hashInto i.shape.op s.g.flow u.g.flow).lJoin ∧
    (completed i s u).g.flow.lResume = (hashInto i.shape.op s.g.flow u.g.flow).lResume := ⟨rfl, rfl, rfl⟩

/-- The record by its fields (R124). -/
theorem sigRecord_eq (op : Nat) (f : Flow) :
    sigRecord op f = op * 2 ^ 56 + f.active.toNat * 2 ^ 24 + (if f.lResume then 2 ^ 19 else 0) + (if op == 0xB0 then 2 ^ 18 else 0) +
      (if f.lJoin then 2 ^ 17 else 0) + (if f.lSplit then 2 ^ 16 else 0) := by
  have bit (b : Bool) (n : Nat) : b.toNat * n = if b then n else 0 := by cases b <;> simp
  simp only [sigRecord, bit, beq_iff_eq]

/-- Settles O12: a completed instruction leaves the flow that `hashInto` makes of the flow at issue; by its laws a hashed opcode folds
in the record, bit by bit, and empties the latch, and the others change nothing. -/
theorem signatures : Obligations.Signatures := by
  unfold Obligations.Signatures
  intro i s u
  extract_lets fl op bit1 rcd update f' unhashed
  have hop : hashedOp op = !unhashed.contains op := hashedOp_eq op
  have hrcd : sigRecord op fl = rcd := sigRecord_eq op fl
  obtain ⟨hsplit, hjoin, hresume⟩ := completed_latch i s u
  refine ⟨fun h => ?_, fun h hx => ?_, fun h => ?_⟩ <;> rw [h] at hop
  · change (completed i s u).g.flow.sig = _
    rw [completed_sig, hashInto_sig hop, crcBits_eq_foldl, hrcd]
    have hbit : (fun x k => Crypto.crcBit x (rcd.testBit k)) = update := by
      funext x k
      simp only [Crypto.crcBit, update]
    rw [hbit]
  · exact hashInto_latch hop hx s.g.flow u.g.flow
  · have hf := hashInto_of_not_hashed hop s.g.flow u.g.flow
    refine ⟨(completed_sig i s u).trans ?_, hsplit.trans ?_, hjoin.trans ?_, hresume.trans ?_⟩ <;> exact congrArg _ hf

end Sys2Proof.Machine

/-! ### Lanes that read poison (O13)

A lane that SHFL kills counts as dead from the next instruction on (R185, R187): a lane that takes the element of one that dies in this same
SHFL still receives it. Where the lane was dead before, it receives 0. So the two completions that the statement equates differ. -/

namespace Sys2Proof.Machine

/-- SHFL.ROT.B32 V4, V2, #1, P3 in segments of four lanes: lane l takes the element of lane l + 1. -/
def rotateByOne : F3 :=
  { h := { n := false, gi := 7, y := false }, d := 4, a := 2, b := 0, x := 3, ty := .b32, rnd := .rn, ib := true, ub := false, ux := false
    var := 9, imm := 1 }

/-- A group of three lanes. V2 holds 310 in lane 1 and poison in lane 2, which lane 1 is to take and lane 2 keeps for itself. -/
def relayCtx : Ctx :=
  { ids := { ref := .group 1 0, grid := 1 }, flow := { pc := 0x10004, active := 7, exited := 0xFFFFFFF8 }
    regs := { v := [(65, 310)], vp := [(66, true)] } }

def relay : State := { State.reset with g := relayCtx, others := [] }

/-- The state in which the lanes that die at the SHFL, lanes 1 and 2, are dead already. -/
def relayDead : State := relay.modG (·.kill 6)

/-- The context after an instruction. -/
def ctxAfter (i : Instr) (s : State) : Ctx :=
  match exec i s with
  | .next t => t.g
  | _ => s.g

theorem ctxAfter_of_exec {i : Instr} {s t : State} (h : exec i s = .next t) : t.g = ctxAfter i s := by
  simp only [ctxAfter, h]

theorem relay_deaths : deathsOf (.shfl rotateByOne) relay.g = 6 := by decide +kernel

/-- The SHFL issues in `relay`: no check of R62 and no delivered cause comes first. -/
theorem relay_issues :
    relay.g.able = true ∧ staticCheck (.shfl rotateByOne) relay.g = none ∧
    ((Instr.shfl rotateByOne).shape.regs.any relay.g.marked || (Instr.shfl rotateByOne).shape.writes.any relay.g.locked) = false ∧
    tileFault (.shfl rotateByOne) relay = none ∧ State.deliverable relay.g = none ∧ relay.g.isSys = false := by
  decide +kernel

/-- With the lanes dead already the SHFL completes. -/
theorem relayDead_completes :
    let g := ctxAfter (.shfl rotateByOne) relayDead
    g.flow.pc = nextPc relay.g.flow.pc ∧ g.traps.level = relay.g.traps.level ∧ g.wait = {} ∧ g.sched.killed = false ∧
    g.sched.finalWait = false ∧ g.sched.escalated = false := by
  decide +kernel

/-- Lane 0 receives the value of lane 1 when lane 1 dies in the SHFL, and 0 when it was dead before. -/
theorem relay_lane0 :
    (ctxAfter (.shfl rotateByOne) relay).rdV 4 0 = 310 ∧ (ctxAfter (.shfl rotateByOne) relayDead).rdV 4 0 = 0 := by
  decide +kernel

/-- Refutes O13: in `relay` the SHFL kills lanes 1 and 2, and lane 0, which lives, receives 310 from lane 1; where lanes 1 and 2 are dead
already it receives 0, so its registers are not the same. -/
theorem not_poisonKills : ¬ Obligations.PoisonKills := by
  unfold Obligations.PoisonKills
  rintro ⟨kills, -, -⟩
  obtain ⟨hable, hcheck, hfree, htile, hquiet, hsys⟩ := relay_issues
  obtain ⟨hpc, hlevel, hwait, hkilled, hfinal, hescalated⟩ := relayDead_completes
  obtain ⟨hlives, hdead⟩ := relay_lane0
  obtain ⟨u, hu⟩ := exec_goesOn (.shfl rotateByOne) relayDead
  have hug := ctxAfter_of_exec hu
  have same := kills (.shfl rotateByOne) relay u
  rw [relay_deaths] at same
  obtain ⟨t, ht, -, hregs, -⟩ := same rfl rfl hable hcheck hfree htile hquiet (by decide) hsys (List.forall_mem_nil _) hu
    (hug ▸ hpc) (hug ▸ hlevel) (hug ▸ hwait) (hug ▸ hkilled) (hug ▸ hfinal) (hug ▸ hescalated)
  have hv : t.g.rdV 4 0 = u.g.rdV 4 0 := by simp only [Ctx.rdV, hregs]
  rw [ctxAfter_of_exec ht, hug, hlives, hdead] at hv
  exact absurd hv (by decide)

end Sys2Proof.Machine

/-! ### Results return (O35) -/

namespace Sys2Proof.Machine

/-! #### What telling, posting and delivering leave alone -/

/-- The issuing context keeps its registers, its place in the program, its pending results and its store mark, and memory is as it was. -/
structure SameResults (s t : State) : Prop where
  regs : t.g.regs = s.g.regs
  flow : t.g.flow = s.g.flow
  pend : t.g.pend = s.g.pend
  mark : t.g.mark = s.g.mark
  mem : t.mem = s.mem

/-- Only scheduling, trap state and the queues of others may differ. -/
structure Undisturbed (s t : State) : Prop extends SameResults s t where
  ids : t.g.ids = s.g.ids
  wait : t.g.wait = s.g.wait

theorem Undisturbed.refl (s : State) : Undisturbed s s := ⟨⟨rfl, rfl, rfl, rfl, rfl⟩, rfl, rfl⟩

theorem escalate_undisturbed (s : State) (cause pc : Nat) (value : DWord) : Undisturbed s (s.escalate s.g.ids.ref cause pc value) := by
  unfold State.escalate
  rw [ctx_self]
  dsimp only
  split
  · exact .refl s
  · rw [modCtx_self]
    split <;> exact ⟨⟨rfl, rfl, rfl, rfl, rfl⟩, rfl, rfl⟩

theorem deliver_undisturbed (s : State) (d : Delivered) : Undisturbed s (s.deliver s.g.ids.ref d) := by
  unfold State.deliver
  rw [ctx_self]
  dsimp only
  split
  · exact .refl s
  split
  · exact escalate_undisturbed ..
  · rw [modCtx_self]
    exact ⟨⟨rfl, rfl, rfl, rfl, rfl⟩, rfl, rfl⟩

/-- Where no lane dies now, those that an instruction has killed before are delivered (R430), and nothing else happens. -/
theorem killLanes_undisturbed (s : State) (also : Word) (src level loc va : Nat) :
    Undisturbed s (s.killLanes s.g.ids.ref 0 also src level loc va) := by
  unfold State.killLanes
  split
  · exact .refl s
  · simp only [if_true]
    split
    · exact escalate_undisturbed ..
    · exact deliver_undisturbed ..

/-! #### The units of a result reach the registers -/

/-- The value that a unit has got, as its registers receive it. -/
def Elem.value (e : Elem) : Nat := extend e.width ((e.got.map (·.1)).getD 0)

theorem Elem.value_of_got {e : Elem} {v : Nat} {b : Bool} (h : e.got = some (v, b)) : e.value = extend e.width v := by
  simp only [Elem.value, h, Option.map_some, Option.getD_some]

/-- Units write their values in the lanes that `live` names. -/
def wrUnits (y : Bool) (live : Nat → Bool) (g : Ctx) (us : List Elem) : Ctx :=
  us.foldl (fun g e => if live e.lane then g.wr y e.reg e.lane e.width.regs e.value else g) g

theorem wrUnits_cons (y : Bool) (live : Nat → Bool) (g : Ctx) (e : Elem) (us : List Elem) :
    wrUnits y live g (e :: us) = wrUnits y live (if live e.lane then g.wr y e.reg e.lane e.width.regs e.value else g) us := rfl

theorem landUnits_eq {g : Ctx} {p : Pend} (bad : Word) (h : p.status = []) :
    g.landUnits p bad = wrUnits p.uni (fun l => p.uni || !(bit g.flow.dead l || bit bad l)) g p.units := by
  simp only [Ctx.landUnits, h, List.foldl_nil]
  rfl

theorem wrUnits_eq (y : Bool) (live : Nat → Bool) (g : Ctx) (us : List Elem) :
    wrUnits y live g us = { g with regs := (wrUnits y live g us).regs } := by
  induction us generalizing g with
  | nil => rfl
  | cons e us ih =>
    rw [wrUnits_cons, ih]
    split
    · rw [Ctx.wr_eq]
    · rfl

theorem wrUnits_w (y : Bool) (live : Nat → Bool) (g : Ctx) (us : List Elem) : (wrUnits y live g us).regs.w = g.regs.w := by
  induction us generalizing g with
  | nil => rfl
  | cons e us ih => rw [wrUnits_cons, ih]; split <;> simp

theorem wrUnits_false_s (live : Nat → Bool) (g : Ctx) (us : List Elem) : (wrUnits false live g us).regs.s = g.regs.s := by
  induction us generalizing g with
  | nil => rfl
  | cons e us ih => rw [wrUnits_cons, ih]; split <;> simp

theorem wrUnits_true_v (live : Nat → Bool) (g : Ctx) (us : List Elem) : (wrUnits true live g us).regs.v = g.regs.v := by
  induction us generalizing g with
  | nil => rfl
  | cons e us ih => rw [wrUnits_cons, ih]; split <;> simp

/-- Does a unit fill register `r`? -/
def Elem.fills (e : Elem) (r : Nat) : Prop := e.reg ≤ r ∧ r < e.reg + e.width.regs

/-- A vector element that no live unit fills is as it was. -/
theorem wrUnits_lane {live : Nat → Bool} {us : List Elem} {r l : Nat} (g : Ctx) (hl : l < 32) (hus : ∀ e ∈ us, e.lane < 32)
    (hr : ∀ e ∈ us, live e.lane = true → e.lane = l → ¬ e.fills r) :
    (wrUnits false live g us).rdV r l = g.rdV r l ∧ (wrUnits false live g us).vpois r l = g.vpois r l := by
  induction us generalizing g with
  | nil => exact ⟨rfl, rfl⟩
  | cons e us ih =>
    obtain ⟨hel, hus⟩ := List.forall_mem_cons.mp hus
    obtain ⟨her, hr⟩ := List.forall_mem_cons.mp hr
    obtain ⟨hv, hp⟩ := ih (if live e.lane then g.wr false e.reg e.lane e.width.regs e.value else g) hus hr
    rw [wrUnits_cons, hv, hp]
    split
    case isTrue hlive =>
      have away : ¬ (e.reg ≤ r ∧ r < e.reg + e.width.regs ∧ l = e.lane) := fun ⟨h1, h2, h3⟩ => her hlive h3.symm ⟨h1, h2⟩
      rw [Ctx.rdV_wr _ _ _ _ _ _ _ hel hl, Ctx.vpois_wr _ _ _ _ _ _ _ hel hl, if_neg away, if_neg away]
      exact ⟨rfl, rfl⟩
    case isFalse => exact ⟨rfl, rfl⟩

/-- An S register that no unit fills is as it was. -/
theorem wrUnits_uniform {live : Nat → Bool} {us : List Elem} {r : Nat} (g : Ctx) (hr : ∀ e ∈ us, ¬ e.fills r) :
    (wrUnits true live g us).rdS r = g.rdS r := by
  induction us generalizing g with
  | nil => rfl
  | cons e us ih =>
    obtain ⟨her, hr⟩ := List.forall_mem_cons.mp hr
    rw [wrUnits_cons, ih _ hr]
    split
    · rw [Ctx.rdS_wr, if_neg fun ⟨h1, h2, _⟩ => her ⟨h1, h2⟩]
    · rfl

theorem holds_wr (g : Ctx) (y : Bool) {d l n x : Nat} (hl : l < 32) : Holds (g.wr y d l n x) y d l n x := by
  intro k hk
  cases y
  · rw [if_neg Bool.false_ne_true, Ctx.rdV_wr _ _ _ _ _ _ _ hl hl, Ctx.vpois_wr _ _ _ _ _ _ _ hl hl,
      if_pos ⟨by omega, by omega, rfl⟩, if_pos ⟨by omega, by omega, rfl⟩, Nat.add_sub_cancel_left]
    exact ⟨rfl, rfl⟩
  · rw [if_pos rfl, Ctx.rdS_wr]
    by_cases h63 : d + k = 63
    · simp [h63]
    · rw [if_pos ⟨by omega, by omega, h63⟩, if_neg h63, Nat.add_sub_cancel_left]

/-- Two units that share no register of a lane. -/
def Elem.apart (e e' : Elem) : Prop := ¬ e.lane = e'.lane ∨ e.reg + e.width.regs ≤ e'.reg ∨ e'.reg + e'.width.regs ≤ e.reg

/-- What the registers of a unit hold outlives the units apart from it. -/
theorem holds_wrUnits_of_apart {y : Bool} {live : Nat → Bool} {us : List Elem} {g : Ctx} {e : Elem} {x : Nat}
    (h : Holds g y e.reg e.lane e.width.regs x) (hl : e.lane < 32) (hus : ∀ e' ∈ us, e'.lane < 32) (ha : ∀ e' ∈ us, e.apart e')
    (hy : y = true → e.lane = 0 ∧ ∀ e' ∈ us, e'.lane = 0) : Holds (wrUnits y live g us) y e.reg e.lane e.width.regs x := by
  intro k hk
  have hk' := h k hk
  have free : ∀ e' ∈ us, e'.lane = e.lane → ¬ e'.fills (e.reg + k) := fun e' he' hlane ⟨h1, h2⟩ => by
    rcases ha e' he' with h3 | h3 | h3
    · exact h3 hlane.symm
    · omega
    · omega
  cases y
  · rw [if_neg Bool.false_ne_true] at hk' ⊢
    obtain ⟨hv, hp⟩ := wrUnits_lane g hl hus fun e' he' (_ : live e'.lane = true) => free e' he'
    rw [hv, hp]
    exact hk'
  · obtain ⟨h0, hus0⟩ := hy rfl
    rw [if_pos rfl] at hk' ⊢
    rw [wrUnits_uniform g fun e' he' => free e' he' ((hus0 e' he').trans h0.symm)]
    exact hk'

/-- Of units that are apart each live one's registers hold its value. -/
theorem holds_wrUnits {y : Bool} {live : Nat → Bool} {us : List Elem} {e : Elem} (g : Ctx) (he : e ∈ us) (hlive : live e.lane = true)
    (hus : ∀ e' ∈ us, e'.lane < 32) (ha : us.Pairwise Elem.apart) (hy : y = true → ∀ e' ∈ us, e'.lane = 0) :
    Holds (wrUnits y live g us) y e.reg e.lane e.width.regs e.value := by
  induction us generalizing g with
  | nil => exact absurd he List.not_mem_nil
  | cons a us ih =>
    have hus0 := hus
    obtain ⟨hal, hus⟩ := List.forall_mem_cons.mp hus
    obtain ⟨haa, ha⟩ := List.pairwise_cons.mp ha
    have hy0 := fun h => List.forall_mem_cons.mp (hy h)
    rw [wrUnits_cons]
    rcases List.mem_cons.mp he with rfl | he
    · rw [if_pos hlive]
      exact holds_wrUnits_of_apart (holds_wr g y hal) hal (List.forall_mem_cons.mp hus0).2 haa hy0
    · exact ih _ he hus ha fun h => (hy0 h).2

/-! #### A result lands -/

/-- The lanes of a context that a result reaches. -/
def Pend.reaches (p : Pend) (g : Ctx) (l : Nat) : Bool := p.uni || !bit g.flow.dead l

/-- A context after a result with good data has landed: its registers, its witness and the store mark (R227), and the result is pending no more. -/
def landCtx (now : Nat) (p : Pend) (g : Ctx) : Ctx :=
  let r := wrUnits p.uni (p.reaches g) g p.units
  { g with
    regs := (if p.store then r.wrW p.wreg (if p.plus = 0 then p.wit else mergeWit now p.plus p.wit) else r).regs
    mark := if p.store then mergeWit now g.mark p.wit else g.mark
    pend := g.pend.filter (fun q => q.id != p.id) }

/-- Landing without poison: the registers are written, then the lanes that died at issue are delivered. -/
theorem land_good {s : State} {p : Pend} (hgot : ∀ e ∈ p.units, ∃ v, e.got = some (v, false)) (hstatus : p.status = []) :
    Undisturbed (s.modG (landCtx s.now p)) (s.land s.g.ids.ref p) := by
  have clean : (p.units.filter fun e => (e.got.map (·.2)).getD false &&
      !(bit (((s.ctx? s.g.ids.ref).map (·.flow.dead)).getD 0) e.lane && !p.uni)) = [] := by
    rw [List.filter_eq_nil_iff]
    intro e he
    obtain ⟨v, hv⟩ := hgot e he
    simp [hv]
  have hunits : s.g.landUnits p (maskOf []) = wrUnits p.uni (p.reaches s.g) s.g p.units := by
    rw [landUnits_eq _ hstatus]
    congr 1
    funext l
    simp [Pend.reaches, maskOf, bit]
  have hctx : landCtx s.now p s.g =
      (let g := s.g.landUnits p (maskOf [])
       let g := if p.store then
         { g.wrW p.wreg (if p.plus = 0 then p.wit else mergeWit s.now p.plus p.wit) with mark := mergeWit s.now g.mark p.wit } else g
       { g with pend := g.pend.filter (fun q => q.id != p.id) }) := by
    obtain ⟨r, hr⟩ : ∃ r, wrUnits p.uni (p.reaches s.g) s.g p.units = { s.g with regs := r } := ⟨_, wrUnits_eq ..⟩
    unfold landCtx
    rw [hunits, hr]
    unfold Ctx.wrW
    split
    · split <;> rfl
    · rfl
  have hland : s.land s.g.ids.ref p = (s.modG (landCtx s.now p)).killLanes s.g.ids.ref 0 p.killed 0 p.level 0 0 := by
    unfold State.land
    rw [clean]
    simp only [ne_eq, not_true_eq_false, and_false, if_false, List.map_nil, modCtx_self]
    exact congrArg (fun g => State.killLanes { s with g := g } s.g.ids.ref 0 p.killed 0 p.level 0 0) hctx.symm
  rw [hland]
  exact killLanes_undisturbed (s.modG (landCtx s.now p)) ..

/-- What a context holds once a result has landed in it (R193, R194, R206, R227). -/
structure Landed (s : State) (p : Pend) (t : State) : Prop where
  units : ∀ e v, e ∈ p.units → (p.uni = true ∨ bit s.g.flow.dead e.lane = false) → e.got = some (v, false) →
    Holds t.g p.uni e.reg e.lane e.width.regs (extend e.width v)
  lanes : ∀ r l, l < 32 → (p.uni = true ∨ ¬ ((∃ e ∈ p.units, e.lane = l ∧ e.fills r) ∧ (p.uni = true ∨ bit s.g.flow.dead l = false))) →
    t.g.rdV r l = s.g.rdV r l
  uniform : p.uni = false → ∀ r, t.g.rdS r = s.g.rdS r
  load : p.store = false → t.g.mark = s.g.mark ∧ ∀ r, t.g.rdW r = s.g.rdW r
  store : p.store = true → p.plus = 0 → t.g.mark = mergeWit s.now s.g.mark p.wit ∧
    ∀ r, t.g.rdW r = if r = p.wreg ∧ r ≠ 15 then p.wit else s.g.rdW r
  pend : t.g.pend = s.g.pend.filter (fun q => q.id != p.id)
  mem : t.mem = s.mem
  flow : t.g.flow = s.g.flow

/-- What `Landed` says of a state holds of every state with the same results. -/
theorem Landed.of_sameResults {s t u : State} {p : Pend} (h : Landed s p t) (hu : SameResults t u) : Landed s p u where
  units e v he hl hv k hk := by
    have hh := h.units e v he hl hv k hk
    simpa only [Ctx.rdS, Ctx.rdV, Ctx.vpois, hu.regs] using hh
  lanes r l hl hr := by simpa only [Ctx.rdV, hu.regs] using h.lanes r l hl hr
  uniform hy r := by simpa only [Ctx.rdS, hu.regs] using h.uniform hy r
  load hs := by simpa only [Ctx.rdW, hu.regs, hu.mark] using h.load hs
  store hs hp := by simpa only [Ctx.rdW, hu.regs, hu.mark] using h.store hs hp
  pend := hu.pend.trans h.pend
  mem := hu.mem.trans h.mem
  flow := hu.flow.trans h.flow

theorem landCtx_regs_of_load {now : Nat} {p : Pend} {g : Ctx} (h : p.store = false) :
    (landCtx now p g).regs = (wrUnits p.uni (p.reaches g) g p.units).regs := by
  simp [landCtx, h]

theorem landCtx_regs_v (now : Nat) (p : Pend) (g : Ctx) :
    (landCtx now p g).regs.v = (wrUnits p.uni (p.reaches g) g p.units).regs.v := by
  unfold landCtx; dsimp only; split <;> simp

theorem landCtx_regs_vp (now : Nat) (p : Pend) (g : Ctx) :
    (landCtx now p g).regs.vp = (wrUnits p.uni (p.reaches g) g p.units).regs.vp := by
  unfold landCtx; dsimp only; split <;> simp

theorem landCtx_regs_s (now : Nat) (p : Pend) (g : Ctx) :
    (landCtx now p g).regs.s = (wrUnits p.uni (p.reaches g) g p.units).regs.s := by
  unfold landCtx; dsimp only; split <;> simp

/-- The units of a result: each has good data, none shares a register with another, a uniform one is of lane 0. -/
structure Pend.Sound (p : Pend) : Prop where
  status : p.status = []
  lane : ∀ e ∈ p.units, e.lane < 32
  got : ∀ e ∈ p.units, ∃ v, e.got = some (v, false)
  apart : p.units.Pairwise Elem.apart
  uniform : p.uni = true → ∀ e ∈ p.units, e.lane = 0

theorem landCtx_landed {s : State} {p : Pend} (h : p.Sound) : Landed s p (s.modG (landCtx s.now p)) where
  units e v he hl hv := by
    have hlive : p.reaches s.g e.lane = true := by
      simpa [Pend.reaches] using hl
    have hh := holds_wrUnits s.g he hlive h.lane h.apart h.uniform
    rw [Elem.value_of_got hv] at hh
    intro k hk
    have hk := hh k hk
    simpa only [Ctx.rdS, Ctx.rdV, Ctx.vpois, modG_g, landCtx_regs_v, landCtx_regs_vp, landCtx_regs_s] using hk
  lanes r l hl hr := by
    simp only [Ctx.rdV, modG_g, landCtx_regs_v]
    cases hy : p.uni
    case true => rw [wrUnits_true_v]
    case false =>
      refine (wrUnits_lane s.g hl h.lane fun e he hlive hel hfill => ?_).1
      rw [hy] at hr
      rcases hr with hr | hr
      · cases hr
      · exact hr ⟨⟨e, he, hel, hfill⟩, .inr (by simpa [Pend.reaches, hy, hel] using hlive)⟩
  uniform hy r := by
    simp only [Ctx.rdS, modG_g, landCtx_regs_s, hy, wrUnits_false_s]
  load hs := by
    refine ⟨by simp [landCtx, hs], fun r => ?_⟩
    simp only [Ctx.rdW, modG_g, landCtx_regs_of_load hs, wrUnits_w]
  store hs hp := by
    refine ⟨by simp [landCtx, hs], fun r => ?_⟩
    have hw : (s.modG (landCtx s.now p)).g.rdW r = ((wrUnits p.uni (p.reaches s.g) s.g p.units).wrW p.wreg p.wit).rdW r := by
      simp [landCtx, hs, hp, Ctx.rdW]
    rw [hw, Ctx.rdW_wrW]
    by_cases hr : r = p.wreg
    · subst hr
      simp [Ctx.rdW, wrUnits_w]
    · simp [Ctx.rdW, wrUnits_w, hr]
  pend := rfl
  mem := rfl
  flow := rfl

/-- A complete result with good data lands in the issuing context. -/
theorem land_landed {s : State} {p : Pend} (h : p.Sound) : Landed s p (s.land s.g.ids.ref p) :=
  (landCtx_landed h).of_sameResults (land_good h.got h.status).toSameResults

/-! #### The events that make a result land -/

theorem performLoads_of_no_access {s : State} (p : Pend) (h : s.accs = []) : s.performLoads p = s := by
  simp [State.performLoads, h]

/-- Result `p` of the issuing context, which the event names, has all its data. -/
structure Due (s : State) (p : Pend) : Prop where
  self : s.arg.c = s.g.ids.ref
  named : s.g.pend.find? (fun q => q.id == s.arg.id && q.kind == p.kind) = some p
  first : s.g.pend.find? (·.id == p.id) = some p
  complete : p.complete = true
  quiet : s.accs = []
  sound : p.Sound

theorem loadDataReturn_lands {s : State} {p : Pend} (h : Due s p) (hk : p.kind = .load) :
    ∃ t, exec .loadDataReturn s = .next t ∧ Landed s p t := by
  refine ⟨s.land s.g.ids.ref p, ?_, land_landed h.sound⟩
  have hn := h.named
  rw [hk] at hn
  change execLoadDataReturn s = _
  unfold execLoadDataReturn
  rw [h.self, ctx_self]
  simp only [Option.bind_some, hn, performLoads_of_no_access _ h.quiet, h.self, ctx_self, h.first, h.complete, if_true]

theorem known_self (s : State) : s.known s.g.ids.ref = some s.g := by
  simp only [State.known, ctx_self, Option.orElse_some]

theorem anywhere_self (s : State) (f : State → State) : s.anywhere s.g.ids.ref f = f s := by
  simp only [State.anywhere, ctx_self, Option.isSome_some, if_true]

/-- A group parked at the peer load of result `id` wakes. -/
def Ctx.wakeAtPeer (id : Nat) (g : Ctx) : Ctx := if g.wait.kind = 4 ∧ g.wait.addr = id then g.setWait { g.wait with sat := true } else g

theorem wakeAtPeer_sat {id : Nat} {g : Ctx} (hk : g.wait.kind = 4) (ha : g.wait.addr = id) : (g.wakeAtPeer id).wait.sat = true := by
  simp [Ctx.wakeAtPeer, hk, ha]

theorem wakeAtPeer_sameResults (t : State) (id : Nat) : SameResults t (t.modG (·.wakeAtPeer id)) := by
  constructor
  case mem => rfl
  all_goals
    rw [modG_g]
    unfold Ctx.wakeAtPeer
    split <;> rfl

theorem peerLoadReturn_lands {s : State} {p : Pend} (h : Due s p) (hk : p.kind = .peer) :
    ∃ t, exec .peerLoadReturn s = .next t ∧ Landed s p t ∧ (s.g.wait.kind = 4 → s.g.wait.addr = p.id → t.g.wait.sat = true) := by
  have hu := land_good (s := s) h.sound.got h.sound.status
  refine ⟨(s.land s.g.ids.ref p).modG (·.wakeAtPeer p.id), ?_,
    (land_landed h.sound).of_sameResults (wakeAtPeer_sameResults ..), fun hkind haddr => ?_⟩
  · have hn := h.named
    rw [hk] at hn
    have href : (s.land s.g.ids.ref p).g.ids.ref = s.g.ids.ref := congrArg (·.ref) hu.ids
    change execPeerLoadReturn s = _
    unfold execPeerLoadReturn
    simp only [h.self, known_self, Option.bind_some, hn, performLoads_of_no_access _ h.quiet, h.complete, if_true, anywhere_self]
    exact congrArg _ ((congrArg (State.modCtx _ · _) href.symm).trans (modCtx_self ..))
  · rw [modG_g]
    have hw : (s.land s.g.ids.ref p).g.wait = s.g.wait := hu.wait
    exact wakeAtPeer_sat (hw ▸ hkind) (hw ▸ haddr)

theorem pendingWriteComplete_lands {s : State} {p : Pend} (h : Due s p) (hready : p.ready = true)
    (hn : (s.g.pend.find? fun q => q.id == s.arg.id && (q.kind == .witness || q.kind == .atomic)) = some p) :
    ∃ t, exec .pendingWriteComplete s = .next t ∧ Landed s p t := by
  refine ⟨s.land s.g.ids.ref p, ?_, land_landed h.sound⟩
  change execPendingWriteComplete s = _
  unfold execPendingWriteComplete
  simp only [h.self, ctx_self, Option.bind_some, hn, hready, h.complete, Bool.and_self, event_true]

theorem ldlkRetry_unstalls {s : State} {g : Ctx} (hg : s.ctx? s.arg.c = some g) (hs : g.sched.stalled = true) :
    exec .ldlkRetry s = .next (s.modCtx s.arg.c (·.setStalled false)) := by
  change execLdlkRetry s = _
  unfold execLdlkRetry
  simp only [hg, Option.map_some, hs, Option.getD_some, event_true]

/-! #### Units that begin their accesses -/

/-- Accesses have begun: of the contexts only the issuing one has changed, in its pending results and its last-page register, and no memory and no
Prefect has. -/
structure Begun (s t : State) : Prop where
  g : ∃ pend lastPage, t.g = { s.g with pend := pend, lastPage := lastPage }
  others : t.others = s.others
  mem : t.mem = s.mem
  prefs : t.prefs = s.prefs

theorem Begun.refl (s : State) : Begun s s := ⟨⟨_, _, rfl⟩, rfl, rfl, rfl⟩

theorem Begun.trans {s t u : State} (h : Begun s t) (k : Begun t u) : Begun s u := by
  obtain ⟨_, _, hg⟩ := h.g
  obtain ⟨pend, lastPage, kg⟩ := k.g
  exact ⟨⟨pend, lastPage, by rw [kg, hg]⟩, k.others.trans h.others, k.mem.trans h.mem, k.prefs.trans h.prefs⟩

theorem Begun.flow {s t : State} (h : Begun s t) : t.g.flow = s.g.flow := by
  obtain ⟨_, _, hg⟩ := h.g
  rw [hg]

theorem Begun.level {s t : State} (h : Begun s t) : t.g.traps.level = s.g.traps.level := by
  obtain ⟨_, _, hg⟩ := h.g
  rw [hg]

theorem Begun.handle {s t : State} (h : Begun s t) : t.g.handle = s.g.handle := by
  obtain ⟨_, _, hg⟩ := h.g
  rw [hg]
  rfl

theorem Begun.cluster {s t : State} (h : Begun s t) : t.g.cluster = s.g.cluster := by
  obtain ⟨_, _, hg⟩ := h.g
  rw [hg]
  rfl

theorem translate_begun {s t : State} {lane va : Nat} {k : AccKind} {tr : Tr} (h : s.translate lane va k = .ok (t, tr)) : Begun s t := by
  unfold State.translate at h
  split at h
  · cases h
  split at h
  · cases h
  split at h
  · cases h
    exact .refl s
  · cases h
    obtain ⟨hg, hothers, hmem, -, -, -, hprefs⟩ := remember_untouched s s.g.cluster tr
    exact ⟨⟨_, _, by rw [modG_g, hg]⟩, hothers, hmem, hprefs⟩

theorem addUnit_begun (s : State) (op : MemOp) (r : LaneReq) (loc : Nat) (c : Crypt) (via : Option Tr) :
    Begun s (s.addUnit op r loc c via) := ⟨⟨_, s.g.lastPage, rfl⟩, rfl, rfl, rfl⟩

theorem letIn_begun {s t : State} {op : MemOp} {r : LaneReq} (h : s.letIn op r = .ok t) : Begun s t := by
  unfold State.letIn at h
  split at h
  · split at h
    · cases h
    · cases h
      exact (translate_begun (by assumption)).trans (addUnit_begun ..)
  · cases h
    exact addUnit_begun ..

theorem admitAll_begun (op : MemOp) (rs : List LaneReq) (s : State) : Begun s (State.admitAll op rs s).1 := by
  induction rs generalizing s with
  | nil => exact .refl s
  | cons r rs ih =>
    unfold State.admitAll
    split
    · exact ih s
    · exact (letIn_begun (by assumption)).trans (ih _)

/-- An operation without a second store is admitted unit by unit. -/
theorem admitOp_of_no_tail {op : MemOp} (h : op.tail = none) (s : State) :
    State.admitOp op s = some ((State.admitAll op op.reqs s).1, op, (State.admitAll op op.reqs s).2) := by
  unfold State.admitOp
  simp only [h]

/-! #### A load with lanes that fail (R212, R362) -/

/-- The state in which a load's result has been made pending. -/
def State.pending (s : State) (p : Pend) : State :=
  { s with nextId := s.nextId + 1 }.modG fun g => { g with pend := g.pend ++ [{ p with id := s.nextId, level := g.traps.level }] }

theorem pending_begun (s : State) (p : Pend) : Begun s (s.pending p) := ⟨⟨_, s.g.lastPage, rfl⟩, rfl, rfl, rfl⟩

/-- Some lanes of the load have failed, `r` with the cause `c` first, after the others have begun in `u`; none has met a peer. -/
structure LoadFails (f : FM) (s u : State) (r : LaneReq) (c : Nat) (fs : List (LaneReq × Nat)) : Prop where
  clear : Clear (.ld f) s
  checked : ∀ l ∈ actLanes s.g f.h, s.laneCheck s.g f .load false l = none
  acts : actLanes s.g f.h ≠ []
  room : s.g.ld < 63
  free : s.g.logHolds f.space .load = false
  local_ : (u.g.pend.all fun q => q.kind != .peer) = true
  begun : State.admitAll { loadOp f s.g with pend := s.nextId } (loadOp f s.g).reqs (s.pending (loadPend f f.width.regs)) = (u, (r, c) :: fs)

theorem addrFault_of_checked {s : State} {f : FM} {k : AccKind} {tile : Bool}
    (h : ∀ l ∈ actLanes s.g f.h, s.laneCheck s.g f k tile l = none) : s.addrFault f k tile = none := by
  unfold State.addrFault
  rw [List.findSome?_eq_none_iff]
  intro l hl
  rw [h l hl, Option.map_none]

theorem execLd_eq {f : FM} {s : State} (hc : Clear (.ld f) s) (h : ∀ l ∈ actLanes s.g f.h, s.laneCheck s.g f .load false l = none) :
    exec (.ld f) s = .next (ends (.ld f) s (startLoad (.ld f) f s)) := by
  change issue (.ld f) s _ = _
  rw [issue_clear hc rfl]
  simp only [checked, addrFault_of_checked h]

variable {f : FM} {s u : State} {r : LaneReq} {c : Nat} {fs : List (LaneReq × Nat)}

/-- What the failing lanes' request keeps once the load's result is the one that began. -/
theorem LoadFails.startLoad_eq (h : LoadFails f s u r c fs) :
    startLoad (.ld f) f s =
      if s.g.isSys then .trap c (BitVec.ofNat 64 r.addr)
      else if 4 ≤ s.g.log.length then .stall s
      else .done ((if u.nextId = s.nextId + 1 then u.modG (·.modPend s.nextId (fun p => { p with wit := 0 })) else u).logFault (.ld f)
        { loadOp f s.g with pend := s.nextId } ((r, c) :: fs)) := by
  have hpeer : (u.g.pend.any fun q => q.id == s.nextId && q.kind == .peer) = false := by
    rw [List.any_eq_false]
    intro q hq
    have := List.all_eq_true.mp h.local_ q hq
    simp_all
  have hadmit := admitOp_of_no_tail (op := { loadOp f s.g with pend := s.nextId }) rfl (s.pending (loadPend f f.width.regs))
  rw [show ({ loadOp f s.g with pend := s.nextId } : MemOp).reqs = (loadOp f s.g).reqs from rfl, h.begun] at hadmit
  unfold State.pending State.modG at hadmit
  have hroom : ¬ 63 ≤ s.g.ld := Nat.not_le.mpr h.room
  have hfree : s.g.logHolds (loadOp f s.g).space (loadOp f s.g).kind = false := h.free
  unfold startLoad startOp
  simp only [h.acts, hroom, hfree, if_false, Bool.false_eq_true, State.fresh, State.modG] 
  rw [hadmit]
  simp only [hpeer, Bool.false_eq_true, if_false]
  rfl

/-- The entry that an instruction's failing lanes make in the operand log (R212). -/
def State.logEntry (s : State) (i : Instr) (op : MemOp) (fs : List (LaneReq × Nat)) : LogEntry :=
  let ix := ((List.range 4).find? (fun k => !s.g.log.any (·.ix == k))).getD 0
  ({ ix, seq := s.g.logSeq, pc := s.g.flow.pc, inst := encode i, op, level := s.g.traps.level, locks := sourcesOf i } : LogEntry).failing fs

/-- The FAULT record that asks the Prefect about an entry (R333). -/
def State.faultRecord (s : State) (e : LogEntry) : TrapRec :=
  { s.record s.g 1 with pc := e.pc, tag := e.ix, cause := e.cause, access := e.op.kind.code, value := BitVec.ofNat 64 e.va }

theorem post_trapq {s : State} {p : Nat} (core slot : Nat) (rcd : TrapRec) (hp : p < s.prefs.length) (hroom : (s.pref p).trapq.length < 64)
    (hposted : (s.pref p).posted = []) : ((s.post p core slot rcd).pref p).trapq = (s.pref p).trapq ++ [rcd] := by
  unfold State.post
  rw [pref_modPref _ _ _ hp, if_pos ⟨hroom, hposted⟩]

/-- An entry that asks is a record at the Prefect of the cluster. -/
theorem announce_asks {s : State} {e : LogEntry} (h : e.state = 1) :
    s.announce s.g.ids.ref e = s.post s.g.cluster s.g.ids.core s.g.ids.slot (s.faultRecord e) := by
  simp [State.announce, h, ctx_self, State.faultRecord]

/-- The operand log has a new entry, and the result that it belongs to waits for it. -/
def Ctx.logged (e : LogEntry) (g : Ctx) : Ctx :=
  { g.modPend e.op.pend (fun p => { p with logged := true }) with log := g.log ++ [e], logSeq := (g.logSeq + 1) % 2 ^ 16 }

theorem logFault_eq {s : State} (i : Instr) (op : MemOp) (hc : c = 0x10 ∨ c = 0x11) :
    s.logFault i op ((r, c) :: fs) = (s.modG (·.logged (s.logEntry i op ((r, c) :: fs)))).post s.g.cluster s.g.ids.core s.g.ids.slot
      (s.faultRecord (s.logEntry i op ((r, c) :: fs))) := by
  have hstate : (s.logEntry i op ((r, c) :: fs)).state = 1 := if_pos hc
  exact announce_asks (s := s.modG (·.logged (s.logEntry i op ((r, c) :: fs)))) hstate

/-- Lanes that fail for an absent or denied translation enter the operand log, and the Prefect of the cluster is told. -/
theorem logFault_asks {s : State} (i : Instr) (op : MemOp) (hc : c = 0x10 ∨ c = 0x11) (hp : s.g.cluster < s.prefs.length)
    (hroom : (s.pref s.g.cluster).trapq.length < 64) (hposted : (s.pref s.g.cluster).posted = []) :
    let e := s.logEntry i op ((r, c) :: fs)
    let t := s.logFault i op ((r, c) :: fs)
    t.g.log = s.g.log ++ [e] ∧ t.g.regs = s.g.regs ∧ t.mem = s.mem ∧
      (t.pref s.g.cluster).trapq = (s.pref s.g.cluster).trapq ++ [s.faultRecord e] := by
  intro e t
  have ht : t = _ := logFault_eq i op hc
  rw [ht]
  exact ⟨rfl, rfl, rfl, post_trapq _ _ _ hp hroom hposted⟩

/-- A system core takes the fault at the instruction (R362). -/
theorem LoadFails.faults (h : LoadFails f s u r c fs) (hsys : s.g.isSys = true) :
    exec (.ld f) s = .next (s.raise c s.g.flow.pc (BitVec.ofNat 64 r.addr)) := by
  rw [execLd_eq h.clear h.checked, h.startLoad_eq, if_pos hsys]
  rfl

/-- The load of a group completes, and its entry asks for the failing lanes. -/
theorem LoadFails.completes (h : LoadFails f s u r c fs) (hsys : s.g.isSys = false) (hlog : s.g.log.length < 4) (hc : c = 0x10 ∨ c = 0x11)
    (hp : s.g.cluster < s.prefs.length) (hroom : (s.pref s.g.cluster).trapq.length < 64) (hposted : (s.pref s.g.cluster).posted = []) :
    ∃ w, Begun s w ∧
      let op := { loadOp f s.g with pend := s.nextId }
      let e := w.logEntry (.ld f) op ((r, c) :: fs)
      let t := w.logFault (.ld f) op ((r, c) :: fs)
      Does (.ld f) s t ∧ t.g.log = s.g.log ++ [e] ∧ t.g.regs = s.g.regs ∧ t.mem = s.mem ∧
        (t.pref s.g.cluster).trapq = (s.pref s.g.cluster).trapq ++ [w.faultRecord e] := by
  let w := if u.nextId = s.nextId + 1 then u.modG (·.modPend s.nextId (fun p => { p with wit := 0 })) else u
  have hu : Begun s u := by
    have := admitAll_begun { loadOp f s.g with pend := s.nextId } (loadOp f s.g).reqs (s.pending (loadPend f f.width.regs))
    rw [h.begun] at this
    exact (pending_begun ..).trans this
  have hw : Begun s w := by
    dsimp only [w]
    split
    · exact hu.trans ⟨⟨_, u.g.lastPage, rfl⟩, rfl, rfl, rfl⟩
    · exact hu
  obtain ⟨pend, lastPage, hg⟩ := hw.g
  have hpref : w.pref s.g.cluster = s.pref s.g.cluster := by unfold State.pref; rw [hw.prefs]
  have hasks := logFault_asks (s := w) (r := r) (fs := fs) (.ld f) { loadOp f s.g with pend := s.nextId } hc
    (by rw [hw.cluster, hw.prefs]; exact hp) (by rw [hw.cluster, hpref]; exact hroom) (by rw [hw.cluster, hpref]; exact hposted)
  rw [hw.cluster, hpref] at hasks
  obtain ⟨hl, hr, hm, hq⟩ := hasks
  refine ⟨w, hw, ?_, ?_, ?_, hm.trans hw.mem, hq⟩
  · unfold Does
    rw [execLd_eq h.clear h.checked, h.startLoad_eq, hsys, if_neg Bool.false_ne_true, if_neg (Nat.not_le.mpr hlog), ends_done]
  · rw [hl, hg]
  · rw [hr, hg]

/-! #### The replay of a resolved entry (R213) -/

theorem switch_of_unknown {s : State} {c : CtxRef} (h : ∀ x ∈ s.others, x.ids.ref ≠ c) : s.switch c = s := by
  have hn : s.others.find? (fun x => x.ids.ref == c) = none := by
    rw [List.find?_eq_none]
    exact fun x hx => by simpa using h x hx
  unfold State.switch
  rw [hn]

theorem via_self {s : State} {f : State → State} (h : ∀ x ∈ s.others, x.ids.ref ≠ s.g.ids.ref) (hf : (f s).others = s.others) :
    s.via s.g.ids.ref f = f s := by
  unfold State.via
  rw [switch_of_unknown h]
  exact switch_of_unknown (hf ▸ h)

theorem operandLogReplay_resolves {s u : State} {e : LogEntry} (hself : s.arg.c = s.g.ids.ref)
    (hothers : ∀ x ∈ s.others, x.ids.ref ≠ s.g.ids.ref) (hfind : s.g.log.find? (·.state == 2) = some e) (hpend : e.op.pend ≠ 0)
    (htail : e.op.tail = none) (hadmit : State.admitAll e.op e.op.reqs s = (u, [])) :
    exec .operandLogReplay s = .next (u.modG fun g => { g.modPend e.op.pend (fun p => { p with logged := false }) with
      log := g.log.filter (fun x => x.ix != e.ix) }) := by
  have hb : Begun s u := by
    have := admitAll_begun e.op e.op.reqs s
    rwa [hadmit] at this
  have hop := admitOp_of_no_tail htail s
  rw [hadmit] at hop
  change execOperandLogReplay s = _
  unfold execOperandLogReplay
  rw [hself, ctx_self]
  simp only [Option.bind_some, hfind]
  rw [via_self hothers] <;> simp only [hpend, if_false, hop]
  exact hb.others

/-- A change of result `id` leaves every result of that name with what the change gives. -/
theorem modPend_gives {g : Ctx} {id : Nat} {k : Pend → Pend} {P : Pend → Prop} (hk : ∀ p, P (k p)) :
    ∀ p ∈ (g.modPend id k).pend, p.id = id → P p := by
  intro p hp hid
  obtain ⟨q, -, rfl⟩ := List.mem_map.mp hp
  split at hid
  · rw [if_pos (by assumption)]
    exact hk q
  · contradiction

end Sys2Proof.Machine

namespace Sys2Proof.Machine

/-- Settles O35. A result that is due lands (`Landed`), whichever event names it; a load with failing lanes completes with an entry, or faults on a system core
(`LoadFails`); and a resolved entry is replayed by admitting its units again. -/
theorem resultsReturn : Obligations.ResultsReturn := by
  unfold Obligations.ResultsReturn
  refine ⟨fun s p => ?_, fun f s u r c fs => ?_⟩
  · intro live touched due landed uniOk
    have hdue (hd : due) (hy : uniOk) : Due s p := by
      obtain ⟨hself, hnamed, hfirst, hcomplete, hquiet, hstatus, hunits, hapart⟩ := hd
      exact ⟨hself, hnamed, hfirst, hcomplete, hquiet,
        ⟨hstatus, fun e he => (hunits e he).1, fun e he => (hunits e he).2, hapart, hy⟩⟩
    have hlanded (t : State) (h : Landed s p t) : landed t :=
      ⟨h.units, h.lanes, h.uniform, h.load, h.store, h.pend, h.mem, h.flow⟩
    refine ⟨fun hd hy hk => ?_, fun hd hy hk => ?_, fun hd hy _ hready hfind => ?_, fun g => ldlkRetry_unstalls⟩
    · obtain ⟨t, ht, hl⟩ := loadDataReturn_lands (hdue hd hy) hk
      exact ⟨t, ht, hlanded t hl⟩
    · obtain ⟨t, ht, hl, hw⟩ := peerLoadReturn_lands (hdue hd hy) hk
      exact ⟨t, ht, hlanded t hl, hw⟩
    · obtain ⟨t, ht, hl⟩ := pendingWriteComplete_lands (hdue hd hy) hready hfind
      exact ⟨t, ht, hlanded t hl⟩
  · intro q begun can
    have hcan (h : can) : LoadFails f s u r c fs := by
      obtain ⟨hw.clusterear, hchecked, hacts, hroom, hfree, hlocal, hbegun⟩ := h
      exact ⟨hw.clusterear, hchecked, hacts, hroom, hfree, hlocal, hbegun⟩
    refine ⟨fun h hsys => (hcan h).faults hsys, fun h hsys hlog hc hp hroom hposted => ?_, fun e hself hothers hfind hpend htail hadmit => ?_⟩
    · obtain ⟨w, hw, hdoes, hl, hregs, hmem, hq⟩ := (hcan h).completes hsys hlog hc hp hroom hposted
      exact ⟨_, _, _, hdoes, hl, congrArg (·.pc) hw.flow, if_pos hc, rfl, rfl, rfl, rfl, hw.level, hq, rfl, hw.handle, rfl, rfl, rfl, hregs, hmem⟩
    · have hb := admitAll_begun e.op e.op.reqs s
      rw [hadmit] at hb
      exact ⟨_, operandLogReplay_resolves hself hothers hfind hpend htail hadmit, rfl, rfl, hb.mem,
        modPend_gives (P := (·.logged = false)) fun _ => rfl⟩

end Sys2Proof.Machine
